-- ==== Sys2Proof/Word.lean ====
section
/-! DEFINITION. The word types of the JP-416: bus words, bytes, marks, counters, event words and cycle numbers. -/

namespace Sys2Proof

/-- A word of the 16-bit management port (spec 11 section 11.1). -/
abbrev Word := BitVec 16

/-- A byte of a layout (spec 01 section 1.7). -/
abbrev Byte := BitVec 8

/-- A terminal mark, a 48-bit identity (spec 00 section 4). -/
abbrev Mark := BitVec 48

/-- A 32-bit counter, which wraps (R188). -/
abbrev Count := BitVec 32

/-- A word of the Event Queue (R190). -/
abbrev EventWord := BitVec 32

/-- A cycle number of one tree; sums are taken modulo 65,536 (R1). -/
abbrev Cycle := BitVec 16

/-- A tree port, tree 0 to tree 3 (spec 00 section 4). -/
abbrev TreeId := Fin 4

/-- The forward distance from one cycle to another, modulo 65,536 (R1). -/
def Cycle.distance (start finish : Cycle) : Nat := (finish - start).toNat

end Sys2Proof
end

