-- ==== Sys2Proof/Syntax.lean ====
section
/-! DEFINITION. The commands of the JP-416: one constructor per row of spec/opcode_table.json, with the operands of the
interface the command comes through (log 3). -/

namespace Sys2Proof

/-- One burst report as its bytes lie in the layout of spec 01 section 1.7. -/
structure ReportRecord where
  tree : Byte
  flags : Byte
  index : Byte
  result : Byte
  arrival : Word
  header : Word
  burstCount : Byte
  payloadLength : Byte
  payload : List Byte
  deriving DecidableEq, Repr

/-- One grant of a PLAN frame: three 16-bit fields (spec 01 section 1.7). -/
structure PlanGrant where
  handle : Word
  start : Word
  length : Word
  deriving DecidableEq, Repr

/-- The commands, one constructor per row of spec/opcode_table.json. -/
inductive Instr where
  | treeConfig (tree item value0 value1 : Word)
  | treeTune (tree param value : Word)
  | enable (tree : Word)
  | hold (tree : Word)
  | resume (tree : Word)
  | disable (tree : Word)
  | reserve (mark : Mark) (handle : Word)
  | unreserve (handle : Word)
  | bar (mark : Mark)
  | unbar (mark : Mark)
  | release (handle : Word)
  | hush (handle : Word)
  | unhush (handle : Word)
  | forceRange (handle : Word)
  | readEntry (handle page : Word)
  | findMark (mark : Mark)
  | readSlot (tree offset index page : Word)
  | readCounters (tree number clear : Word)
  | sweepStart (tree dwell : Word)
  | sweepAbort (tree : Word)
  | lock
  | softReset
  | badCode (code arg0 arg1 arg2 arg3 : Word)
  | goWhileBusy
  | indicationClearWrite (address : Byte) (value : Word)
  | enableRegisterWrite (address : Byte) (value : Word)
  | eventQueueRead
  | lostRecordCountRead
  | registerWrite (address : Byte) (value : Word)
  | hardwareReset
  | boundary (tree : TreeId)
  | burstReport (port : TreeId) (record : ReportRecord)
  | plan (tree : Byte) (cycle : Word) (grants : List PlanGrant)
  | sync
  | idle
  | invalidFrame (bytes : List Byte)
  | silenceTimerExpiry
  | transmitterHoldEnd
  | frameTransmit
  | rosterDumpStep
  | discoveryTimerExpiry (tree : TreeId)
  | coolingExpiry (tree : TreeId)
  | timedBarExpiry (tree : TreeId)
  | graceExpiry (tree : TreeId)
  | dwellExpiry (tree : TreeId)
  | busyClears
  | bundleByteTaken (tree : TreeId)
  deriving DecidableEq, Repr

end Sys2Proof
end

