-- ==== Sys2Proof/Decode.lean ====
section
/-! DEFINITION. The words of spec/opcode_table.json, the check code of R17, and the frames the part receives on the scheduler
link, from and to their bytes (R86, spec 01 section 1.7). -/

namespace Sys2Proof

/-- The command a table word spells: none, because the table gives no row any bits. -/
def decodeTableWord (nbits w : Nat) : Option Instr :=
  match nbits, w with
  | _, _ => none

/-- A number as `n` bytes, the most significant first (spec 01 section 1.7). -/
def bytesOf : Nat → Nat → List Byte
  | 0, _ => []
  | n + 1, v => BitVec.ofNat 8 (v / 256 ^ n) :: bytesOf n v

/-- The number a run of bytes spells, the most significant first (spec 01 section 1.7). -/
def numberOf (bytes : List Byte) : Nat := bytes.foldl (fun v b => v * 256 + b.toNat) 0

/-- One bit of the cyclic remainder under x^16 + x^12 + x^5 + 1 (R17). -/
def checkBit (r : Word) : Word := if r.msb then (r <<< 1) ^^^ 0x1021#16 else r <<< 1

/-- One byte of the cyclic remainder, most significant bit first (R17). -/
def checkByte (r : Word) (b : Byte) : Word :=
  checkBit (checkBit (checkBit (checkBit (checkBit (checkBit (checkBit (checkBit
    (r ^^^ (b.setWidth 16 <<< 8)))))))))

/-- The 16-bit check code of a run of bytes: started at all ones, no final inversion (R17). -/
def checkCode (bytes : List Byte) : Word := bytes.foldl checkByte 0xFFFF#16

/-- Bytes followed by their check code (R17). -/
def withCheck (bytes : List Byte) : List Byte := bytes ++ bytesOf 2 (checkCode bytes).toNat

/-- The kinds of valid frame the part receives (R86). -/
inductive ReceivedFrame where
  | plan (tree : Byte) (cycle : Word) (grants : List PlanGrant)
  | sync
  | idle
  deriving DecidableEq, Repr

/-- The grants of a PLAN body, six bytes each (spec 01 section 1.7). -/
def decodeGrants : List Byte → List PlanGrant
  | h1 :: h0 :: s1 :: s0 :: l1 :: l0 :: rest =>
    { handle := h1 ++ h0, start := s1 ++ s0, length := l1 ++ l0 } :: decodeGrants rest
  | _ => []

/-- A frame's type and body, when the type is one the part receives and the body length is the one the kind asks for
(R86, third and fourth test). -/
def decodeBody (kind : Byte) (body : List Byte) : Option ReceivedFrame :=
  match kind.toNat, body with
  | 1, tree :: c1 :: c0 :: count :: grants =>
    if grants.length = 6 * count.toNat then some (.plan tree (c1 ++ c0) (decodeGrants grants)) else none
  | 2, [] => some .sync
  | 3, [] => some .idle
  | _, _ => none

/-- The frame that received bytes spell, none when they are not a valid frame: the four tests of R86. -/
def decodeFrame (bytes : List Byte) : Option ReceivedFrame :=
  match bytes with
  | kind :: l1 :: l0 :: rest =>
    let bodyLength := (l1 ++ l0 : BitVec 16).toNat
    if bytes.length = 5 + bodyLength then
      if bytes = withCheck (bytes.take (3 + bodyLength)) then decodeBody kind (rest.take bodyLength) else none
    else none
  | _ => none

/-- The bytes of one grant of a PLAN body (spec 01 section 1.7). -/
def PlanGrant.bytes (g : PlanGrant) : List Byte :=
  bytesOf 2 g.handle.toNat ++ bytesOf 2 g.start.toNat ++ bytesOf 2 g.length.toNat

/-- The bytes of a link frame: type, body length, body, check code (spec 01 section 1.7). -/
def frameOf (kind : Nat) (body : List Byte) : List Byte :=
  withCheck (bytesOf 1 kind ++ bytesOf 2 body.length ++ body)

/-- The bytes of a frame the scheduler sends (spec 01 section 1.7). -/
def ReceivedFrame.bytes : ReceivedFrame → List Byte
  | .plan tree cycle grants =>
    frameOf 1 ([tree] ++ bytesOf 2 cycle.toNat ++ bytesOf 1 grants.length ++ grants.flatMap PlanGrant.bytes)
  | .sync => frameOf 2 []
  | .idle => frameOf 3 []

end Sys2Proof
end

