-- ==== Sys2Proof/Config.lean ====
section
/-! DEFINITION. The fixed numbers of the part (spec 00 section 4) and the one free value of the model. -/

namespace Sys2Proof.Config

/-- Grains of one upstream cycle (R1). -/
def grainsPerCycle : Nat := 16000
/-- Grains of one segment (R1). -/
def grainsPerSegment : Nat := 1000
/-- Segments of one cycle (R1). -/
def segmentsPerCycle : Nat := 16
/-- Slots of a calendar ring (R57). -/
def ringSlots : Nat := 16
/-- The guard between two reservations, in grains (R2). -/
def guardGrains : Nat := 16
/-- The length of an answer burst and of an echo slot (R6, R9, R11). -/
def answerGrains : Nat := 80
/-- The number of handles of the part (R18). -/
def handles : Nat := 512
/-- The send lead: the bundle of cycle N + 6 is sent at the boundary into N (R3). -/
def sendLead : Nat := 6
/-- The first cycle of the horizon is N + 7 (R58). -/
def horizonFirst : Nat := 7
/-- The last cycle of the horizon is N + 14 (R58). -/
def horizonLast : Nat := 14
/-- Shortest scheduler grant (R91). -/
def minGrant : Nat := 32
/-- Most grants of one plan (R90). -/
def maxGrants : Nat := 64
/-- Most echo slots placed at one send (R73). -/
def maxEchoes : Nat := 4
/-- Enrollment slots of a tree (R24). -/
def enrollSlots : Nat := 8
/-- Most burst reports taken for one quiet window (R15). -/
def maxBursts : Nat := 16
/-- Most messages of a Control Queue (R159). -/
def queueCapacity : Nat := 32
/-- Most queued messages of one bundle (R162). -/
def messagesPerBundle : Nat := 4
/-- Most records of the Bar List (R28). -/
def barCapacity : Nat := 32
/-- Boundaries of one hold-off unit (R32). -/
def boundariesPerHoldOff : Nat := 256
/-- Cooling time of a handle, in cycles (R55). -/
def coolingCycles : Nat := 32
/-- Longest mark head a CALL may carry, in bits (R103). -/
def maxHeadBits : Nat := 16
/-- Most words of the Event Queue (R190). -/
def eventCapacity : Nat := 1024
/-- Most frames of the outgoing frame queue (R87). -/
def frameCapacity : Nat := 512
/-- The silence time and the transmitter hold, 2.048 ms, in microseconds (R85, R87). -/
def silenceMicros : Nat := 2048
/-- Judgements kept in the stray history (R173). -/
def strayHistory : Nat := 8
/-- Stray judgements that make a tree ROGUE (R174). -/
def rogueThreshold : Nat := 3
/-- Clean cycles in a row that clear the rogue state (R175). -/
def cleanRunToClear : Nat := 16
/-- Lit cycles that clear the dark state (R156). -/
def litRunToClear : Nat := 2

/-- DESIGN CHOICE (log 4), safe. The free value behind every order the manual leaves open: draw number n of a run.
Nothing fixes it, so a statement that holds for it holds for every order. -/
opaque freeChoice : Nat → Nat

end Sys2Proof.Config
end

