-- ==== Sys2Proof/Machine/State.lean ====
section
/-! DEFINITION. Everything the spec gives the JP-416 to hold, as plain data, and the machine right after a hardware reset. -/

namespace Sys2Proof.Machine

/-- The machine never stops with a fault: the manual gives every command, frame and report an outcome. Nobody raises one;
safe. -/
inductive Fault : Type
  deriving DecidableEq, Repr

/-- Why a command has no meaning. -/
inductive Refusal : Type where
  /-- Raised by exec's arm of a command that has no meaning yet (no arm is such a one now); safe, the machine stops. -/
  | notModelled (mnemonic : String)
  deriving DecidableEq, Repr

/-! ## Terminal Register (spec 02) -/

/-- The nine states of an entry (R18). -/
inductive EntryState where
  | free | reserved | candidate | settling | registered | lost | reranging | hushed | departing
  deriving DecidableEq, Repr

/-- Why an entry is being measured (R19). -/
inductive RangingOrigin where
  | enroll | rerange | forced
  deriving DecidableEq, Repr

/-- The state of an entry's last TRIM (R19). -/
inductive TrimState where
  | none | queued | effective (cycle : Cycle)
  deriving DecidableEq, Repr

/-- The kinds of owed message (R19). -/
inductive OwedKind where
  | release | hush | unhush
  deriving DecidableEq, Repr

/-- An owed message with its remaining sends (R19). -/
structure Owed where
  kind : OwedKind
  sends : Nat
  deriving DecidableEq, Repr

/-- Why an entry is departing (R19). -/
inductive DepartureReason where
  | host | grace | leave | measureFailure
  deriving DecidableEq, Repr

/-- One entry of the Terminal Register; an absent field is `none` (R19). -/
structure Entry where
  state : EntryState
  mark : Option Mark
  termClass : Option Nat
  reservedByHost : Option Bool
  delay : Option Nat
  generation : Option Nat
  lastSample : Option Int
  measureAttempts : Option Nat
  origin : Option RangingOrigin
  measureCycle : Option Cycle
  settleSample : Option Nat
  settleAttempts : Option Nat
  settleEchoCycle : Option Cycle
  missCount : Option Nat
  lastObserved : Option Cycle
  lostSince : Option Cycle
  graceCount : Option Nat
  driftPending : Option Int
  trim : Option TrimState
  probeInFlight : Option Bool
  leavingSeen : Option Bool
  owed : Option Owed
  reason : Option DepartureReason
  sweepOwned : Option Bool
  deriving DecidableEq, Repr

/-- A FREE entry: every field absent (R20, R21). -/
def Entry.free : Entry :=
  { state := .free, mark := none, termClass := none, reservedByHost := none, delay := none, generation := none,
    lastSample := none, measureAttempts := none, origin := none, measureCycle := none, settleSample := none,
    settleAttempts := none, settleEchoCycle := none, missCount := none, lastObserved := none, lostSince := none,
    graceCount := none, driftPending := none, trim := none, probeInFlight := none, leavingSeen := none,
    owed := none, reason := none, sweepOwned := none }

/-- A map keyed by numbers, as a list of pairs with rising keys; an unlisted key holds nothing. -/
abbrev NumMap (α : Type) := List (Nat × α)

/-- The kind of a Bar List record (R28). -/
inductive BarKind where
  | permanent
  | timed (setter : TreeId) (holdOff units : Nat)
  deriving DecidableEq, Repr

/-- One record of the Bar List (R28). -/
structure BarRecord where
  mark : Mark
  kind : BarKind
  deriving DecidableEq, Repr

/-! ## Tree Control and the Handle Allocator (spec 03) -/

/-- The three states of a tree (R42). -/
inductive TreeState where
  | disabled | active | held
  deriving DecidableEq, Repr

/-- The values of the segment map (R38). -/
inductive SegmentUse where
  | closed | sched | part | shared
  deriving DecidableEq, Repr

/-- The values of the backoff range B (R38). -/
inductive BackoffRange where
  | b0 | b512 | b1024 | b2048
  deriving DecidableEq, Repr

/-- The values of the discovery prescaler (R38). -/
inductive Prescaler where
  | by1 | by8 | by64 | by512
  deriving DecidableEq, Repr

/-- The structural configuration of a tree (R38). The segment map is one item, two bits a segment, the lowest segment
lowest (spec 11 section 11.3). -/
structure TreeConfig where
  windowBase : Nat
  windowLength : Nat
  segmentMap : BitVec 32
  teq : Word
  minRtt : Word
  maxRtt : Word
  backoff : BackoffRange
  prescaler : Prescaler
  interval : Word
  deriving DecidableEq, Repr

/-- One value for each tuning parameter (R40); admission is 0 for OPEN and 1 for LISTED (spec 11 section 11.3). -/
structure TuneTable (α : Type) where
  admission : α
  measureAttempts : α
  tolerance : α
  deadBand : α
  hardLimit : α
  probeInterval : α
  lostThreshold : α
  grace : α
  darkThreshold : α
  holdOff : α
  deriving DecidableEq, Repr

/-- The per-tree counters (R188). -/
structure TreeCounters where
  helloOk : Count
  helloDiscarded : Count
  collisionWindows : Count
  measureFails : Count
  registrations : Count
  releases : Count
  trimsSent : Count
  trimsDropped : Count
  grantsStruck : Count
  plansLate : Count
  plansMissing : Count
  strayCycles : Count
  expiriesIgnored : Count
  enrollBusy : Count
  deriving DecidableEq, Repr

/-- The names of the per-tree counters (R188). -/
inductive TreeCounter where
  | helloOk | helloDiscarded | collisionWindows | measureFails | registrations | releases | trimsSent | trimsDropped
  | grantsStruck | plansLate | plansMissing | strayCycles | expiriesIgnored | enrollBusy
  deriving DecidableEq, Repr

/-- The names of the tuning parameters (R40). -/
inductive TuneParam where
  | admission | measureAttempts | tolerance | deadBand | hardLimit | probeInterval | lostThreshold | grace
  | darkThreshold | holdOff
  deriving DecidableEq, Repr

/-- The names of the items TREE_CONFIG writes (R39). -/
inductive ConfigItem where
  | window | segmentMap | teq | minRtt | maxRtt | backoff | prescaler | interval
  deriving DecidableEq, Repr

/-- The kinds of event record (spec 01 section 1.7). -/
inductive EventKind where
  | discovered | registered | rejoin | lost | found | released | left | measureFailed | rerange | hushed | markClash
  | misplaced | stranger | barred | barListFull | tableFull | splitDepth | trimLost | planLate | unhushed | darkOn
  | darkOff | rogueOn | rogueOff | sweepFound | sweepExhausted | sweepAborted | linkUp | linkSilent
  deriving DecidableEq, Repr

/-- Four flags of a tree: its indications, or their enables (R184, R189). -/
structure TreeFlags where
  darkChg : Bool
  rogueChg : Bool
  sweepEnd : Bool
  tableFull : Bool
  deriving DecidableEq, Repr

/-- A record of the Cool-down Queue (R54). -/
structure CoolRecord where
  handle : Nat
  released : Cycle
  deriving DecidableEq, Repr

/-! ## The Window Calendar (spec 04) -/

/-- The head of a mark that a CALL asks for: the top `bits` bits, read as a number (R103). -/
structure MarkHead where
  bits : Nat
  value : Nat
  deriving DecidableEq, Repr

/-- The results of a burst report (R12). -/
inductive ReportResult where
  | good | badCheck | noLight | edge | windowEnd
  deriving DecidableEq, Repr

/-- The status an ECHO carries (R11). -/
inductive EchoStatus where
  | ok | leaving
  deriving DecidableEq, Repr

/-- The answer fields a GOOD report carries (R11). -/
inductive Payload where
  | hello (mark : Mark) (termClass backoff : Nat)
  | answer (mark : Mark) (handle : Nat)
  | echo (handle : Nat) (status : EchoStatus) (generation : Nat)
  deriving DecidableEq, Repr

/-- The header handle of a report (R12). -/
inductive HeaderHandle where
  | handle (h : Nat)
  | noHandle
  deriving DecidableEq, Repr

/-- What a report showed: the outcome of a grant or echo slot, or one burst of a quiet window (R57). -/
structure Burst where
  result : ReportResult
  arrival : Option Nat
  header : Option HeaderHandle
  payload : Option Payload
  deriving DecidableEq, Repr

/-- The kinds of reservation (R57). -/
inductive ReservationKind where
  | grant | quietCall | quietMeasure | echo
  deriving DecidableEq, Repr

/-- What an echo slot answers (R57). -/
inductive EchoPurpose where
  | probe | settle
  deriving DecidableEq, Repr

/-- One reservation of a slot's list (R57). -/
structure Reservation where
  kind : ReservationKind
  handle : Option Nat
  start : Nat
  length : Nat
  answerPoint : Option Nat
  head : Option MarkHead
  purpose : Option EchoPurpose
  outcome : Option Burst
  bursts : List Burst
  ended : Bool
  deriving DecidableEq, Repr

/-- The seven states of a slot (R58). -/
inductive SlotState where
  | opened | claimed | planned | filled | sent | arriving | closing
  deriving DecidableEq, Repr

/-- One slot of the calendar ring (R57). -/
structure Slot where
  cycle : Cycle
  state : SlotState
  reservations : List Reservation
  stray : Bool
  deriving DecidableEq, Repr

/-- A request of the Claim List (R65). -/
inductive Claim where
  | rerange (handle : Nat)
  | measure (handle : Nat)
  | forced (handle : Nat)
  | call (head : MarkHead)
  deriving DecidableEq, Repr

/-- What the Window Calendar of a tree holds (R57, R61, R65, R72). -/
structure Calendar where
  ring : List Slot
  quietPosition : Option Nat
  claims : List Claim
  settleDue : List Nat
  deriving DecidableEq, Repr

/-! ## The engines (spec 06 to 10) -/

/-- The stage of a call record (R104). -/
inductive CallStage where
  | waiting | granted (cycle : Cycle) | onAir (cycle : Cycle)
  deriving DecidableEq, Repr

/-- The call record (R104). -/
structure CallRecord where
  head : MarkHead
  stage : CallStage
  heldIgnored : Bool
  deriving DecidableEq, Repr

/-- What the discovery engine of a tree holds (R101 to R104). `expiryDue` is the model's own: an expiry of the timer has
occurred and is not yet judged (log 6). -/
structure Discovery where
  prescaleCount : Nat
  counter : Nat
  armed : Bool
  expiryDue : Bool
  running : Bool
  call : Option CallRecord
  stack : List MarkHead
  deriving DecidableEq, Repr

/-- A cycle tally (R155). -/
structure Tally where
  cycle : Cycle
  counted : Bool
  lit : Bool
  deriving DecidableEq, Repr

/-- What the upkeep engine of a tree holds (R145, R155, R156). `graceDue` is the model's own: the handles that a grace step
found due and whose departure is not yet taken (log 6). -/
structure Upkeep where
  probeDue : List Nat
  graceDue : List Nat
  tallies : List Tally
  dark : Bool
  darkRun : Nat
  litRun : Nat
  deriving DecidableEq, Repr

/-- A queued message of the Control Queue (R159). -/
inductive QueuedMessage where
  | hush (handle : Nat)
  | release (handle : Nat) (mark : Mark)
  | unhush (handle : Nat)
  | trim (handle : Nat) (amount : Int) (generation : Nat)
  deriving DecidableEq, Repr

/-- The Control Queue of a tree in its order, and the obligation backlog (R159). -/
structure ControlQueue where
  queue : List QueuedMessage
  backlog : List Nat
  deriving DecidableEq, Repr

/-- The stage of a running sweep (R177). -/
inductive SweepStage where
  | hushing | observing
  deriving DecidableEq, Repr

/-- The items of a running Isolation Sweep (R177). -/
structure Sweep where
  stage : SweepStage
  cursor : Nat
  dwell : Nat
  current : Nat
  hushCycle : Option Cycle
  tried : Nat
  deriving DecidableEq, Repr

/-- What the Rogue Monitor of a tree holds (R173, R174, R177); a stray judgement is `true`. -/
structure RogueMonitor where
  history : List Bool
  rogue : Bool
  cleanRun : Nat
  sweep : Option Sweep
  deriving DecidableEq, Repr

/-- Everything the part holds for one tree. `handover` is the bytes of the bundle the framer has not yet taken (R7). -/
structure Tree where
  state : TreeState
  config : TreeConfig
  tuning : TuneTable Nat
  pending : TuneTable (Option Nat)
  n : Cycle
  freePool : List Nat
  coolDown : List CoolRecord
  counters : TreeCounters
  indications : TreeFlags
  enables : TreeFlags
  handover : List Byte
  calendar : Calendar
  discovery : Discovery
  upkeep : Upkeep
  control : ControlQueue
  rogue : RogueMonitor
  deriving DecidableEq, Repr

/-! ## The Scheduler Link Port (spec 05) -/

/-- The states a ROSTER frame carries (R96). -/
inductive RosterState where
  | registered | lost | removed
  deriving DecidableEq, Repr

/-- Why a plan is refused (R90). -/
inductive PlanReason where
  | tree | horizon | count
  deriving DecidableEq, Repr

/-- Why a grant is struck from a plan (R91). -/
inductive StrikeReason where
  | bounds | window | roster | segment | quiet | overlap
  deriving DecidableEq, Repr

/-- The frames the part makes (spec 01 section 1.7). -/
inductive LinkFrame where
  | cycle (tree : TreeId) (n : Cycle)
  | quiet (tree : TreeId) (cycle : Cycle) (start length : Nat)
  | quietCancel (tree : TreeId) (cycle : Cycle)
  | verdict (tree : Byte) (cycle : Cycle) (refused : Option PlanReason) (struck : List (Nat × StrikeReason))
  | roster (tree : TreeId) (handle : Nat) (state : RosterState) (termClass : Nat)
  | rosterClear (tree : TreeId)
  | syncEnd
  deriving DecidableEq, Repr

/-- The mode of a roster dump (R98). -/
inductive DumpMode where
  | rostered | all
  deriving DecidableEq, Repr

/-- A running roster dump (R98). -/
structure RosterDump where
  cursor : Nat
  mode : DumpMode
  deriving DecidableEq, Repr

/-! ## The Management Port (spec 11) -/

/-- The status codes (R185). -/
inductive Status where
  | done | badCode | badArg | wrongTreeState | locked | wrongEntryState | notInWindow | notFree | markKnown | barFull
  | notRogue | sweepBusy | config | overlap | noPart | span
  deriving DecidableEq, Repr

/-- Four like things with a number from 0 to 3: the trees, the argument words, the result words. -/
structure Quad (α : Type) where
  q0 : α
  q1 : α
  q2 : α
  q3 : α
  deriving DecidableEq, Repr

/-- What a command gives when it completes. `resetDue` says that the act of a SOFT_RESET is still to be made before BUSY
clears (R193, log 10). -/
structure Completion where
  status : Status
  results : Quad Word
  resetDue : Bool
  deriving DecidableEq, Repr

/-- The running command: its copy of the code and the arguments, and what it will give (R185). -/
structure Running where
  code : Word
  args : Quad Word
  completion : Completion
  deriving DecidableEq, Repr

/-- The stored part indications; EQ_NONEMPTY is a view of the Event Queue (R189). -/
structure PartIndications where
  eqOverflow : Bool
  linkChg : Bool
  collide : Bool
  deriving DecidableEq, Repr

/-- The part enables (R184). -/
structure PartEnables where
  eqNonempty : Bool
  eqOverflow : Bool
  linkChg : Bool
  collide : Bool
  deriving DecidableEq, Repr

/-- The half flag of the Event Queue read port (R192). -/
inductive Half where
  | upper | lower
  deriving DecidableEq, Repr

/-- The state of the part. `choices` and `freeCount` are the model's own (log 4), `pending` the queue of commands waiting
(log 1), `readData` the value the latest read with a row put on the data bus (log 12). -/
structure State where
  trees : Quad Tree
  partLock : Bool
  entries : NumMap Entry
  markIndex : NumMap Nat
  bars : List BarRecord
  linkUp : Bool
  silenceTimer : Option Nat
  outQueue : List LinkFrame
  sending : Option LinkFrame
  transmitterHold : Option Nat
  dump : Option RosterDump
  linkCheckErrors : Count
  reportErrors : Count
  framesDropped : Count
  commandCode : Word
  args : Quad Word
  running : Option Running
  status : Status
  results : Quad Word
  indications : PartIndications
  enables : PartEnables
  eventQueue : List EventWord
  half : Half
  lostRecords : Word
  readData : Word
  choices : List Nat
  freeCount : Nat
  pending : List Instr
  deriving DecidableEq, Repr

/-! ## Hardware reset -/

/-- The structural configuration of tree k after hardware reset (R38). -/
def TreeConfig.reset (windowBase : Nat) : TreeConfig :=
  { windowBase := windowBase, windowLength := 128, segmentMap := 0, teq := 0, minRtt := 0, maxRtt := 0,
    backoff := .b512, prescaler := .by8, interval := 1250 }

/-- The tuning values in force after hardware reset (R40). -/
def TuneTable.reset : TuneTable Nat :=
  { admission := 0, measureAttempts := 4, tolerance := 4, deadBand := 2, hardLimit := 64, probeInterval := 64,
    lostThreshold := 4, grace := 4000, darkThreshold := 8, holdOff := 16 }

/-- No pending tuning value (R40). -/
def TuneTable.absent : TuneTable (Option Nat) :=
  { admission := none, measureAttempts := none, tolerance := none, deadBand := none, hardLimit := none,
    probeInterval := none, lostThreshold := none, grace := none, darkThreshold := none, holdOff := none }

/-- Every per-tree counter at 0 (R56). -/
def TreeCounters.zero : TreeCounters :=
  { helloOk := 0, helloDiscarded := 0, collisionWindows := 0, measureFails := 0, registrations := 0, releases := 0,
    trimsSent := 0, trimsDropped := 0, grantsStruck := 0, plansLate := 0, plansMissing := 0, strayCycles := 0,
    expiriesIgnored := 0, enrollBusy := 0 }

/-- Every tree flag clear (R194). -/
def TreeFlags.clear : TreeFlags := { darkChg := false, rogueChg := false, sweepEnd := false, tableFull := false }

/-- No ring, no quiet-window position, empty lists (R58, R65, R72). -/
def Calendar.empty : Calendar := { ring := [], quietPosition := none, claims := [], settleDue := [] }

/-- The discovery engine of a tree out of service (R120). -/
def Discovery.clear : Discovery :=
  { prescaleCount := 0, counter := 0, armed := false, expiryDue := false, running := false, call := none, stack := [] }

/-- The upkeep engine of a tree out of service (R158). -/
def Upkeep.clear : Upkeep :=
  { probeDue := [], graceDue := [], tallies := [], dark := false, darkRun := 0, litRun := 0 }

/-- An empty Control Queue and backlog (R172). -/
def ControlQueue.empty : ControlQueue := { queue := [], backlog := [] }

/-- The Rogue Monitor of a tree out of service (R183). -/
def RogueMonitor.clear : RogueMonitor := { history := [], rogue := false, cleanRun := 0, sweep := none }

/-- A tree after hardware reset (R56, R120, R158, R172, R183, R194). -/
def Tree.reset (windowBase : Nat) : Tree :=
  { state := .disabled, config := TreeConfig.reset windowBase, tuning := TuneTable.reset, pending := TuneTable.absent,
    n := 0, freePool := [], coolDown := [], counters := TreeCounters.zero, indications := TreeFlags.clear,
    enables := TreeFlags.clear, handover := [], calendar := Calendar.empty, discovery := Discovery.clear,
    upkeep := Upkeep.clear, control := ControlQueue.empty, rogue := RogueMonitor.clear }

/-- Four words of 0 (R194). -/
def Quad.zero : Quad Word := { q0 := 0, q1 := 0, q2 := 0, q3 := 0 }

/-- The part right after a hardware reset (R36, R38, R40, R56, R87, R100, R120, R158, R172, R183, R194). -/
def State.reset : State :=
  { trees := { q0 := Tree.reset 0, q1 := Tree.reset 128, q2 := Tree.reset 256, q3 := Tree.reset 384 },
    partLock := false, entries := [], markIndex := [], bars := [],
    linkUp := false, silenceTimer := none, outQueue := [], sending := none,
    transmitterHold := some Config.silenceMicros, dump := none,
    linkCheckErrors := 0, reportErrors := 0, framesDropped := 0,
    commandCode := 0, args := Quad.zero, running := none, status := .done, results := Quad.zero,
    indications := { eqOverflow := false, linkChg := false, collide := false },
    enables := { eqNonempty := false, eqOverflow := false, linkChg := false, collide := false },
    eventQueue := [], half := .upper, lostRecords := 0, readData := 0,
    choices := [], freeCount := 0, pending := [] }

end Sys2Proof.Machine
end

