-- ==== Sys2Proof/Machine/Ops.lean ====
section
/-! DEFINITION. The named operations over the part's state: trees, entries and the Mark Index, the Bar List, counters, frames,
event records, indications and the free orders. -/

namespace Sys2Proof.Machine

/-! ## Trees -/

/-- The item of tree or word number t. -/
def Quad.get {α : Type} (q : Quad α) (t : TreeId) : α :=
  match t with
  | 0 => q.q0
  | 1 => q.q1
  | 2 => q.q2
  | 3 => q.q3

/-- The items with number t replaced. -/
def Quad.set {α : Type} (q : Quad α) (t : TreeId) (x : α) : Quad α :=
  match t with
  | 0 => { q with q0 := x }
  | 1 => { q with q1 := x }
  | 2 => { q with q2 := x }
  | 3 => { q with q3 := x }

/-- Each of the four items changed by its own function of its number. -/
def Quad.mapIdx {α β : Type} (q : Quad α) (f : TreeId → α → β) : Quad β :=
  { q0 := f 0 q.q0, q1 := f 1 q.q1, q2 := f 2 q.q2, q3 := f 3 q.q3 }

/-- The four trees in ascending number. -/
def allTrees : List TreeId := [0, 1, 2, 3]

/-- What the part holds for tree t. -/
def State.tree (s : State) (t : TreeId) : Tree := s.trees.get t

/-- One tree's state replaced. -/
def State.setTree (s : State) (t : TreeId) (x : Tree) : State := { s with trees := s.trees.set t x }

/-- One tree's state changed. -/
def State.modTree (s : State) (t : TreeId) (f : Tree → Tree) : State := s.setTree t (f (s.tree t))

/-- One tree's calendar changed. -/
def State.modCalendar (s : State) (t : TreeId) (f : Calendar → Calendar) : State :=
  s.modTree t fun x => { x with calendar := f x.calendar }

/-- One tree's discovery engine changed. -/
def State.modDiscovery (s : State) (t : TreeId) (f : Discovery → Discovery) : State :=
  s.modTree t fun x => { x with discovery := f x.discovery }

/-- One tree's upkeep engine changed. -/
def State.modUpkeep (s : State) (t : TreeId) (f : Upkeep → Upkeep) : State :=
  s.modTree t fun x => { x with upkeep := f x.upkeep }

/-- One tree's Control Queue changed. -/
def State.modControl (s : State) (t : TreeId) (f : ControlQueue → ControlQueue) : State :=
  s.modTree t fun x => { x with control := f x.control }

/-- One tree's Rogue Monitor changed. -/
def State.modRogue (s : State) (t : TreeId) (f : RogueMonitor → RogueMonitor) : State :=
  s.modTree t fun x => { x with rogue := f x.rogue }

/-- The tree is ACTIVE or HELD (R42). -/
def Tree.inService (x : Tree) : Bool := x.state != .disabled

/-- The handle lies in the tree's handle window (R48). -/
def Tree.inWindow (x : Tree) (h : Nat) : Bool :=
  decide (x.config.windowBase ≤ h ∧ h < x.config.windowBase + x.config.windowLength)

/-- The handles of the tree's window in ascending order, the base included (R48). -/
def Tree.windowHandles (x : Tree) : List Nat :=
  (List.range x.config.windowLength).map (x.config.windowBase + ·)

/-- The handles of the window a terminal may hold: all but the base (R48). -/
def Tree.usableHandles (x : Tree) : List Nat := x.windowHandles.drop 1

/-- The tree may ask for a CALL: ACTIVE, not DARK and not ROGUE (R70, R104). -/
def Tree.mayCall (x : Tree) : Bool := x.state == .active && !x.upkeep.dark && !x.rogue.rogue

/-- The tree, ACTIVE or HELD, whose window holds the handle (R18). -/
def State.treeOf (s : State) (h : Nat) : Option TreeId :=
  allTrees.find? fun t => (s.tree t).inService && (s.tree t).inWindow h

/-! ## Numbered maps -/

/-- The value a key holds. -/
def NumMap.get? {α : Type} (m : NumMap α) (k : Nat) : Option α :=
  match m with
  | [] => none
  | (j, a) :: rest => if j = k then some a else NumMap.get? rest k

/-- The map with a key set, rising keys kept. -/
def NumMap.set {α : Type} (m : NumMap α) (k : Nat) (a : α) : NumMap α :=
  match m with
  | [] => [(k, a)]
  | (j, b) :: rest =>
    if k < j then (k, a) :: (j, b) :: rest
    else if k = j then (k, a) :: rest
    else (j, b) :: NumMap.set rest k a

/-- The map without a key. -/
def NumMap.erase {α : Type} (m : NumMap α) (k : Nat) : NumMap α := m.filter fun x => x.1 != k

/-- The keys rise strictly. -/
def NumMap.wf {α : Type} (m : NumMap α) : Bool := decide (m.map Prod.fst).SortedLT

/-! ## Entries and the Mark Index -/

/-- The entry of a handle; an unlisted handle is FREE (R18). -/
def State.entry (s : State) (h : Nat) : Entry := (NumMap.get? s.entries h).getD Entry.free

/-- The entry of a handle replaced; a FREE entry is unlisted. -/
def State.setEntry (s : State) (h : Nat) (e : Entry) : State :=
  { s with entries := if e.state = .free then NumMap.erase s.entries h else NumMap.set s.entries h e }

/-- The entry of a handle changed. -/
def State.modEntry (s : State) (h : Nat) (f : Entry → Entry) : State := s.setEntry h (f (s.entry h))

/-- A mark the manual calls invalid: 0 or all ones. -/
def invalidMark (m : Mark) : Bool := m == 0 || m == BitVec.allOnes 48

/-- A Mark Index lookup (R27). -/
def State.findMark (s : State) (m : Mark) : Option Nat :=
  if invalidMark m then none else NumMap.get? s.markIndex m.toNat

/-- An entry leaves FREE: its record is set and its mark joins the Mark Index (R26). -/
def State.enterEntry (s : State) (h : Nat) (m : Mark) (e : Entry) : State :=
  { s.setEntry h e with markIndex := NumMap.set s.markIndex m.toNat h }

/-- An entry becomes FREE: its mark leaves the Mark Index and every field is absent (R21, R26). -/
def State.freeEntry (s : State) (h : Nat) : State :=
  { s.setEntry h Entry.free with
    markIndex := match (s.entry h).mark with
      | some m => NumMap.erase s.markIndex m.toNat
      | none => s.markIndex }

/-- The entry is in the roster: REGISTERED or LOST (R23). -/
def Entry.inRoster (e : Entry) : Bool := e.state == .registered || e.state == .lost

/-- The entry holds an enrollment slot: CANDIDATE or SETTLING (R24). -/
def Entry.enrolling (e : Entry) : Bool := e.state == .candidate || e.state == .settling

/-- The entry waits on measuring windows: CANDIDATE or RERANGING (R23, R125). -/
def Entry.measuring (e : Entry) : Bool := e.state == .candidate || e.state == .reranging

/-- The enrollment slots in use on a tree (R24). -/
def State.slotsInUse (s : State) (t : TreeId) : Nat :=
  s.entries.countP fun x => (s.tree t).inWindow x.1 && x.2.enrolling

/-! ## The Bar List -/

/-- The record holding a mark (R28). -/
def State.findBar (s : State) (m : Mark) : Option BarRecord := s.bars.find? fun b => b.mark == m

/-- The remaining hold-off of a TIMED record (R28). -/
def BarRecord.holdOff? (b : BarRecord) : Option Nat :=
  match b.kind with
  | .permanent => none
  | .timed _ holdOff _ => some holdOff

/-- The list without the TIMED record of least remaining hold-off, the earliest among equals (R29, R31). `none` when no
record is TIMED. -/
def evictTimed (bars : List BarRecord) : Option (List BarRecord) :=
  match (bars.filterMap BarRecord.holdOff?).min? with
  | none => none
  | some least => some (bars.eraseP fun b => b.holdOff? == some least)

/-- The record of a mark with its kind replaced in its place (R28, R29, R31). -/
def replaceBar (bars : List BarRecord) (m : Mark) (kind : BarKind) : List BarRecord :=
  bars.map fun b => if b.mark = m then { b with kind := kind } else b

/-- A new record joining the list, evicting a TIMED one when the list is full; `none` when 32 records are PERMANENT
(R29, R31). -/
def joinBar (bars : List BarRecord) (b : BarRecord) : Option (List BarRecord) :=
  if bars.length < Config.barCapacity then some (bars ++ [b])
  else (evictTimed bars).map (· ++ [b])

/-! ## Counters -/

/-- The value of a per-tree counter. -/
def TreeCounters.get (c : TreeCounters) : TreeCounter → Count
  | .helloOk => c.helloOk
  | .helloDiscarded => c.helloDiscarded
  | .collisionWindows => c.collisionWindows
  | .measureFails => c.measureFails
  | .registrations => c.registrations
  | .releases => c.releases
  | .trimsSent => c.trimsSent
  | .trimsDropped => c.trimsDropped
  | .grantsStruck => c.grantsStruck
  | .plansLate => c.plansLate
  | .plansMissing => c.plansMissing
  | .strayCycles => c.strayCycles
  | .expiriesIgnored => c.expiriesIgnored
  | .enrollBusy => c.enrollBusy

/-- A per-tree counter set. -/
def TreeCounters.put (c : TreeCounters) (k : TreeCounter) (v : Count) : TreeCounters :=
  match k with
  | .helloOk => { c with helloOk := v }
  | .helloDiscarded => { c with helloDiscarded := v }
  | .collisionWindows => { c with collisionWindows := v }
  | .measureFails => { c with measureFails := v }
  | .registrations => { c with registrations := v }
  | .releases => { c with releases := v }
  | .trimsSent => { c with trimsSent := v }
  | .trimsDropped => { c with trimsDropped := v }
  | .grantsStruck => { c with grantsStruck := v }
  | .plansLate => { c with plansLate := v }
  | .plansMissing => { c with plansMissing := v }
  | .strayCycles => { c with strayCycles := v }
  | .expiriesIgnored => { c with expiriesIgnored := v }
  | .enrollBusy => { c with enrollBusy := v }

/-- A per-tree counter increased by n, wrapping (R188). -/
def State.countBy (s : State) (t : TreeId) (k : TreeCounter) (n : Nat) : State :=
  s.modTree t fun x => { x with counters := x.counters.put k (x.counters.get k + BitVec.ofNat 32 n) }

/-- A per-tree counter increased by one (R188). -/
def State.count (s : State) (t : TreeId) (k : TreeCounter) : State := s.countBy t k 1

/-- REPORT_ERRORS increased by one (R14). -/
def State.countReportError (s : State) : State := { s with reportErrors := s.reportErrors + 1 }

/-! ## Frames to the scheduler -/

/-- A lost frame of this kind leaves the scheduler's roster wrong (R88). -/
def LinkFrame.needsRepair : LinkFrame → Bool
  | .roster .. | .rosterClear .. => true
  | .cycle .. | .quiet .. | .quietCancel .. | .verdict .. | .syncEnd => false

/-- A frame is made: it joins the end of the outgoing queue, or is dropped and counted when the queue is full, a lost
ROSTER or ROSTER_CLEAR starting a repair dump (R87, R88). -/
def State.makeFrame (s : State) (f : LinkFrame) : State :=
  if s.outQueue.length < Config.frameCapacity then { s with outQueue := s.outQueue ++ [f] }
  else
    { s with
      framesDropped := s.framesDropped + 1
      dump := if f.needsRepair then some { cursor := 0, mode := .all } else s.dump }

/-- The ROSTER frame of a notice, with the entry's class as it stands (R96). -/
def State.rosterNotice (s : State) (t : TreeId) (h : Nat) (r : RosterState) : State :=
  s.makeFrame (.roster t h r ((s.entry h).termClass.getD 0))

/-! ## Event records -/

/-- The code of an event kind (spec 01 section 1.7). -/
def EventKind.code : EventKind → Nat
  | .discovered => 0x01
  | .registered => 0x02
  | .rejoin => 0x03
  | .lost => 0x04
  | .found => 0x05
  | .released => 0x06
  | .left => 0x07
  | .measureFailed => 0x08
  | .rerange => 0x09
  | .hushed => 0x0A
  | .markClash => 0x0B
  | .misplaced => 0x0C
  | .stranger => 0x0D
  | .barred => 0x0E
  | .barListFull => 0x0F
  | .tableFull => 0x10
  | .splitDepth => 0x11
  | .trimLost => 0x12
  | .planLate => 0x13
  | .unhushed => 0x14
  | .darkOn => 0x15
  | .darkOff => 0x16
  | .rogueOn => 0x17
  | .rogueOff => 0x18
  | .sweepFound => 0x19
  | .sweepExhausted => 0x1A
  | .sweepAborted => 0x1B
  | .linkUp => 0x1C
  | .linkSilent => 0x1D

/-- The header word of a record: kind, count of extra words, tree, handle (spec 01 section 1.7). -/
def eventHeader (kind : EventKind) (t : TreeId) (h : Nat) (extra : List EventWord) : EventWord :=
  BitVec.ofNat 32 (kind.code * 2 ^ 24 + extra.length * 2 ^ 22 + t.val * 2 ^ 20 + h % 512)

/-- A two-field word: the first in the upper half, the second in the lower (R191). -/
def halves (upper lower : Nat) : EventWord := BitVec.ofNat 32 (upper % 2 ^ 16 * 2 ^ 16 + lower % 2 ^ 16)

/-- Two fields that share one half: the first in its upper byte, the second in its lower (R191). -/
def byteFields (upper lower : Nat) : Nat := upper % 256 * 256 + lower % 256

/-- A word that holds one field: the field as a number, DEDUCED (log 13). -/
def oneField (v : Nat) : EventWord := BitVec.ofNat 32 v

/-- The two words of a mark, the other field of the row in the lower half of the second (R191). A row that names no other
field has 0 there, DEDUCED (log 13). -/
def markWords (m : Mark) (other : Nat) : List EventWord :=
  [BitVec.ofNat 32 (m.toNat / 2 ^ 16), halves m.toNat other]

/-- A signed amount as 16 bits of two's complement (R187, R191). -/
def signed16 (v : Int) : Nat := (BitVec.ofInt 16 v).toNat

/-- A block writes a record: it joins the queue whole, or is dropped whole and counted, EQ_OVERFLOW becoming set (R190). -/
def State.writeEvent (s : State) (kind : EventKind) (t : TreeId) (h : Nat) (extra : List EventWord) : State :=
  if s.eventQueue.length + (1 + extra.length) ≤ Config.eventCapacity then
    { s with eventQueue := s.eventQueue ++ eventHeader kind t h extra :: extra }
  else
    { s with
      lostRecords := if s.lostRecords = 0xFFFF#16 then s.lostRecords else s.lostRecords + 1
      indications := { s.indications with eqOverflow := true } }

/-- The code of an entry state (spec 11 section 11.3). -/
def EntryState.code : EntryState → Nat
  | .free => 0
  | .reserved => 1
  | .candidate => 2
  | .settling => 3
  | .registered => 4
  | .lost => 5
  | .reranging => 6
  | .hushed => 7
  | .departing => 8

/-- The code of a ranging origin (R187). -/
def RangingOrigin.code : RangingOrigin → Nat
  | .enroll => 0
  | .rerange => 1
  | .forced => 2

/-- The code of a departure reason (R187). -/
def DepartureReason.code : DepartureReason → Nat
  | .host => 0
  | .grace => 1
  | .leave => 2
  | .measureFailure => 3

/-- A yes/no value: 1 for yes (R187). -/
def yesNo (b : Bool) : Nat := if b then 1 else 0

/-! ## Indications -/

/-- DARK_CHG of the tree becomes set (R156, R189). -/
def State.setDarkChg (s : State) (t : TreeId) : State :=
  s.modTree t fun x => { x with indications := { x.indications with darkChg := true } }

/-- ROGUE_CHG of the tree becomes set (R174, R175, R189). -/
def State.setRogueChg (s : State) (t : TreeId) : State :=
  s.modTree t fun x => { x with indications := { x.indications with rogueChg := true } }

/-- SWEEP_END of the tree becomes set (R178, R180, R182, R189). -/
def State.setSweepEnd (s : State) (t : TreeId) : State :=
  s.modTree t fun x => { x with indications := { x.indications with sweepEnd := true } }

/-- TABLE_FULL of the tree becomes set (R118, R189). -/
def State.setTableFull (s : State) (t : TreeId) : State :=
  s.modTree t fun x => { x with indications := { x.indications with tableFull := true } }

/-- LINK_CHG becomes set (R85, R189). -/
def State.setLinkChg (s : State) : State := { s with indications := { s.indications with linkChg := true } }

/-- COLLIDE becomes set (R186, R189). -/
def State.setCollide (s : State) : State := { s with indications := { s.indications with collide := true } }

/-! ## Free orders (log 4) -/

/-- One free number: the next of the state's own choices, or when there is none the next draw of Config.freeChoice.
DESIGN CHOICE (log 4), safe: nothing fixes the number. -/
def State.nextChoice (s : State) : Nat :=
  match s.choices with
  | c :: _ => c
  | [] => Config.freeChoice s.freeCount

/-- The state after a free number was taken. -/
def State.dropChoice (s : State) : State :=
  match s.choices with
  | _ :: rest => { s with choices := rest }
  | [] => { s with freeCount := s.freeCount + 1 }

/-- The first n free numbers of the state. -/
def State.takeChoices (s : State) : Nat → List Nat × State
  | 0 => ([], s)
  | n + 1 => ((s.nextChoice :: (s.dropChoice.takeChoices n).1), (s.dropChoice.takeChoices n).2)

/-- The arrangement of a list that a number picks: its digits choose the next item among those left. Every arrangement is
picked by some number, the listed order by 0. -/
def arrangeFuel {α : Type} : Nat → Nat → List α → List α
  | 0, _, rest => rest
  | fuel + 1, c, rest =>
    match rest[c % rest.length]? with
    | some a => a :: arrangeFuel fuel (c / rest.length) (rest.eraseIdx (c % rest.length))
    | none => rest

/-- The arrangement of a list that a number picks. -/
def arrange {α : Type} (c : Nat) (l : List α) : List α := arrangeFuel l.length c l

end Sys2Proof.Machine
end

