-- ==== Sys2Proof/Machine/Flags.lean ====
section
/-! DEFINITION. Every flag word of the part: the indications, their enables, the interrupt line, the part and tree status words,
and the packing of fields into result words (spec 11). -/

namespace Sys2Proof.Machine

/-- A field of a word: its value, `width` bits wide, from bit `low` up. -/
def fieldAt (value width low : Nat) : Nat := value % 2 ^ width * 2 ^ low

/-- A result word of several fields; bits not named are 0 (R187). -/
def packWord (fields : List Nat) : Word := BitVec.ofNat 16 fields.sum

/-- Presence flags in the order of their fields, from the higher bit down to bit 0 (R187). -/
def presenceFlags (flags : List Bool) : Nat := flags.foldl (fun v b => v * 2 + yesNo b) 0

/-- EQ_NONEMPTY follows the Event Queue (R189). -/
def State.eqNonempty (s : State) : Bool := !s.eventQueue.isEmpty

/-- The part indication word (R184). -/
def State.partIndicationWord (s : State) : Word :=
  packWord [fieldAt (yesNo s.eqNonempty) 1 0, fieldAt (yesNo s.indications.eqOverflow) 1 1,
    fieldAt (yesNo s.indications.linkChg) 1 2, fieldAt (yesNo s.indications.collide) 1 3]

/-- The part enable word (R184). -/
def State.partEnableWord (s : State) : Word :=
  packWord [fieldAt (yesNo s.enables.eqNonempty) 1 0, fieldAt (yesNo s.enables.eqOverflow) 1 1,
    fieldAt (yesNo s.enables.linkChg) 1 2, fieldAt (yesNo s.enables.collide) 1 3]

/-- A tree indication or enable word: DARK_CHG, ROGUE_CHG, SWEEP_END, TABLE_FULL from bit 0 up (R184). -/
def TreeFlags.word (f : TreeFlags) : Word :=
  packWord [fieldAt (yesNo f.darkChg) 1 0, fieldAt (yesNo f.rogueChg) 1 1, fieldAt (yesNo f.sweepEnd) 1 2,
    fieldAt (yesNo f.tableFull) 1 3]

/-- The tree flags a written word gives (R184). -/
def TreeFlags.ofWord (w : Word) : TreeFlags :=
  { darkChg := w.getLsbD 0, rogueChg := w.getLsbD 1, sweepEnd := w.getLsbD 2, tableFull := w.getLsbD 3 }

/-- The part enables a written word gives (R184). -/
def PartEnables.ofWord (w : Word) : PartEnables :=
  { eqNonempty := w.getLsbD 0, eqOverflow := w.getLsbD 1, linkChg := w.getLsbD 2, collide := w.getLsbD 3 }

/-- The part indications after a write: a 1 clears, a 0 leaves; EQ_NONEMPTY is not cleared by a write (R189). -/
def PartIndications.clearedBy (f : PartIndications) (w : Word) : PartIndications :=
  { eqOverflow := f.eqOverflow && !w.getLsbD 1, linkChg := f.linkChg && !w.getLsbD 2,
    collide := f.collide && !w.getLsbD 3 }

/-- The tree indications after a write: a 1 clears, a 0 leaves (R189). -/
def TreeFlags.clearedBy (f : TreeFlags) (w : Word) : TreeFlags :=
  { darkChg := f.darkChg && !w.getLsbD 0, rogueChg := f.rogueChg && !w.getLsbD 1,
    sweepEnd := f.sweepEnd && !w.getLsbD 2, tableFull := f.tableFull && !w.getLsbD 3 }

/-- A tree has an indication and its enable both set (R189). -/
def Tree.wantsInterrupt (x : Tree) : Bool :=
  (x.indications.darkChg && x.enables.darkChg) || (x.indications.rogueChg && x.enables.rogueChg)
    || (x.indications.sweepEnd && x.enables.sweepEnd) || (x.indications.tableFull && x.enables.tableFull)

/-- The interrupt output is asserted, low, while at least one indication and its enable are both set (R189). -/
def State.interruptAsserted (s : State) : Bool :=
  (s.eqNonempty && s.enables.eqNonempty) || (s.indications.eqOverflow && s.enables.eqOverflow)
    || (s.indications.linkChg && s.enables.linkChg) || (s.indications.collide && s.enables.collide)
    || allTrees.any fun t => (s.tree t).wantsInterrupt

/-- BUSY: a command runs (R185). -/
def State.busy (s : State) : Bool := s.running.isSome

/-- The part status word: Part Lock, link state, BUSY from bit 0 up (R184). -/
def State.partStatusWord (s : State) : Word :=
  packWord [fieldAt (yesNo s.partLock) 1 0, fieldAt (yesNo s.linkUp) 1 1, fieldAt (yesNo s.busy) 1 2]

/-- The code of a tree state (R184). -/
def TreeState.code : TreeState → Nat
  | .disabled => 0
  | .active => 1
  | .held => 2

/-- The tree status word (R184). -/
def Tree.statusWord (x : Tree) : Word :=
  packWord [fieldAt x.state.code 2 0, fieldAt (yesNo x.upkeep.dark) 1 2, fieldAt (yesNo x.rogue.rogue) 1 3,
    fieldAt (yesNo x.rogue.sweep.isSome) 1 4]

/-- The number of a status code (R185). -/
def Status.code : Status → Nat
  | .done => 0
  | .badCode => 1
  | .badArg => 2
  | .wrongTreeState => 3
  | .locked => 4
  | .wrongEntryState => 5
  | .notInWindow => 6
  | .notFree => 7
  | .markKnown => 8
  | .barFull => 9
  | .notRogue => 10
  | .sweepBusy => 11
  | .config => 12
  | .overlap => 13
  | .noPart => 14
  | .span => 15

end Sys2Proof.Machine
end

