-- ==== Sys2Proof/Machine/Operands.lean ====
section
/-! DEFINITION. Every operand form: argument words, the items of the structural configuration, the tuning parameters, and the
fields of a burst report with the tests of R14 that need the record alone. -/

namespace Sys2Proof.Machine

/-! ## Argument words (spec 11 section 11.3) -/

/-- The tree an argument word names, none above 3. -/
def treeOfWord (w : Word) : Option TreeId := if h : w.toNat < 4 then some ⟨w.toNat, h⟩ else none

/-- The mark that three words spell, the most significant first. -/
def markOfWords (w0 w1 w2 : Word) : Mark := w0 ++ w1 ++ w2

/-- The three words of a mark, the most significant first. -/
def markUpper (m : Mark) : Word := m.extractLsb' 32 16
/-- The middle word of a mark. -/
def markMiddle (m : Mark) : Word := m.extractLsb' 16 16
/-- The lower word of a mark. -/
def markLower (m : Mark) : Word := m.extractLsb' 0 16

/-- A number as one result word. -/
def wordOf (v : Nat) : Word := BitVec.ofNat 16 v

/-- Result words. -/
def words (w0 w1 w2 w3 : Word) : Quad Word := { q0 := w0, q1 := w1, q2 := w2, q3 := w3 }

/-- The item a TREE_CONFIG argument names. -/
def ConfigItem.ofWord (w : Word) : Option ConfigItem :=
  match w.toNat with
  | 0 => some .window
  | 1 => some .segmentMap
  | 2 => some .teq
  | 3 => some .minRtt
  | 4 => some .maxRtt
  | 5 => some .backoff
  | 6 => some .prescaler
  | 7 => some .interval
  | _ => none

/-- The parameter a TREE_TUNE argument names. -/
def TuneParam.ofWord (w : Word) : Option TuneParam :=
  match w.toNat with
  | 0 => some .admission
  | 1 => some .measureAttempts
  | 2 => some .tolerance
  | 3 => some .deadBand
  | 4 => some .hardLimit
  | 5 => some .probeInterval
  | 6 => some .lostThreshold
  | 7 => some .grace
  | 8 => some .darkThreshold
  | 9 => some .holdOff
  | _ => none

/-! ## Structural configuration (R38, R39) -/

/-- B in grains (R38). -/
def BackoffRange.grains : BackoffRange → Nat
  | .b0 => 0
  | .b512 => 512
  | .b1024 => 1024
  | .b2048 => 2048

/-- The backoff range of a number of grains (R38). -/
def BackoffRange.ofGrains : Nat → Option BackoffRange
  | 0 => some .b0
  | 512 => some .b512
  | 1024 => some .b1024
  | 2048 => some .b2048
  | _ => none

/-- The backoff code of a CALL (spec 01 section 1.7). -/
def BackoffRange.code : BackoffRange → Nat
  | .b0 => 0
  | .b512 => 1
  | .b1024 => 2
  | .b2048 => 3

/-- Boundaries per count of the discovery timer (R38). -/
def Prescaler.boundaries : Prescaler → Nat
  | .by1 => 1
  | .by8 => 8
  | .by64 => 64
  | .by512 => 512

/-- The prescaler of a number of boundaries (R38). -/
def Prescaler.ofBoundaries : Nat → Option Prescaler
  | 1 => some .by1
  | 8 => some .by8
  | 64 => some .by64
  | 512 => some .by512
  | _ => none

/-- The use of a segment, from its two bits (spec 11 section 11.3). -/
def TreeConfig.segment (c : TreeConfig) (k : Nat) : SegmentUse :=
  match (c.segmentMap.extractLsb' (2 * k) 2).toNat with
  | 0 => .closed
  | 1 => .sched
  | 2 => .part
  | _ => .shared

/-- A window R38 allows: a listed length, and a base below 512 that is a multiple of it. -/
def windowAllowed (base length : Nat) : Bool :=
  [16, 32, 64, 128, 256, 512].contains length && decide (base < Config.handles) && base % length == 0

/-- The item with a value written, none when the value is outside those R38 gives (R39). -/
def TreeConfig.write (c : TreeConfig) (item : ConfigItem) (v0 v1 : Word) : Option TreeConfig :=
  match item with
  | .window =>
    if windowAllowed v0.toNat v1.toNat then some { c with windowBase := v0.toNat, windowLength := v1.toNat } else none
  | .segmentMap => some { c with segmentMap := v1 ++ v0 }
  | .teq => some { c with teq := v0 }
  | .minRtt => some { c with minRtt := v0 }
  | .maxRtt => some { c with maxRtt := v0 }
  | .backoff => (BackoffRange.ofGrains v0.toNat).map fun b => { c with backoff := b }
  | .prescaler => (Prescaler.ofBoundaries v0.toNat).map fun p => { c with prescaler := p }
  | .interval => some { c with interval := v0 }

/-- The two value words of an item as it stands (R39). An item that is one number stands in the first; the second is 0 then
(DEDUCED, unsafe: log 36). -/
def TreeConfig.read (c : TreeConfig) (item : ConfigItem) : Word × Word :=
  match item with
  | .window => (wordOf c.windowBase, wordOf c.windowLength)
  | .segmentMap => (c.segmentMap.extractLsb' 0 16, c.segmentMap.extractLsb' 16 16)
  | .teq => (c.teq, 0)
  | .minRtt => (c.minRtt, 0)
  | .maxRtt => (c.maxRtt, 0)
  | .backoff => (wordOf c.backoff.grains, 0)
  | .prescaler => (wordOf c.prescaler.boundaries, 0)
  | .interval => (c.interval, 0)

/-- The shortest delay a terminal of the tree may need, Teq − max_rtt (R5). -/
def TreeConfig.minDelay (c : TreeConfig) : Int := (c.teq.toNat : Int) - c.maxRtt.toNat

/-- The longest delay a terminal of the tree may need, Teq − min_rtt (R5). -/
def TreeConfig.maxDelay (c : TreeConfig) : Int := (c.teq.toNat : Int) - c.minRtt.toNat

/-- A delay sample is valid: it lies in the valid delay range of the tree (R5). -/
def TreeConfig.validSample (c : TreeConfig) (v : Int) : Bool := decide (c.minDelay ≤ v ∧ v ≤ c.maxDelay)

/-- The measure span, max_rtt − min_rtt + 80 (R5, R61). -/
def TreeConfig.measureSpan (c : TreeConfig) : Nat := c.maxRtt.toNat - c.minRtt.toNat + Config.answerGrains

/-- The CALL span, the measure span plus B (R5, R61). -/
def TreeConfig.callSpan (c : TreeConfig) : Nat := c.measureSpan + c.backoff.grains

/-! ## Tuning parameters (R40, R41) -/

/-- The value a table holds for a parameter. -/
def TuneTable.get {α : Type} (x : TuneTable α) : TuneParam → α
  | .admission => x.admission
  | .measureAttempts => x.measureAttempts
  | .tolerance => x.tolerance
  | .deadBand => x.deadBand
  | .hardLimit => x.hardLimit
  | .probeInterval => x.probeInterval
  | .lostThreshold => x.lostThreshold
  | .grace => x.grace
  | .darkThreshold => x.darkThreshold
  | .holdOff => x.holdOff

/-- The table with a parameter's value set. -/
def TuneTable.put {α : Type} (x : TuneTable α) (p : TuneParam) (v : α) : TuneTable α :=
  match p with
  | .admission => { x with admission := v }
  | .measureAttempts => { x with measureAttempts := v }
  | .tolerance => { x with tolerance := v }
  | .deadBand => { x with deadBand := v }
  | .hardLimit => { x with hardLimit := v }
  | .probeInterval => { x with probeInterval := v }
  | .lostThreshold => { x with lostThreshold := v }
  | .grace => { x with grace := v }
  | .darkThreshold => { x with darkThreshold := v }
  | .holdOff => { x with holdOff := v }

/-- The range of a parameter (R40). -/
def TuneParam.inRange (p : TuneParam) (v : Nat) : Bool :=
  match p with
  | .admission => decide (v ≤ 1)
  | .measureAttempts => decide (1 ≤ v ∧ v ≤ 7)
  | .tolerance => decide (v ≤ 15)
  | .deadBand => decide (v ≤ 15)
  | .hardLimit => decide (16 ≤ v ∧ v ≤ 255)
  | .probeInterval => decide (4 ≤ v ∧ v ≤ 4096)
  | .lostThreshold => decide (2 ≤ v ∧ v ≤ 15)
  | .grace => decide (v ≤ 65535)
  | .darkThreshold => decide (2 ≤ v ∧ v ≤ 32)
  | .holdOff => decide (v ≤ 255)

/-- The values in force once every pending value has come into force (R40). -/
def TuneTable.settle (now : TuneTable Nat) (pending : TuneTable (Option Nat)) : TuneTable Nat :=
  { admission := pending.admission.getD now.admission
    measureAttempts := pending.measureAttempts.getD now.measureAttempts
    tolerance := pending.tolerance.getD now.tolerance
    deadBand := pending.deadBand.getD now.deadBand
    hardLimit := pending.hardLimit.getD now.hardLimit
    probeInterval := pending.probeInterval.getD now.probeInterval
    lostThreshold := pending.lostThreshold.getD now.lostThreshold
    grace := pending.grace.getD now.grace
    darkThreshold := pending.darkThreshold.getD now.darkThreshold
    holdOff := pending.holdOff.getD now.holdOff }

/-- The tree with its pending tuning values in force (R40). -/
def Tree.settleTuning (x : Tree) : Tree :=
  { x with tuning := x.tuning.settle x.pending, pending := TuneTable.absent }

/-! ## Burst reports (R12, R14) -/

/-- The result a result byte names (spec 01 section 1.7). -/
def ReportResult.ofByte (b : Byte) : Option ReportResult :=
  match b.toNat with
  | 0 => some .good
  | 1 => some .badCheck
  | 2 => some .noLight
  | 3 => some .edge
  | 4 => some .windowEnd
  | _ => none

/-- The code of a result (spec 01 section 1.7). -/
def ReportResult.code : ReportResult → Nat
  | .good => 0
  | .badCheck => 1
  | .noLight => 2
  | .edge => 3
  | .windowEnd => 4

/-- A report shows light: GOOD, BAD_CHECK or EDGE (R76). -/
def ReportResult.light : ReportResult → Bool
  | .good | .badCheck | .edge => true
  | .noLight | .windowEnd => false

/-- The answer a payload spells, none when its type is unknown, its length does not fit its type, or a field is outside
the values of R11 (R14, payload kind and ranges). -/
def Payload.ofBytes (bytes : List Byte) : Option Payload :=
  match bytes with
  | [kind, m5, m4, m3, m2, m1, m0, c, b1, b0] =>
    if kind = 0x11#8 ∧ c.toNat ≤ 7 ∧ numberOf [b1, b0] ≤ 2047 then
      some (.hello (BitVec.ofNat 48 (numberOf [m5, m4, m3, m2, m1, m0])) c.toNat (numberOf [b1, b0]))
    else none
  | [kind, m5, m4, m3, m2, m1, m0, h1, h0] =>
    if kind = 0x12#8 ∧ numberOf [h1, h0] ≤ 511 then
      some (.answer (BitVec.ofNat 48 (numberOf [m5, m4, m3, m2, m1, m0])) (numberOf [h1, h0]))
    else none
  | [kind, h1, h0, status, g] =>
    if kind = 0x13#8 ∧ g.toNat ≤ 7 then
      match status.toNat with
      | 0 => some (.echo (numberOf [h1, h0]) .ok g.toNat)
      | 1 => some (.echo (numberOf [h1, h0]) .leaving g.toNat)
      | _ => none
    else none
  | _ => none

/-- Arrival grain is present: bit 4 of the second byte (R14). -/
def reportHasArrival (r : ReportRecord) : Bool := r.flags.getLsbD 4
/-- Header handle is present: bit 5 of the second byte (R14). -/
def reportHasHeader (r : ReportRecord) : Bool := r.flags.getLsbD 5
/-- Payload is present: bit 6 of the second byte (R14). -/
def reportHasPayload (r : ReportRecord) : Bool := r.flags.getLsbD 6
/-- The low 4 bits of the reported cycle (R12). -/
def reportCycleLow (r : ReportRecord) : Nat := r.flags.toNat % 16
/-- The reservation index, none for STRAY (R12). -/
def reportReservationIndex (r : ReportRecord) : Option Nat := if r.index = 0xFF#8 then none else some r.index.toNat

/-- The encoding test of R14, but for the result byte: bit 7 clear, and the payload flag agrees with the payload length.
A record whose payload is not as long as its length byte says fails here too, DESIGN CHOICE (log 18). -/
def reportEncodingOk (r : ReportRecord) : Bool :=
  !r.flags.getLsbD 7 && reportHasPayload r == (r.payloadLength != 0) && r.payload.length == r.payloadLength.toNat

/-- The presence test of R14; a header handle with a result other than GOOD passes, DEDUCED (log 19). -/
def reportPresenceOk (r : ReportRecord) (result : ReportResult) : Bool :=
  reportHasArrival r == result.light && (result != .good || reportHasHeader r) && (result == .good || !reportHasPayload r)

/-- The result for kind test of R14; `none` is STRAY. -/
def resultFitsKind (result : ReportResult) (kind : Option ReservationKind) : Bool :=
  match kind with
  | none => result.light
  | some .grant | some .echo => result != .windowEnd
  | some .quietCall | some .quietMeasure => result != .noLight

/-- The payload kind test of R14 for a GOOD report; `none` is STRAY. -/
def payloadFitsKind (payload : Option Payload) (kind : Option ReservationKind) : Bool :=
  match kind, payload with
  | none, _ => true
  | some .grant, none => true
  | some .echo, some (.echo ..) => true
  | some .quietCall, some (.hello ..) => true
  | some .quietCall, some (.answer ..) => true
  | some .quietMeasure, some (.hello ..) => true
  | some .quietMeasure, some (.answer ..) => true
  | _, _ => false

/-- The ranges test of R14 for the fields outside the payload; a header handle is tested with every result, DEDUCED
(log 19). -/
def reportRangesOk (r : ReportRecord) (result : ReportResult) : Bool :=
  (!reportHasArrival r || decide (r.arrival.toNat < Config.grainsPerCycle))
    && (!reportHasHeader r || decide (r.header.toNat < Config.handles) || r.header == 0xFFFF#16)
    && (result != .windowEnd || decide (r.burstCount.toNat ≤ Config.maxBursts))

/-- The header handle of a record that carries one (R12). -/
def reportHeaderHandle (r : ReportRecord) : Option HeaderHandle :=
  if reportHasHeader r then some (if r.header = 0xFFFF#16 then .noHandle else .handle r.header.toNat) else none

/-- What a record for a reservation of this kind (`none` for STRAY) shows, none when it fails a test of R14 from result for
kind on. -/
def reportRead (r : ReportRecord) (kind : Option ReservationKind) : Option Burst :=
  match ReportResult.ofByte r.result with
  | none => none
  | some result =>
    let payload := if reportHasPayload r then Payload.ofBytes r.payload else none
    if resultFitsKind result kind && reportEncodingOk r && reportPresenceOk r result && reportRangesOk r result
        && (!reportHasPayload r || payload.isSome) && (result != .good || payloadFitsKind payload kind) then
      some { result := result
             arrival := if reportHasArrival r then some r.arrival.toNat else none
             header := reportHeaderHandle r
             payload := payload }
    else none

/-- A burst's header handle matches a handle: GOOD, and the header handle equals it (R76). -/
def Burst.matchesHandle (b : Burst) (h : Nat) : Bool := b.result == .good && b.header == some (.handle h)

end Sys2Proof.Machine
end

