-- ==== Sys2Proof/Machine/Calendar.lean ====
section
/-! DEFINITION. The Window Calendar of a tree: stretches and the guard, the quiet-window position, claims and their arbitration,
cancellations, strikes, and the placement of echo slots (spec 01 section 1.1, spec 04). -/

namespace Sys2Proof.Machine

/-! ## Stretches (R2) -/

/-- Two stretches keep the guard: the later begins at least 16 grains after the last grain of the other, plus one (R2). -/
def keepsGuard (s1 l1 s2 l2 : Nat) : Bool :=
  decide (s1 + l1 + Config.guardGrains ≤ s2 ∨ s2 + l2 + Config.guardGrains ≤ s1)

/-- The stretch lies within the cycle (R2). -/
def withinCycle (start length : Nat) : Bool := decide (start + length ≤ Config.grainsPerCycle)

/-- The segments a stretch touches, in ascending number (R2). -/
def touchedSegments (start length : Nat) : List Nat :=
  (List.range Config.segmentsPerCycle).filter fun k =>
    decide (start < Config.grainsPerSegment * (k + 1) ∧ Config.grainsPerSegment * k < start + length)

/-- Every segment the stretch touches has a use the test admits (R2, R60). -/
def TreeConfig.liesIn (c : TreeConfig) (admits : SegmentUse → Bool) (start length : Nat) : Bool :=
  (touchedSegments start length).all fun k => admits (c.segment k)

/-- A grant may lie in a SCHED or SHARED segment (R60). -/
def SegmentUse.admitsGrant : SegmentUse → Bool
  | .sched | .shared => true
  | .closed | .part => false

/-- A quiet window may lie in a PART or SHARED segment (R60). -/
def SegmentUse.admitsQuiet : SegmentUse → Bool
  | .part | .shared => true
  | .closed | .sched => false

/-- An echo slot may lie in a PART segment alone (R60). -/
def SegmentUse.admitsEcho : SegmentUse → Bool
  | .part => true
  | .closed | .sched | .shared => false

/-! ## The quiet-window position (R61) -/

/-- How many consecutive segments from segment k on are each PART or SHARED (R43, R61). -/
def TreeConfig.runFrom (c : TreeConfig) (k : Nat) : Nat :=
  ((List.range' k (Config.segmentsPerCycle - k)).takeWhile fun j => (c.segment j).admitsQuiet).length

/-- The length of the longest run of PART or SHARED segments (R43, R61). -/
def TreeConfig.longestRun (c : TreeConfig) : Nat :=
  (((List.range Config.segmentsPerCycle).map c.runFrom).max?).getD 0

/-- The quiet-window position: the first grain of the longest run, the lowest-numbered among equals (R61). -/
def TreeConfig.quietStart (c : TreeConfig) : Nat :=
  Config.grainsPerSegment
    * (((List.range Config.segmentsPerCycle).find? fun k => c.runFrom k == c.longestRun).getD 0)

/-- The answer point of a quiet window that starts at grain s (R5, R61). -/
def TreeConfig.answerPoint (c : TreeConfig) (start : Nat) : Nat := start + (c.teq.toNat - c.minRtt.toNat)

/-! ## Slots and reservations (R57, R58) -/

/-- The slot has not been sent: a horizon state (R58). -/
def SlotState.unsent : SlotState → Bool
  | .opened | .claimed | .planned | .filled => true
  | .sent | .arriving | .closing => false

/-- The slot state once a quiet window joins (R66). -/
def SlotState.withQuiet : SlotState → SlotState
  | .opened => .claimed
  | .planned => .filled
  | k => k

/-- The slot state once its quiet window is cancelled (R69). -/
def SlotState.withoutQuiet : SlotState → SlotState
  | .claimed => .opened
  | .filled => .planned
  | k => k

/-- The slot state once a plan is accepted (R63). -/
def SlotState.withPlan : SlotState → SlotState
  | .opened => .planned
  | .claimed => .filled
  | k => k

/-- The reservation is a quiet window. -/
def Reservation.isQuiet (r : Reservation) : Bool := r.kind == .quietCall || r.kind == .quietMeasure

/-- The reservation is a grant or an echo slot, which takes an outcome (R57). -/
def Reservation.takesOutcome (r : Reservation) : Bool := r.kind == .grant || r.kind == .echo

/-- A reservation with no items of its own kind yet. -/
def Reservation.bare (kind : ReservationKind) (start length : Nat) : Reservation :=
  { kind := kind, handle := none, start := start, length := length, answerPoint := none, head := none, purpose := none,
    outcome := none, bursts := [], ended := false }

/-- A grant (R57). -/
def Reservation.grantFor (h start length : Nat) : Reservation :=
  { Reservation.bare .grant start length with handle := some h }

/-- A reservation joins a list in order of start (R57). -/
def insertReservation (r : Reservation) : List Reservation → List Reservation
  | [] => [r]
  | x :: rest => if r.start < x.start then r :: x :: rest else x :: insertReservation r rest

/-- The stretch keeps the guard from every reservation of a list. -/
def clearOf (start length : Nat) (rs : List Reservation) : Bool :=
  rs.all fun r => keepsGuard start length r.start r.length

/-- The slot of a cycle. -/
def Calendar.slot? (w : Calendar) (c : Cycle) : Option Slot := w.ring.find? fun k => k.cycle == c

/-- The slot of a cycle changed. -/
def Calendar.modSlot (w : Calendar) (c : Cycle) (f : Slot → Slot) : Calendar :=
  { w with ring := w.ring.map fun k => if k.cycle = c then f k else k }

/-- The slot of a cycle of a tree changed. -/
def State.modSlot (s : State) (t : TreeId) (c : Cycle) (f : Slot → Slot) : State :=
  s.modCalendar t fun w => w.modSlot c f

/-! ## Claims (R65 to R67) -/

/-- The place of a claim's kind in the order RERANGE, MEASURE, FORCED, CALL (R65). -/
def Claim.rank : Claim → Nat
  | .rerange _ => 0
  | .measure _ => 1
  | .forced _ => 2
  | .call _ => 3

/-- The handle of a claim, absent for CALL (R65). -/
def Claim.handle? : Claim → Option Nat
  | .rerange h | .measure h | .forced h => some h
  | .call _ => none

/-- The claim of a handle, its kind following the ranging origin (R65). -/
def Claim.ofOrigin (origin : RangingOrigin) (h : Nat) : Claim :=
  match origin with
  | .enroll => .measure h
  | .rerange => .rerange h
  | .forced => .forced h

/-- The span of the window a claim asks for (R61, R66). -/
def TreeConfig.claimSpan (c : TreeConfig) (q : Claim) : Nat :=
  match q with
  | .call _ => c.callSpan
  | .rerange _ | .measure _ | .forced _ => c.measureSpan

/-- The claim joins the list after every request of its kind and of a higher one (R65). -/
def insertClaim (q : Claim) : List Claim → List Claim
  | [] => [q]
  | x :: rest => if q.rank < x.rank then q :: x :: rest else x :: insertClaim q rest

/-- The slot is eligible for the request (R66). -/
def Tree.eligible (x : Tree) (q : Claim) (k : Slot) : Bool :=
  decide (Config.horizonFirst ≤ Cycle.distance x.n k.cycle ∧ Cycle.distance x.n k.cycle ≤ Config.horizonLast)
    && (k.state == .opened || k.state == .planned)
    && clearOf (x.calendar.quietPosition.getD 0) (x.config.claimSpan q) k.reservations

/-- The eligible slot whose cycle lies nearest after N; the ring runs in cycle order (R66). -/
def Tree.eligibleSlot (x : Tree) (q : Claim) : Option Slot := x.calendar.ring.find? (x.eligible q)

/-- The quiet window that a claim brings into a slot (R57, R66). -/
def Tree.windowFor (x : Tree) (q : Claim) : Reservation :=
  let start := x.calendar.quietPosition.getD 0
  { Reservation.bare (match q with | .call _ => .quietCall | _ => .quietMeasure) start (x.config.claimSpan q) with
    handle := q.handle?
    answerPoint := some (x.config.answerPoint start)
    head := match q with | .call head => some head | _ => none }

/-- A claim is granted to the slot of cycle c (R66, R95, R106). -/
def State.grantClaim (s : State) (t : TreeId) (q : Claim) (c : Cycle) : State :=
  let window := (s.tree t).windowFor q
  let s := s.modCalendar t fun w =>
    { w.modSlot c fun k =>
        { k with state := k.state.withQuiet, reservations := insertReservation window k.reservations } with
      claims := w.claims.erase q }
  let s := s.makeFrame (.quiet t c window.start window.length)
  match q.handle? with
  | some h => s.modEntry h fun e => { e with measureCycle := some c }
  | none =>
    s.modDiscovery t fun d => { d with call := d.call.map fun r => { r with stage := .granted c } }

/-- A claim is tried: granted to the eligible slot nearest after N, if there is one (R66). -/
def State.tryClaim (s : State) (t : TreeId) (q : Claim) : Option State :=
  ((s.tree t).eligibleSlot q).map fun k => s.grantClaim t q k.cycle

/-- The waiting requests are tried once each, in list order (R67). -/
def State.arbitrate (s : State) (t : TreeId) : State :=
  (s.tree t).calendar.claims.foldl (fun s q => (s.tryClaim t q).getD s) s

/-- A CALL waits, or a granted QUIET_CALL lies in a slot not yet SENT (R65). -/
def Calendar.holdsCall (w : Calendar) : Bool :=
  w.claims.any (fun q => q.handle?.isNone)
    || w.ring.any fun k => k.state.unsent && k.reservations.any fun r => r.kind == .quietCall

/-- The request is taken (R65, R70). -/
def State.claimTaken (s : State) (t : TreeId) (q : Claim) : Bool :=
  match q.handle? with
  | some h =>
    (s.entry h).measureCycle.isNone && !(s.tree t).calendar.claims.any fun p => p.handle? == some h
  | none => (s.tree t).mayCall && !(s.tree t).calendar.holdsCall

/-- A request reaches the calendar: not taken, granted at once, or waiting in its place (R65, R66). -/
def State.requestClaim (s : State) (t : TreeId) (q : Claim) : State :=
  if s.claimTaken t q then
    (s.tryClaim t q).getD (s.modCalendar t fun w => { w with claims := insertClaim q w.claims })
  else s

/-! ## Withdrawal, cancellation and strikes (R68 to R71) -/

/-- The unsent slot that holds a quiet window of the given kind and handle. -/
def Calendar.unsentWindow (w : Calendar) (kind : ReservationKind) (h : Option Nat) : Option Slot :=
  w.ring.find? fun k => k.state.unsent && k.reservations.any fun r => r.kind == kind && r.handle == h

/-- The quiet window of the unsent slot of cycle c is cancelled and QUIET_CANCEL is made (R69). -/
def State.cancelWindow (s : State) (t : TreeId) (c : Cycle) : State :=
  (s.modSlot t c fun k =>
    { k with state := k.state.withoutQuiet, reservations := k.reservations.filter fun r => !r.isQuiet }).makeFrame
    (.quietCancel t c)

/-- The notice that an entry left CANDIDATE or RERANGING: its request is withdrawn, or its granted claim in a slot not yet
SENT is cancelled, and its measure cycle becomes absent (R23, R68, R69). -/
def State.dropClaim (s : State) (t : TreeId) (h : Nat) : State :=
  let s := s.modCalendar t fun w => { w with claims := w.claims.filter fun q => q.handle? != some h }
  let s := s.modEntry h fun e => { e with measureCycle := none }
  match (s.tree t).calendar.unsentWindow .quietMeasure (some h) with
  | some k => (s.cancelWindow t k.cycle).arbitrate t
  | none => s

/-- The notice that an entry left SETTLING: its handle leaves the Settle Due list (R23, R72). -/
def State.dropSettleDue (s : State) (t : TreeId) (h : Nat) : State :=
  s.modCalendar t fun w => { w with settleDue := w.settleDue.filter (· != h) }

/-- The handle joins the end of the Settle Due list, which holds no duplicates (R72). -/
def State.joinSettleDue (s : State) (t : TreeId) (h : Nat) : State :=
  s.modCalendar t fun w => { w with settleDue := w.settleDue.filter (· != h) ++ [h] }

/-- A reservation that a strike for the handle removes (R23, R71; log 22). -/
def Reservation.struckBy (r : Reservation) (h : Nat) : Bool := r.takesOutcome && r.handle == some h

/-- How many grants for the handle the unsent slots hold (R71). -/
def Calendar.grantsFor (w : Calendar) (h : Nat) : Nat :=
  ((w.ring.filter fun k => k.state.unsent).map fun k =>
    k.reservations.countP fun r => r.kind == .grant && r.handle == some h).sum

/-- Every grant for the handle leaves the unsent slots, counted, and the Claim List is arbitrated when one did
(R71; log 22). -/
def State.strike (s : State) (t : TreeId) (h : Nat) : State :=
  let struck := (s.tree t).calendar.grantsFor h
  let s := s.modCalendar t fun w =>
    { w with ring := w.ring.map fun k =>
        if k.state.unsent then { k with reservations := k.reservations.filter fun r => !r.struckBy h } else k }
  let s := s.countBy t .grantsStruck struck
  if struck = 0 then s else s.arbitrate t

/-! ## Plans in slots (R63, R64) -/

/-- The accepted grants of a plan enter the slot, the old grants leaving it (R63, R64). -/
def Slot.takePlan (k : Slot) (grants : List Reservation) : Slot :=
  { k with
    state := k.state.withPlan
    reservations := grants.foldl (fun rs r => insertReservation r rs) (k.reservations.filter Reservation.isQuiet) }

/-! ## Echo slots (R73) -/

/-- An echo slot may start at the grain: its 80 grains lie in PART segments of the cycle, clear of every reservation
(R73). -/
def TreeConfig.echoFits (c : TreeConfig) (rs : List Reservation) (start : Nat) : Bool :=
  withinCycle start Config.answerGrains && c.liesIn SegmentUse.admitsEcho start Config.answerGrains
    && clearOf start Config.answerGrains rs

/-- The grains at which the lowest fitting start can lie: the first grains of segments, and the first grains past the
guard of a reservation. -/
def echoCandidates (rs : List Reservation) : List Nat :=
  (List.range Config.segmentsPerCycle).map (Config.grainsPerSegment * ·)
    ++ rs.map fun r => r.start + r.length + Config.guardGrains

/-- The lowest start of an echo slot, if there is one (R73). -/
def TreeConfig.echoStart (c : TreeConfig) (rs : List Reservation) : Option Nat :=
  ((echoCandidates rs).filter (c.echoFits rs)).min?

/-- An echo slot is placed in the slot of cycle c, and its candidate leaves its list (R73). -/
def State.placeEcho (s : State) (t : TreeId) (c : Cycle) (purpose : EchoPurpose) (h start : Nat) : State :=
  let r : Reservation :=
    { Reservation.bare .echo start Config.answerGrains with handle := some h, purpose := some purpose }
  let s := s.modSlot t c fun k => { k with reservations := insertReservation r k.reservations }
  match purpose with
  | .settle =>
    (s.dropSettleDue t h).modEntry h fun e =>
      { e with settleAttempts := e.settleAttempts.map (· + 1), settleEchoCycle := some c }
  | .probe =>
    (s.modUpkeep t fun u => { u with probeDue := u.probeDue.filter (· != h) }).modEntry h fun e =>
      { e with probeInFlight := some true }

/-- The reservations of the slot of cycle c. -/
def State.reservationsOf (s : State) (t : TreeId) (c : Cycle) : List Reservation :=
  match (s.tree t).calendar.slot? c with
  | some k => k.reservations
  | none => []

/-- The candidates receive echo slots in turn, until one finds no start (R73). -/
def State.placeEchoes (s : State) (t : TreeId) (c : Cycle) : List (EchoPurpose × Nat) → State
  | [] => s
  | (purpose, h) :: rest =>
    match (s.tree t).config.echoStart (s.reservationsOf t c) with
    | none => s
    | some start => (s.placeEcho t c purpose h start).placeEchoes t c rest

/-- The echo candidates of a send: the Settle Due list, then the Probe Due list, up to 4 in all (R73). -/
def Tree.echoRequests (x : Tree) : List (EchoPurpose × Nat) :=
  (x.calendar.settleDue.map (EchoPurpose.settle, ·) ++ x.upkeep.probeDue.map (EchoPurpose.probe, ·)).take
    Config.maxEchoes

end Sys2Proof.Machine
end

