-- ==== Sys2Proof/Machine/Formats.lean ====
section
/-! DEFINITION. The byte layouts of what the part sends: downstream messages, the bundle, and the frames of the scheduler link
(R6 to R10, R17, spec 01 section 1.7). -/

namespace Sys2Proof.Machine

/-- A downstream message with the fields the part sends (R8, R9, R10). -/
inductive DownMessage where
  | call (cycle : Cycle) (answerPoint : Nat) (backoff : BackoffRange) (head : MarkHead)
  | measure (mark : Mark) (handle : Nat) (cycle : Cycle) (answerPoint : Nat)
  | settle (mark : Mark) (handle delay generation echoStart : Nat)
  | probe (handle echoStart : Nat)
  | trim (handle : Nat) (amount : Int) (generation : Nat)
  | release (handle : Nat) (mark : Mark)
  | hush (handle : Nat)
  | unhush (handle : Nat)
  deriving DecidableEq, Repr

/-- The bytes of a message, its check code last (R17, spec 01 section 1.7). -/
def DownMessage.bytes : DownMessage → List Byte
  | .call cycle answerPoint backoff head =>
    withCheck (bytesOf 1 0x01 ++ bytesOf 2 cycle.toNat ++ bytesOf 3 answerPoint ++ bytesOf 1 backoff.code
      ++ bytesOf 1 head.bits ++ bytesOf 2 (head.value * 2 ^ (16 - head.bits)))
  | .measure mark handle cycle answerPoint =>
    withCheck (bytesOf 1 0x02 ++ bytesOf 6 mark.toNat ++ bytesOf 2 handle ++ bytesOf 2 cycle.toNat
      ++ bytesOf 3 answerPoint)
  | .settle mark handle delay generation echoStart =>
    withCheck (bytesOf 1 0x03 ++ bytesOf 6 mark.toNat ++ bytesOf 2 handle ++ bytesOf 2 delay ++ bytesOf 1 generation
      ++ bytesOf 2 echoStart)
  | .probe handle echoStart => withCheck (bytesOf 1 0x04 ++ bytesOf 2 handle ++ bytesOf 2 echoStart)
  | .trim handle amount generation =>
    withCheck (bytesOf 1 0x05 ++ bytesOf 2 handle ++ bytesOf 2 (signed16 amount) ++ bytesOf 1 generation)
  | .release handle mark => withCheck (bytesOf 1 0x06 ++ bytesOf 2 handle ++ bytesOf 6 mark.toNat)
  | .hush handle => withCheck (bytesOf 1 0x07 ++ bytesOf 2 handle)
  | .unhush handle => withCheck (bytesOf 1 0x08 ++ bytesOf 2 handle)

/-- The bytes of one reservation entry of a bundle (spec 01 section 1.7). -/
def Reservation.bytes (r : Reservation) : List Byte :=
  let kind := match r.kind with
    | .grant => 0x01
    | .quietCall | .quietMeasure => 0x02
    | .echo => 0x03
  let handle := match r.kind with
    | .quietCall => 0xFFFF
    | .grant | .quietMeasure | .echo => r.handle.getD 0
  bytesOf 1 kind ++ bytesOf 2 handle ++ bytesOf 2 r.start ++ bytesOf 2 r.length

/-- The bytes of the bundle of cycle c of a tree (R6, spec 01 section 1.7). -/
def bundleBytes (t : TreeId) (c : Cycle) (reservations : List Reservation) (messages : List DownMessage) : List Byte :=
  bytesOf 1 t.val ++ bytesOf 2 c.toNat ++ bytesOf 1 reservations.length ++ bytesOf 1 messages.length
    ++ reservations.flatMap Reservation.bytes ++ messages.flatMap DownMessage.bytes

/-- The code of a roster state (spec 01 section 1.7). -/
def RosterState.code : RosterState → Nat
  | .registered => 1
  | .lost => 2
  | .removed => 3

/-- The code of a plan reason (spec 01 section 1.7). -/
def PlanReason.code : PlanReason → Nat
  | .tree => 1
  | .horizon => 2
  | .count => 3

/-- The code of a strike reason (spec 01 section 1.7). -/
def StrikeReason.code : StrikeReason → Nat
  | .bounds => 1
  | .window => 2
  | .roster => 3
  | .segment => 4
  | .quiet => 5
  | .overlap => 6

/-- The bytes of a frame the part sends (R17, spec 01 section 1.7). -/
def LinkFrame.bytes : LinkFrame → List Byte
  | .cycle t n => frameOf 0x81 (bytesOf 1 t.val ++ bytesOf 2 n.toNat)
  | .quiet t c start length => frameOf 0x82 (bytesOf 1 t.val ++ bytesOf 2 c.toNat ++ bytesOf 2 start ++ bytesOf 2 length)
  | .quietCancel t c => frameOf 0x83 (bytesOf 1 t.val ++ bytesOf 2 c.toNat)
  | .verdict tree c refused struck =>
    frameOf 0x84 ([tree] ++ bytesOf 2 c.toNat ++ bytesOf 1 (yesNo refused.isSome)
      ++ bytesOf 1 (match refused with | some r => r.code | none => 0) ++ bytesOf 1 struck.length
      ++ struck.flatMap fun x => bytesOf 1 x.1 ++ bytesOf 1 x.2.code)
  | .roster t h state termClass =>
    frameOf 0x85 (bytesOf 1 t.val ++ bytesOf 2 h ++ bytesOf 1 state.code ++ bytesOf 1 termClass)
  | .rosterClear t => frameOf 0x86 (bytesOf 1 t.val)
  | .syncEnd => frameOf 0x87 []

end Sys2Proof.Machine
end

