-- ==== Sys2Proof/Machine/ControlQueue.lean ====
section
/-! DEFINITION. The Control Queue of a tree: owed messages, TRIMs, the choice of a send's messages and what sending each does,
the end of a departure included (spec 09 sections 9.1, 9.2, 9.4). -/

namespace Sys2Proof.Machine

/-! ## The queue and its order (R159) -/

/-- The place of a message's kind in the order HUSH, RELEASE, UNHUSH, TRIM (R159). -/
def QueuedMessage.rank : QueuedMessage → Nat
  | .hush _ => 0
  | .release .. => 1
  | .unhush _ => 2
  | .trim .. => 3

/-- The message is a copy of the owed message of the handle's entry. -/
def QueuedMessage.isCopyFor (m : QueuedMessage) (h : Nat) : Bool :=
  match m with
  | .hush j | .release j _ | .unhush j => j == h
  | .trim .. => false

/-- The message is a TRIM for the handle. -/
def QueuedMessage.isTrimFor (m : QueuedMessage) (h : Nat) : Bool :=
  match m with
  | .trim j _ _ => j == h
  | .hush _ | .release .. | .unhush _ => false

/-- The message in the form the bundle carries (R10). -/
def QueuedMessage.toDown : QueuedMessage → DownMessage
  | .hush h => .hush h
  | .release h m => .release h m
  | .unhush h => .unhush h
  | .trim h amount generation => .trim h amount generation

/-- A message joins the queue after every message of its kind and of a higher one (R159). -/
def insertMessage (m : QueuedMessage) : List QueuedMessage → List QueuedMessage
  | [] => [m]
  | x :: rest => if m.rank < x.rank then m :: x :: rest else x :: insertMessage m rest

/-- The copy of an owed message; a RELEASE carries the entry's mark (R159, R161). -/
def Entry.copyFor (e : Entry) (h : Nat) (kind : OwedKind) : QueuedMessage :=
  match kind with
  | .hush => .hush h
  | .release => .release h (e.mark.getD 0)
  | .unhush => .unhush h

/-- A copy of the entry's owed message joins the queue with a new join order. -/
def State.joinCopy (s : State) (t : TreeId) (h : Nat) : State :=
  match (s.entry h).owed with
  | some o => s.modControl t fun q => { q with queue := insertMessage ((s.entry h).copyFor h o.kind) q.queue }
  | none => s

/-- Free places are filled from the head of the backlog, the oldest obligation first (R163, R164). -/
def State.fillBacklog (s : State) (t : TreeId) : State :=
  let q := (s.tree t).control
  let room := Config.queueCapacity - q.queue.length
  (q.backlog.take room).foldl (fun s h => s.joinCopy t h)
    (s.modControl t fun q => { q with backlog := q.backlog.drop room })

/-! ## Owed messages and TRIMs (R160, R161, R164) -/

/-- An owed message is recorded, replacing the one the entry held, and CQ provides its copy (R161). -/
def State.recordOwed (s : State) (t : TreeId) (h : Nat) (kind : OwedKind) (sends : Nat) : State :=
  let s := s.modEntry h fun e => { e with owed := some { kind := kind, sends := sends } }
  let s := s.modControl t fun q =>
    { queue := q.queue.filter fun m => !m.isCopyFor h, backlog := q.backlog.filter (· != h) }
  if (s.tree t).control.queue.length < Config.queueCapacity then s.joinCopy t h
  else s.modControl t fun q => { q with backlog := q.backlog ++ [h] }

/-- A TRIM queued for the handle leaves the queue, and its place is filled from the backlog (R154, R164). -/
def State.dropTrim (s : State) (t : TreeId) (h : Nat) : State :=
  (s.modControl t fun q => { q with queue := q.queue.filter fun m => !m.isTrimFor h }).fillBacklog t

/-- The drift filter offers a TRIM: it joins the queue, or is lost when the queue is full (R151, R160). -/
def State.offerTrim (s : State) (t : TreeId) (h : Nat) (amount : Int) (generation : Nat) : State :=
  if (s.tree t).control.queue.length < Config.queueCapacity then
    (s.modControl t fun q => { q with queue := insertMessage (.trim h amount generation) q.queue }).modEntry h fun e =>
      { e with trim := some .queued }
  else
    (s.count t .trimsDropped).writeEvent .trimLost t h [halves (signed16 amount) generation]

/-! ## The choice of a send (R162) -/

/-- The handles of the precedence pass: named by the reservations in index order, their entries owing an UNHUSH, each once,
the first 4 of them (R162). -/
def State.unhushNamed (s : State) (rs : List Reservation) : List Nat :=
  (((rs.filterMap Reservation.handle).eraseDups).filter fun h =>
    (s.entry h).owed.map Owed.kind == some .unhush).take Config.messagesPerBundle

/-- The messages of a send, in the order chosen, with the queue and backlog they leave (R162). -/
def State.chooseMessages (s : State) (t : TreeId) (rs : List Reservation) : List QueuedMessage × ControlQueue :=
  let named := s.unhushNamed rs
  let q := (s.tree t).control
  let queue := q.queue.filter fun m => !named.any fun h => m == .unhush h
  let room := Config.messagesPerBundle - named.length
  (named.map QueuedMessage.unhush ++ queue.take room,
    { queue := queue.drop room, backlog := q.backlog.filter fun h => !named.contains h })

/-! ## What sending a message does (R152, R163, R169, R179) -/

/-- CQ tells RM of a HUSH sent for a sweep-owned entry: in HUSHING the notice for the current handle begins OBSERVING
(R163, R179). -/
def State.noteHushSent (s : State) (t : TreeId) (h : Nat) : State :=
  if (s.entry h).sweepOwned = some true then
    s.modRogue t fun r =>
      { r with sweep := r.sweep.map fun w =>
          if w.stage = .hushing ∧ w.current = h then { w with stage := .observing, hushCycle := some (s.tree t).n } else w }
  else s

/-- The departure of an entry ends: it becomes FREE and its handle joins the Cool-down Queue (R54, R169). -/
def State.endDeparture (s : State) (t : TreeId) (h : Nat) : State :=
  let e := s.entry h
  let s := s.freeEntry h
  let s := s.modTree t fun x => { x with coolDown := x.coolDown ++ [{ handle := h, released := x.n }] }
  (s.count t .releases).writeEvent .released t h
    (markWords (e.mark.getD 0)
      (byteFields ((e.reason.getD .host).code) (yesNo (e.reservedByHost.getD false))))

/-- An owed message was sent: a copy more joins the queue, or the obligation ends, and with a RELEASE the departure
(R163). -/
def State.owedSent (s : State) (t : TreeId) (h : Nat) : State :=
  match (s.entry h).owed with
  | none => s
  | some o =>
    if 1 < o.sends then
      (s.modEntry h fun e => { e with owed := some { o with sends := o.sends - 1 } }).joinCopy t h
    else
      let s := s.modEntry h fun e => { e with owed := none }
      if o.kind = .release then s.endDeparture t h else s

/-- A TRIM was sent in the bundle of cycle c (R152). -/
def State.trimSent (s : State) (t : TreeId) (c : Cycle) (h : Nat) (amount : Int) (generation : Nat) : State :=
  (s.modEntry h fun e =>
    { e with
      delay := e.delay.map fun d => ((d : Int) + amount).toNat
      generation := some generation
      trim := some (.effective c) }).count t .trimsSent

/-- What sending one message in the bundle of cycle c does (R163). -/
def State.messageSent (s : State) (t : TreeId) (c : Cycle) (m : QueuedMessage) : State :=
  match m with
  | .trim h amount generation => s.trimSent t c h amount generation
  | .hush h => (s.noteHushSent t h).owedSent t h
  | .release h _ | .unhush h => s.owedSent t h

/-- The chosen messages leave the queue, are acted on in bundle order, and the backlog fills what is free (R163). -/
def State.sendMessages (s : State) (t : TreeId) (c : Cycle) (rs : List Reservation) : State :=
  let (messages, left) := s.chooseMessages t rs
  (messages.foldl (fun s m => s.messageSent t c m) (s.modControl t fun _ => left)).fillBacklog t

end Sys2Proof.Machine
end

