-- ==== Sys2Proof/Machine/Entry.lean ====
section
/-! DEFINITION. The fields of an entry at each transition (R20, R21): one function per state entered, of the entry left and the
values the causing block supplies. -/

namespace Sys2Proof.Machine

/-- RESERVED from FREE (R21): the mark of the command, reserved-by-host yes. -/
def Entry.toReserved (m : Mark) : Entry :=
  { Entry.free with state := .reserved, mark := some m, reservedByHost := some true }

/-- CANDIDATE from FREE by a HELLO (R21). -/
def Entry.toCandidateNew (m : Mark) (termClass : Nat) (sample : Option Int) : Entry :=
  { Entry.free with
    state := .candidate, mark := some m, termClass := some termClass, reservedByHost := some false,
    lastSample := sample, measureAttempts := some 0, origin := some .enroll }

/-- CANDIDATE from RESERVED, REGISTERED, LOST, RERANGING or SETTLING by a HELLO (R21): mark, reserved-by-host and an owed
message stay. -/
def Entry.toCandidateHello (e : Entry) (termClass : Nat) (sample : Option Int) : Entry :=
  { Entry.free with
    state := .candidate, mark := e.mark, termClass := some termClass, reservedByHost := e.reservedByHost,
    lastSample := sample, measureAttempts := some 0, origin := some .enroll, owed := e.owed }

/-- Back from SETTLING by a deviated ACCEPT (R21, R135): CANDIDATE when the ranging origin is ENROLL, else RERANGING; last
sample absent, measure attempts and ranging origin kept. -/
def Entry.backToMeasuring (e : Entry) : Entry :=
  { Entry.free with
    state := if e.origin = some .enroll then .candidate else .reranging
    mark := e.mark, termClass := e.termClass, reservedByHost := e.reservedByHost,
    measureAttempts := e.measureAttempts, origin := e.origin, owed := e.owed }

/-- SETTLING from CANDIDATE or RERANGING (R21): the settle sample, settle attempts 0, the newer sample as last sample. -/
def Entry.toSettling (e : Entry) (settle : Nat) (newer : Int) : Entry :=
  { Entry.free with
    state := .settling, mark := e.mark, termClass := e.termClass, reservedByHost := e.reservedByHost,
    lastSample := some newer, measureAttempts := e.measureAttempts, origin := e.origin,
    settleSample := some settle, settleAttempts := some 0, owed := e.owed }

/-- REGISTERED from SETTLING (R21, R133): delay the settle sample, generation 0, last observed cycle the cycle of the
ACCEPT. -/
def Entry.toRegistered (e : Entry) (c : Cycle) : Entry :=
  { Entry.free with
    state := .registered, mark := e.mark, termClass := e.termClass, reservedByHost := e.reservedByHost,
    delay := e.settleSample, generation := some 0, missCount := some 0, lastObserved := some c,
    trim := some .none, probeInFlight := some false, leavingSeen := some false, owed := e.owed }

/-- LOST from REGISTERED (R21): lost since the tree's N, grace count 0. -/
def Entry.toLost (e : Entry) (n : Cycle) : Entry :=
  { e with state := .lost, lostSince := some n, graceCount := some 0 }

/-- REGISTERED from LOST (R21, R143): miss count 0, last observed cycle the hit's; lost since and grace count absent. -/
def Entry.toFound (e : Entry) (c : Cycle) : Entry :=
  { e with state := .registered, missCount := some 0, lastObserved := some c, lostSince := none, graceCount := none }

/-- REGISTERED from HUSHED (R21, R171), but for the owed message: delay and generation kept. -/
def Entry.toUnhushedRegistered (e : Entry) (n : Cycle) : Entry :=
  { Entry.free with
    state := .registered, mark := e.mark, termClass := e.termClass, reservedByHost := e.reservedByHost,
    delay := e.delay, generation := e.generation, missCount := some 0, lastObserved := some n,
    trim := some .none, probeInFlight := some false, leavingSeen := some false, owed := e.owed }

/-- RERANGING from REGISTERED, LOST or HUSHED (R21, R137, R171): measure attempts 0 and the ranging origin; an owed message
stays. -/
def Entry.toReranging (e : Entry) (origin : RangingOrigin) : Entry :=
  { Entry.free with
    state := .reranging, mark := e.mark, termClass := e.termClass, reservedByHost := e.reservedByHost,
    measureAttempts := some 0, origin := some origin, owed := e.owed }

/-- HUSHED (R21, R170), but for the owed message: delay and generation stay where the state left held them. -/
def Entry.toHushed (e : Entry) (sweepOwned : Bool) : Entry :=
  { Entry.free with
    state := .hushed, mark := e.mark, termClass := e.termClass, reservedByHost := e.reservedByHost,
    delay := e.delay, generation := e.generation, owed := e.owed, sweepOwned := some sweepOwned }

/-- DEPARTING (R21, R168), but for the owed message: mark, class and reserved-by-host stay, with the departure's reason. -/
def Entry.toDeparting (e : Entry) (reason : DepartureReason) : Entry :=
  { Entry.free with
    state := .departing, mark := e.mark, termClass := e.termClass, reservedByHost := e.reservedByHost,
    owed := e.owed, reason := some reason }

end Sys2Proof.Machine
end

