-- ==== Sys2Proof/Machine/Register.lean ====
section
/-! DEFINITION. The passages of an entry that several engines cause: the notices of R23, hush, departure, unhush, the passage
into RERANGING, and the timed bar (spec 02, 07 section 7.5, 09 sections 9.3 to 9.5). -/

namespace Sys2Proof.Machine

/-- The notices of an entry that left the roster for a state outside it: ROSTER REMOVED, the strikes, and removal from the
Probe Due list (R23). -/
def State.rosterLeft (s : State) (t : TreeId) (h : Nat) : State :=
  ((s.rosterNotice t h .removed).strike t h).modUpkeep t fun u => { u with probeDue := u.probeDue.filter (· != h) }

/-- The notices that follow the state an entry left for HUSHED, DEPARTING or, by a rejoin, CANDIDATE (R23, R116, R165). -/
def State.leftNotices (s : State) (t : TreeId) (h : Nat) (left : EntryState) : State :=
  match left with
  | .registered | .lost => s.rosterLeft t h
  | .candidate | .reranging => s.dropClaim t h
  | .settling => s.dropSettleDue t h
  | .free | .reserved | .hushed | .departing => s

/-- The TRIM queued for a handle is removed when its entry left the roster (R154, R164). -/
def State.dropTrimAfter (s : State) (t : TreeId) (h : Nat) (left : EntryState) : State :=
  match left with
  | .registered | .lost => s.dropTrim t h
  | .free | .reserved | .candidate | .settling | .reranging | .hushed | .departing => s

/-- An entry passes into HUSHED, by the host or by the sweep (R165, R170, R178). -/
def State.hushEntry (s : State) (t : TreeId) (h : Nat) (bySweep : Bool) : State :=
  let left := (s.entry h).state
  let s := s.modEntry h fun e => e.toHushed bySweep
  let s := s.recordOwed t h .hush 3
  let s := s.leftNotices t h left
  let s := s.dropTrimAfter t h left
  s.writeEvent .hushed t h [halves left.code (yesNo bySweep)]

/-- An entry passes into DEPARTING; the event of the cause is the caller's (R165, R167). -/
def State.departEntry (s : State) (t : TreeId) (h : Nat) (reason : DepartureReason) (sends : Nat) : State :=
  let left := (s.entry h).state
  let s := s.modEntry h fun e => e.toDeparting reason
  let s := s.recordOwed t h .release sends
  let s := s.leftNotices t h left
  s.dropTrimAfter t h left

/-- A HUSHED entry with a delay returns to REGISTERED (R171, R179). -/
def State.unhushToRegistered (s : State) (t : TreeId) (h : Nat) : State :=
  let s := s.modEntry h fun e => e.toUnhushedRegistered (s.tree t).n
  let s := s.recordOwed t h .unhush 1
  let s := s.rosterNotice t h .registered
  s.writeEvent .unhushed t h [oneField EntryState.registered.code]

/-- The ranging engine's request for an entry, its kind following the ranging origin (R65, R123). -/
def State.requestRanging (s : State) (t : TreeId) (h : Nat) : State :=
  match (s.entry h).origin with
  | some origin => s.requestClaim t (Claim.ofOrigin origin h)
  | none => s

/-- A HUSHED entry without a delay passes to RERANGING (R171). -/
def State.unhushToReranging (s : State) (t : TreeId) (h : Nat) : State :=
  let s := s.modEntry h fun e => e.toReranging .rerange
  let s := s.recordOwed t h .unhush 1
  let s := s.writeEvent .unhushed t h [oneField EntryState.reranging.code]
  s.requestRanging t h

/-- The code of a RERANGE reason (R191): HARD_LIMIT, DELAY_RANGE, FORCED. -/
def rerangeHardLimit : Nat := 0
/-- The code of the RERANGE reason DELAY_RANGE (R191). -/
def rerangeDelayRange : Nat := 1
/-- The code of the RERANGE reason FORCED (R191). -/
def rerangeForced : Nat := 2

/-- A REGISTERED or LOST entry passes into RERANGING, in the five steps of R137. -/
def State.rerange (s : State) (t : TreeId) (h : Nat) (origin : RangingOrigin) (reason : Nat) : State :=
  let held := (s.entry h).delay.getD 0
  let s := s.modEntry h fun e => e.toReranging origin
  let s := s.rosterLeft t h
  let s := s.dropTrim t h
  let s := s.writeEvent .rerange t h [halves reason held]
  s.requestRanging t h

/-- A timed bar for the mark of an entry that failed ranging, the hold-off in force not being 0 (R31). -/
def State.makeTimedBar (s : State) (t : TreeId) (h : Nat) (m : Mark) : State :=
  let holdOff := (s.tree t).tuning.holdOff
  let kind := BarKind.timed t holdOff 0
  match s.findBar m with
  | some b =>
    match b.kind with
    | .permanent => s
    | .timed .. => { s with bars := replaceBar s.bars m kind }
  | none =>
    match joinBar s.bars { mark := m, kind := kind } with
    | some bars => { s with bars := bars }
    | none => s.writeEvent .barListFull t h (markWords m 0)

/-- Ranging fails on an entry; cause 0 is MEASURE and 1 SETTLE (R129, R191). -/
def State.failRanging (s : State) (t : TreeId) (h : Nat) (cause : Nat) : State :=
  let left := (s.entry h).state
  let mark := (s.entry h).mark.getD 0
  let s := s.departEntry t h .measureFailure 1
  let s := s.writeEvent .measureFailed t h (markWords mark (byteFields left.code cause))
  let s := s.count t .measureFails
  if (s.tree t).tuning.holdOff = 0 then s else s.makeTimedBar t h mark

end Sys2Proof.Machine
end

