-- ==== Sys2Proof/Machine/Ranging.lean ====
section
/-! DEFINITION. The ranging engine: the sample of a measuring window, the pairing of samples, and the judgement of the echo of a
SETTLE (spec 07 sections 7.2 to 7.4). -/

namespace Sys2Proof.Machine

/-- The sample a measuring window gives, if it gives one (R122). -/
def TreeConfig.windowSample (c : TreeConfig) (e : Entry) (h answerPoint : Nat) (bursts : List Burst) : Option Int :=
  match bursts with
  | [b] =>
    match b.result, b.payload, b.arrival with
    | .good, some (.answer mark handle), some arrival =>
      let sample := (answerPoint : Int) - arrival
      if some mark = e.mark ∧ handle = h ∧ c.validSample sample then some sample else none
    | _, _, _ => none
  | _ => none

/-- An entry left in CANDIDATE or RERANGING is judged on its measure attempts: ranging fails, or a new request is made
(R128). -/
def State.judgeAttempts (s : State) (t : TreeId) (h : Nat) : State :=
  if (s.tree t).tuning.measureAttempts ≤ (s.entry h).measureAttempts.getD 0 then s.failRanging t h 0
  else s.requestRanging t h

/-- Two samples agree within the tolerance in force (R127). -/
def samplesAgree (tolerance : Nat) (a b : Int) : Bool := decide ((a - b).natAbs ≤ tolerance)

/-- An entry becomes SETTLING from an agreeing pair, the notices of R23 following, and joins the Settle Due list
(R23, R127, R130). -/
def State.settle (s : State) (t : TreeId) (h : Nat) (sample last : Int) : State :=
  let s := s.modEntry h fun e => e.toSettling ((sample + last) / 2).toNat sample
  (s.dropClaim t h).joinSettleDue t h

/-- A sample is compared with the last one (R25, R127). -/
def State.pairSample (s : State) (t : TreeId) (h : Nat) (sample : Int) : State :=
  let e := s.entry h
  let keep := (s.modEntry h fun e => { e with lastSample := some sample }).judgeAttempts t h
  match e.lastSample with
  | none => keep
  | some last =>
    if samplesAgree (s.tree t).tuning.tolerance sample last
        && (e.state == .candidate || decide (s.slotsInUse t < Config.enrollSlots)) then
      s.settle t h sample last
    else keep

/-- The result of a measuring window for handle h and cycle c (R80, R125, R126). -/
def State.measureResult (s : State) (t : TreeId) (h : Nat) (c : Cycle) (answerPoint : Nat) (bursts : List Burst) :
    State :=
  let e := s.entry h
  if e.measuring && e.measureCycle == some c then
    let s := s.modEntry h fun e =>
      { e with measureCycle := none, measureAttempts := e.measureAttempts.map fun n => min (n + 1) 7 }
    match (s.tree t).config.windowSample e h answerPoint bursts with
    | some sample => s.pairSample t h sample
    | none => s.judgeAttempts t h
  else s

/-- The outcome is an ACCEPT (R132). -/
def Burst.isAccept (b : Burst) (h : Nat) : Bool :=
  b.matchesHandle h && (match b.payload with
    | some (.echo _ status generation) => status == .ok && generation == 0
    | _ => false)

/-- A good ACCEPT makes the entry REGISTERED (R23, R133). -/
def State.registerEntry (s : State) (t : TreeId) (h : Nat) (c : Cycle) : State :=
  let e := s.entry h
  let s := s.modEntry h fun e => e.toRegistered c
  let s := s.dropSettleDue t h
  let s := s.rosterNotice t h .registered
  let s := s.count t .registrations
  s.writeEvent .registered t h [halves (e.settleSample.getD 0) ((e.origin.getD .enroll).code)]

/-- A deviated ACCEPT returns the entry to measuring (R23, R135). -/
def State.settleDeviated (s : State) (t : TreeId) (h : Nat) : State :=
  let s := s.modEntry h Entry.backToMeasuring
  (s.dropSettleDue t h).requestRanging t h

/-- A failed echo: the SETTLE is sent again, or at the third failure ranging fails (R136). -/
def State.settleFailed (s : State) (t : TreeId) (h : Nat) : State :=
  if (s.entry h).settleAttempts.getD 0 < 3 then s.joinSettleDue t h else s.failRanging t h 1

/-- The outcome of a SETTLE echo slot that starts at `start`, for handle h and cycle c (R78, R131, R132). -/
def State.settleOutcome (s : State) (t : TreeId) (h : Nat) (c : Cycle) (start : Nat) (b : Burst) : State :=
  let e := s.entry h
  if e.state = .settling ∧ e.settleEchoCycle = some c then
    let s := s.modEntry h fun e => { e with settleEchoCycle := none }
    match b.isAccept h, b.arrival with
    | true, some arrival =>
      if ((arrival : Int) - start).natAbs ≤ (s.tree t).tuning.tolerance then s.registerEntry t h c
      else s.settleDeviated t h
    | _, _ => s.settleFailed t h
  else s

end Sys2Proof.Machine
end

