-- ==== Sys2Proof/Machine/Discovery.lean ====
section
/-! DEFINITION. The discovery engine: the timer, the round with its call record and Split Stack, its pauses, and HELLO intake
(spec 06). -/

namespace Sys2Proof.Machine

/-! ## The call and its pauses (R104, R109; log 33) -/

/-- DE makes the next CALL request when all the conditions of R104 hold. -/
def State.tryCall (s : State) (t : TreeId) : State :=
  let d := (s.tree t).discovery
  match d.running, d.call, d.stack with
  | true, none, head :: rest =>
    if (s.tree t).mayCall then
      (s.modDiscovery t fun d =>
        { d with call := some { head := head, stage := .waiting, heldIgnored := false }, stack := rest }).requestClaim t
        (.call head)
    else s
  | _, _, _ => s

/-- The head in hand goes back on the Split Stack, and the call record becomes absent (R108, R109). -/
def State.pushBack (s : State) (t : TreeId) (head : MarkHead) : State :=
  s.modDiscovery t fun d => { d with call := none, stack := head :: d.stack }

/-- The tree became HELD, DARK or ROGUE: the waiting CALL is withdrawn, or the granted one cancelled (R70, R109). -/
def State.pauseCall (s : State) (t : TreeId) : State :=
  match (s.tree t).discovery.call with
  | none => s
  | some r =>
    match r.stage with
    | .waiting =>
      (s.modCalendar t fun w => { w with claims := w.claims.filter fun q => q.handle?.isSome }).pushBack t r.head
    | .granted c => ((s.cancelWindow t c).pushBack t r.head).arbitrate t
    | .onAir _ => s

/-- The slot of cycle c was sent: a call granted to it goes on air (R106). -/
def State.callSent (s : State) (t : TreeId) (c : Cycle) : State :=
  s.modDiscovery t fun d =>
    { d with call := d.call.map fun r => if r.stage = .granted c then { r with stage := .onAir c } else r }

/-! ## The timer (R101, R102) -/

/-- The timer counts a boundary; `expiryDue` marks an expiry that is not yet judged (R101; log 6). -/
def Discovery.tick (d : Discovery) (c : TreeConfig) : Discovery :=
  if c.interval = 0 then d
  else if d.prescaleCount + 1 < c.prescaler.boundaries then { d with prescaleCount := d.prescaleCount + 1 }
  else if d.counter + 1 < c.interval.toNat then { d with prescaleCount := 0, counter := d.counter + 1 }
  else { d with prescaleCount := 0, counter := 0, expiryDue := true }

/-- An expiry of the discovery timer is judged (R102, R105). -/
def State.judgeExpiry (s : State) (t : TreeId) : State :=
  let x := s.tree t
  if !x.discovery.armed then s.modDiscovery t fun d => { d with armed := true }
  else if !x.mayCall || x.discovery.running then s.count t .expiriesIgnored
  else
    (s.modDiscovery t fun d => { d with running := true, stack := { bits := 0, value := 0 } :: d.stack }).tryCall t

/-! ## The result of a CALL window (R107, R108) -/

/-- The two halves of a head, the lower first (R107). -/
def MarkHead.split (head : MarkHead) : List MarkHead :=
  [{ bits := head.bits + 1, value := 2 * head.value }, { bits := head.bits + 1, value := 2 * head.value + 1 }]

/-- The window collided: a burst was BAD_CHECK or EDGE (R107). -/
def collided (bursts : List Burst) : Bool := bursts.any fun b => b.result == .badCheck || b.result == .edge

/-- A collided window is counted and its head is split, or at the longest head SPLIT_DEPTH is written (R107). -/
def State.splitHead (s : State) (t : TreeId) (head : MarkHead) (c : Cycle) : State :=
  let s := s.count t .collisionWindows
  if head.bits < Config.maxHeadBits then s.modDiscovery t fun d => { d with stack := head.split ++ d.stack }
  else s.writeEvent .splitDepth t 0 [halves head.value c.toNat]

/-- The call record becomes absent, and the round ends when the Split Stack is empty, else it goes on (R107). -/
def State.endCall (s : State) (t : TreeId) : State :=
  (s.modDiscovery t fun d => { d with call := none, running := d.running && !d.stack.isEmpty }).tryCall t

/-- The result of the ON_AIR window of cycle c (R79, R107, R108). -/
def State.callResult (s : State) (t : TreeId) (c : Cycle) (bursts : List Burst) : State :=
  match (s.tree t).discovery.call with
  | none => s
  | some r =>
    if r.stage = .onAir c then
      if (s.tree t).state == .held || r.heldIgnored then (s.pushBack t r.head).tryCall t
      else (if collided bursts then s.splitHead t r.head c else s).endCall t
    else s

/-! ## HELLO intake (R112 to R119) -/

/-- The fields of a HELLO that passed check 2, its sample kept only when it is valid (R113). -/
structure Hello where
  mark : Mark
  termClass : Nat
  sample : Option Int
  deriving DecidableEq, Repr

/-- A GOOD HELLO that changes no entry (R112). -/
def State.discardHello (s : State) (t : TreeId) : State := s.count t .helloDiscarded

/-- A HELLO dropped because the enrollment slots are in use (R24, R116 to R118). -/
def State.dropForSlots (s : State) (t : TreeId) : State := (s.count t .enrollBusy).discardHello t

/-- Eight enrollment slots are in use (R24). -/
def State.slotsFull (s : State) (t : TreeId) : Bool := decide (Config.enrollSlots ≤ s.slotsInUse t)

/-- A rejoin (R116). -/
def State.rejoin (s : State) (t : TreeId) (h : Nat) (hello : Hello) : State :=
  let left := (s.entry h).state
  if left != .settling && s.slotsFull t then s.dropForSlots t
  else
    let s := s.modEntry h fun e => e.toCandidateHello hello.termClass hello.sample
    let s := s.leftNotices t h left
    let s := s.dropTrimAfter t h left
    let s := s.writeEvent .rejoin t h [oneField left.code]
    (s.count t .helloOk).requestRanging t h

/-- A HELLO for a CANDIDATE entry: a refresh while no window is granted to it, else ignored (R117). -/
def State.refresh (s : State) (t : TreeId) (h : Nat) (hello : Hello) : State :=
  if (s.entry h).measureCycle.isNone then
    (s.modEntry h fun e =>
      { e with termClass := some hello.termClass, lastSample := hello.sample.or e.lastSample }).count t .helloOk
  else s.discardHello t

/-- A CANDIDATE was made from a FREE or RESERVED entry: DISCOVERED, HELLO_OK and the claim request (R117, R119). -/
def State.discovered (s : State) (t : TreeId) (h : Nat) (hello : Hello) : State :=
  let s := s.writeEvent .discovered t h (markWords hello.mark hello.termClass)
  (s.count t .helloOk).requestRanging t h

/-- The enrollment of a RESERVED entry (R117). -/
def State.enrollReserved (s : State) (t : TreeId) (h : Nat) (hello : Hello) : State :=
  if s.slotsFull t then s.dropForSlots t
  else (s.modEntry h fun e => e.toCandidateHello hello.termClass hello.sample).discovered t h hello

/-- A HELLO whose mark the Mark Index maps to handle h follows the entry found (R115). -/
def State.followEntry (s : State) (t : TreeId) (h : Nat) (hello : Hello) : State :=
  let holder := (s.treeOf h).getD t
  let state := (s.entry h).state
  if holder ≠ t then
    (s.writeEvent (if state = .reserved then .misplaced else .markClash) t h
      (markWords hello.mark holder.val)).discardHello t
  else
    match state with
    | .registered | .lost | .settling | .reranging => s.rejoin t h hello
    | .candidate => s.refresh t h hello
    | .reserved => s.enrollReserved t h hello
    | .hushed | .departing | .free => s.discardHello t

/-- A HELLO for a mark the Mark Index does not hold: admission, enrollment slots, Free Pool and acceptance
(R118, R119). -/
def State.admitHello (s : State) (t : TreeId) (hello : Hello) : State :=
  if (s.tree t).tuning.admission = 1 then
    (s.writeEvent .stranger t 0 (markWords hello.mark hello.termClass)).discardHello t
  else if s.slotsFull t then s.dropForSlots t
  else
    match (s.tree t).freePool with
    | [] => ((s.writeEvent .tableFull t 0 (markWords hello.mark 0)).setTableFull t).discardHello t
    | h :: rest =>
      let s := s.modTree t fun x => { x with freePool := rest }
      (s.enterEntry h hello.mark (Entry.toCandidateNew hello.mark hello.termClass hello.sample)).discovered t h hello

/-- The code of a bar's kind (R191). -/
def BarKind.code : BarKind → Nat
  | .permanent => 1
  | .timed .. => 2

/-- A HELLO that passed check 2 meets the Bar List and the Mark Index (R114, R115). -/
def State.judgeHello (s : State) (t : TreeId) (hello : Hello) : State :=
  match s.findBar hello.mark with
  | some b => (s.writeEvent .barred t 0 (markWords hello.mark b.kind.code)).discardHello t
  | none =>
    match s.findMark hello.mark with
    | some h => s.followEntry t h hello
    | none => s.admitHello t hello

/-- Check 2: the mark is valid and begins with the window's head, and the backoff is within B, 0 where B is 0
(R113; log 15). -/
def helloInWindow (head : MarkHead) (range : BackoffRange) (m : Mark) (backoff : Nat) : Bool :=
  !invalidMark m && m.toNat / 2 ^ (48 - head.bits) == head.value
    && (decide (backoff < range.grains) || (range == .b0 && backoff == 0))

/-- A burst of a CALL window goes through intake (R79, R111 to R113). -/
def State.intake (s : State) (t : TreeId) (head : MarkHead) (answerPoint : Nat) (b : Burst) : State :=
  let c := (s.tree t).config
  if b.result ≠ .good then s
  else if (s.tree t).state = .held then
    (s.modDiscovery t fun d => { d with call := d.call.map fun r => { r with heldIgnored := true } }).discardHello t
  else
    match b.payload, b.arrival with
    | some (.hello mark termClass backoff), some arrival =>
      if helloInWindow head c.backoff mark backoff then
        let sample := (answerPoint : Int) + backoff - arrival
        s.judgeHello t
          { mark := mark, termClass := termClass, sample := if c.validSample sample then some sample else none }
      else s.discardHello t
    | _, _ => s.discardHello t

end Sys2Proof.Machine
end

