-- ==== Sys2Proof/Machine/Rogue.lean ====
section
/-! DEFINITION. The Rogue Monitor: stray cycles, the rogue state, and the Isolation Sweep (spec 10). -/

namespace Sys2Proof.Machine

/-! ## The Isolation Sweep (R178 to R182) -/

/-- The code of a sweep stage (R191). -/
def SweepStage.code : SweepStage → Nat
  | .hushing => 0
  | .observing => 1

/-- The lowest handle above the cursor in the tree's window whose entry is in the roster (R178). -/
def State.nextSweepHandle (s : State) (t : TreeId) (cursor : Nat) : Option Nat :=
  (s.tree t).windowHandles.find? fun h => decide (cursor < h) && (s.entry h).inRoster

/-- A sweep step from a cursor: the next rostered handle is hushed, or the sweep is EXHAUSTED (R178). -/
def State.sweepStep (s : State) (t : TreeId) (cursor dwell tried : Nat) : State :=
  match s.nextSweepHandle t cursor with
  | some h =>
    let sweep : Sweep :=
      { stage := .hushing, cursor := h, dwell := dwell, current := h, hushCycle := none, tried := tried + 1 }
    (s.hushEntry t h true).modRogue t fun r => { r with sweep := some sweep }
  | none =>
    ((s.writeEvent .sweepExhausted t 0 [oneField tried]).setSweepEnd t).modRogue t fun r => { r with sweep := none }

/-- The forward distance from the hush cycle to N in OBSERVING, 0 in HUSHING (R180). -/
def Sweep.age (w : Sweep) (n : Cycle) : Nat :=
  match w.stage, w.hushCycle with
  | .observing, some c => Cycle.distance c n
  | _, _ => 0

/-- The dwell of the sweep has expired (R179). -/
def Sweep.dwellOver (w : Sweep) (n : Cycle) : Bool := w.stage == .observing && decide (w.dwell ≤ w.age n)

/-- The dwell judgement: the current handle is unhushed and the next step is taken (R179). -/
def State.judgeDwell (s : State) (t : TreeId) : State :=
  match (s.tree t).rogue.sweep with
  | some w =>
    if w.dwellOver (s.tree t).n then (s.unhushToRegistered t w.current).sweepStep t w.cursor w.dwell w.tried else s
  | none => s

/-- A host command took a sweep-owned handle out of HUSHED: the sweep steps on when it was the current one (R181). -/
def State.sweepOverride (s : State) (t : TreeId) (h : Nat) : State :=
  match (s.tree t).rogue.sweep with
  | some w => if w.current = h then s.sweepStep t w.cursor w.dwell w.tried else s
  | none => s

/-- A running sweep ends FOUND (R180). -/
def State.sweepFound (s : State) (t : TreeId) : State :=
  match (s.tree t).rogue.sweep with
  | some w =>
    let s := s.modEntry w.current fun e => { e with sweepOwned := e.sweepOwned.map fun _ => false }
    let age := w.age (s.tree t).n
    let s := s.writeEvent .sweepFound t w.current
      [BitVec.ofNat 32 (w.stage.code * 2 ^ 31 + age % 2 ^ 15 * 2 ^ 16 + w.tried % 2 ^ 16)]
    (s.setSweepEnd t).modRogue t fun r => { r with sweep := none }
  | none => s

/-- A running sweep is aborted (R182). -/
def State.sweepAbort (s : State) (t : TreeId) (w : Sweep) : State :=
  let s := s.unhushToRegistered t w.current
  let s := s.writeEvent .sweepAborted t w.current [halves w.stage.code w.tried]
  (s.setSweepEnd t).modRogue t fun r => { r with sweep := none }

/-! ## Stray cycles and the rogue state (R173 to R176) -/

/-- The history with a judgement joining it, at most 8 kept (R173). -/
def joinHistory (history : List Bool) (stray : Bool) : List Bool :=
  let all := history ++ [stray]
  all.drop (all.length - Config.strayHistory)

/-- The tree becomes ROGUE (R70, R174, R176). -/
def State.becomeRogue (s : State) (t : TreeId) (c : Cycle) : State :=
  let s := s.modRogue t fun r => { r with rogue := true, cleanRun := 0 }
  let s := (s.setRogueChg t).writeEvent .rogueOn t 0 [oneField c.toNat]
  s.pauseCall t

/-- The rogue state clears, a running sweep ending FOUND (R110, R175, R180). -/
def State.clearRogue (s : State) (t : TreeId) (c : Cycle) : State :=
  let s := s.modRogue t fun r => { r with rogue := false, cleanRun := 0 }
  let s := (s.setRogueChg t).writeEvent .rogueOff t 0 [oneField c.toNat]
  (s.sweepFound t).tryCall t

/-- The clean run of a ROGUE tree moves (R175). -/
def State.moveCleanRun (s : State) (t : TreeId) (c : Cycle) (stray : Bool) : State :=
  if stray then s.modRogue t fun r => { r with cleanRun := 0 }
  else
    let s := s.modRogue t fun r => { r with cleanRun := r.cleanRun + 1 }
    if Config.cleanRunToClear ≤ (s.tree t).rogue.cleanRun then s.clearRogue t c else s

/-- RM is told that cycle c has closed, with its stray seen flag (R83, R173 to R175). -/
def State.rogueClose (s : State) (t : TreeId) (c : Cycle) (stray : Bool) : State :=
  let s := if stray then s.count t .strayCycles else s
  let s := s.modRogue t fun r => { r with history := joinHistory r.history stray }
  if (s.tree t).rogue.rogue then s.moveCleanRun t c stray
  else if Config.rogueThreshold ≤ (s.tree t).rogue.history.count true then s.becomeRogue t c
  else s

end Sys2Proof.Machine
end

