-- ==== Sys2Proof/Machine/Upkeep.lean ====
section
/-! DEFINITION. The upkeep engine: observations, presence and grace, probes, the drift filter, and the dark state (spec 08). -/

namespace Sys2Proof.Machine

/-! ## Observations (R140 to R143, R147) -/

/-- An observation: the outcome of a grant or of a PROBE echo slot, with the reservation's start (R140). -/
structure Observation where
  cycle : Cycle
  handle : Nat
  start : Nat
  probe : Bool
  outcome : Burst
  deriving DecidableEq, Repr

/-- The kinds of taken observation (R141). -/
inductive ObservationKind where
  | hit | foreign | miss
  deriving DecidableEq, Repr

/-- The kind of an observation (R141). -/
def Observation.kind (o : Observation) : ObservationKind :=
  if o.outcome.matchesHandle o.handle then .hit else if o.outcome.result = .good then .foreign else .miss

/-- The tally of a cycle takes an observation (R155). -/
def tallyObservation (tallies : List Tally) (c : Cycle) (lit : Bool) : List Tally :=
  if tallies.any (fun y => y.cycle == c) then
    tallies.map fun y => if y.cycle = c then { y with counted := true, lit := y.lit || lit } else y
  else tallies ++ [{ cycle := c, counted := true, lit := lit }]

/-- A hit makes the miss count 0 and the observation's cycle the last observed one; a LOST entry is found (R141, R143). -/
def State.hitPresence (s : State) (t : TreeId) (h : Nat) (c : Cycle) : State :=
  let e := s.entry h
  if e.state = .lost then
    ((s.modEntry h fun e => e.toFound c).rosterNotice t h .registered).writeEvent .found t h
      [halves c.toNat (e.graceCount.getD 0)]
  else s.modEntry h fun e => { e with missCount := some 0, lastObserved := some c }

/-- A miss is counted on a tree that is not DARK, and a REGISTERED entry at the lost threshold becomes LOST (R142). -/
def State.missPresence (s : State) (t : TreeId) (h : Nat) : State :=
  let x := s.tree t
  if x.upkeep.dark then s
  else
    let limit := x.tuning.lostThreshold
    let count := min ((s.entry h).missCount.getD 0 + 1) limit
    let s := s.modEntry h fun e => { e with missCount := some count }
    if (s.entry h).state = .registered ∧ limit ≤ count then
      ((s.modEntry h fun e => e.toLost x.n).rosterNotice t h .lost).writeEvent .lost t h
        [oneField (((s.entry h).lastObserved.getD 0).toNat)]
    else s

/-- The fence of an effective cycle: the first hit or miss of that cycle or later makes trim outstanding none (R153). -/
def Entry.clearFence (e : Entry) (c : Cycle) : Entry :=
  match e.trim with
  | some (.effective f) =>
    if 1 ≤ Cycle.distance c f ∧ Cycle.distance c f ≤ 32767 then e else { e with trim := some .none }
  | _ => e

/-! ## The drift filter (R149 to R151) -/

/-- Two deviations have the same sign. -/
def sameSign (a b : Int) : Bool := decide ((0 < a ∧ 0 < b) ∨ (a < 0 ∧ b < 0))

/-- The amount of the TRIM formed from a pending and a new deviation: minus the half of their sum, truncated toward zero
(R151). -/
def trimAmount (p d : Int) : Int := -(Int.tdiv (p + d) 2)

/-- A TRIM is formed, or the entry passes into RERANGING when its new delay would leave the valid range (R151). -/
def State.formTrim (s : State) (t : TreeId) (h : Nat) (p d : Int) : State :=
  let s := s.modEntry h fun e => { e with driftPending := none }
  let e := s.entry h
  let amount := trimAmount p d
  if (s.tree t).config.validSample ((e.delay.getD 0 : Int) + amount) then
    s.offerTrim t h amount ((e.generation.getD 0 + 1) % 8)
  else s.rerange t h .rerange rerangeDelayRange

/-- A deviation taken by the filter is judged (R150). -/
def State.judgeDeviation (s : State) (t : TreeId) (h : Nat) (d : Int) : State :=
  let u := (s.tree t).tuning
  if u.hardLimit < d.natAbs then s.rerange t h .rerange rerangeHardLimit
  else if d.natAbs ≤ u.deadBand then s.modEntry h fun e => { e with driftPending := none }
  else
    match (s.entry h).driftPending with
    | some p => if sameSign p d then s.formTrim t h p d else s.modEntry h fun e => { e with driftPending := some d }
    | none => s.modEntry h fun e => { e with driftPending := some d }

/-- The generation an ECHO carries, for a PROBE echo slot (R78). -/
def Observation.generation (o : Observation) : Option Nat :=
  match o.probe, o.outcome.payload with
  | true, some (.echo _ _ generation) => some generation
  | _, _ => none

/-- The status an ECHO carries, for a PROBE echo slot (R78). -/
def Observation.status (o : Observation) : Option EchoStatus :=
  match o.probe, o.outcome.payload with
  | true, some (.echo _ status _) => some status
  | _, _ => none

/-- The filter takes the deviation: beyond the hard limit always, else with trim outstanding none and an ECHO of the
entry's generation (R149). -/
def filterTakes (hardLimit : Nat) (e : Entry) (o : Observation) (d : Int) : Bool :=
  decide (hardLimit < d.natAbs)
    || (e.trim == some .none && (match o.generation with
      | some g => e.generation == some g
      | none => true))

/-- A hit's deviation is offered to the filter (R149). -/
def State.offerDeviation (s : State) (t : TreeId) (o : Observation) : State :=
  if (s.tree t).upkeep.dark then s
  else
    match o.outcome.arrival with
    | none => s
    | some arrival =>
      let d := (arrival : Int) - o.start
      if filterTakes (s.tree t).tuning.hardLimit (s.entry o.handle) o d then s.judgeDeviation t o.handle d else s

/-! ## Leaving (R148) -/

/-- The second LEAVING in a row: the entry departs with reason leave, and LEFT is written (R148, R165). -/
def State.leave (s : State) (t : TreeId) (h : Nat) : State :=
  let mark := (s.entry h).mark.getD 0
  (s.departEntry t h .leave 1).writeEvent .left t h (markWords mark 0)

/-- The status of a PROBE echo is judged, the entry still being in the roster (R148). -/
def State.judgeStatus (s : State) (t : TreeId) (h : Nat) (status : Option EchoStatus) : State :=
  if (s.entry h).inRoster then
    match status with
    | some .ok => s.modEntry h fun e => { e with leavingSeen := some false }
    | some .leaving =>
      if (s.entry h).leavingSeen = some true then s.leave t h
      else s.modEntry h fun e => { e with leavingSeen := some true }
    | none => s
  else s

/-- A hit (R141, R143, R148, R149; log 17). -/
def State.takeHit (s : State) (t : TreeId) (o : Observation) : State :=
  let e := s.entry o.handle
  if e.state = .lost ∧ o.status = some .leaving ∧ e.leavingSeen = some true then s.leave t o.handle
  else
    let s := s.hitPresence t o.handle o.cycle
    let s := s.modEntry o.handle fun e => e.clearFence o.cycle
    let s := s.offerDeviation t o
    s.judgeStatus t o.handle o.status

/-- A miss (R141, R142, R153). -/
def State.takeMiss (s : State) (t : TreeId) (o : Observation) : State :=
  (s.modEntry o.handle fun e => e.clearFence o.cycle).missPresence t o.handle

/-- UE is handed an observation, and takes it for an entry that is REGISTERED or LOST (R140, R141, R155; log 16). -/
def State.observe (s : State) (t : TreeId) (o : Observation) : State :=
  if (s.entry o.handle).inRoster then
    let s := s.modUpkeep t fun u => { u with tallies := tallyObservation u.tallies o.cycle o.outcome.result.light }
    match o.kind with
    | .hit => s.takeHit t o
    | .foreign => s
    | .miss => s.takeMiss t o
  else s

/-! ## What a boundary brings (R144, R146) -/

/-- The handles of the tree's non-FREE entries, ascending. -/
def State.treeHandles (s : State) (t : TreeId) : List Nat :=
  (s.entries.map Prod.fst).filter fun h => (s.tree t).inWindow h

/-- The age of an entry is bounded at 32,768 cycles (R146). -/
def Entry.boundAge (e : Entry) (n : Cycle) : Entry :=
  { e with lastObserved := e.lastObserved.map fun c => if 32768 ≤ Cycle.distance c n then n - 32768#16 else c }

/-- The entry is due a probe (R146). -/
def Entry.probeDue (e : Entry) (n : Cycle) (interval : Nat) : Bool :=
  match e.state with
  | .registered => decide (interval ≤ Cycle.distance (e.lastObserved.getD n) n)
  | .lost =>
    let d := Cycle.distance (e.lostSince.getD n) n
    d != 0 && d % interval == 0
  | _ => false

/-- The probe test of one entry at a boundary (R146). -/
def State.testProbe (s : State) (t : TreeId) (h : Nat) : State :=
  if (s.entry h).inRoster then
    let s := s.modEntry h fun e => e.boundAge (s.tree t).n
    let e := s.entry h
    let x := s.tree t
    if e.probeInFlight == some false && !x.upkeep.probeDue.contains h && e.probeDue x.n x.tuning.probeInterval then
      s.modUpkeep t fun u => { u with probeDue := u.probeDue ++ [h] }
    else s
  else s

/-- The probe test of the tree's entries in ascending handle order (R146). -/
def State.testProbes (s : State) (t : TreeId) : State :=
  (s.treeHandles t).foldl (fun s h => s.testProbe t h) s

/-- The entry's grace has run out (R144). -/
def Entry.graceOver (e : Entry) (grace : Nat) : Bool :=
  e.state == .lost && grace != 0 && decide (grace ≤ e.graceCount.getD 0)

/-- A LOST entry's grace count advances (R144). -/
def Entry.countGrace (e : Entry) : Entry :=
  if e.state = .lost then { e with graceCount := e.graceCount.map fun n => min (n + 1) 65535 } else e

/-- The grace step on a tree that is not DARK: every LOST entry's grace count advances, and the entries whose grace is then
over are due. The count and the finding meet one dark state; the departures are judgeGrace's (R144, R157; log 6). -/
def State.countGrace (s : State) (t : TreeId) : State :=
  if (s.tree t).upkeep.dark then s
  else
    let s := (s.treeHandles t).foldl (fun s h => s.modEntry h Entry.countGrace) s
    s.modUpkeep t fun u =>
      { u with graceDue := (s.treeHandles t).filter fun h => (s.entry h).graceOver (s.tree t).tuning.grace }

/-- The handles a grace step found due that are still LOST with their grace over; one found since is REGISTERED (R144). -/
def State.graceDue (s : State) (t : TreeId) : List Nat :=
  (s.tree t).upkeep.graceDue.filter fun h => (s.entry h).graceOver (s.tree t).tuning.grace

/-- The grace judgement: each entry due departs with three RELEASE sends, in the order given, and none is due any more
(R144; log 24). -/
def State.judgeGrace (s : State) (t : TreeId) (order : Nat) : State :=
  ((arrange order (s.graceDue t)).foldl (fun s h => s.departEntry t h .grace 3) s).modUpkeep t fun u =>
    { u with graceDue := [] }

/-! ## The dark state (R155 to R157) -/

/-- How a closed cycle is judged (R155). -/
inductive CycleLight where
  | lit | dark | neutral
  deriving DecidableEq, Repr

/-- The judgement of a closed cycle from its tally (R155). -/
def cycleLight (tallies : List Tally) (c : Cycle) : CycleLight :=
  match tallies.find? fun y => y.cycle == c with
  | some y => if y.lit then .lit else if y.counted then .dark else .neutral
  | none => .neutral

/-- The tree becomes DARK (R70, R109, R156). -/
def State.becomeDark (s : State) (t : TreeId) (c : Cycle) : State :=
  let s := s.modUpkeep t fun u => { u with dark := true, darkRun := 0, litRun := 0 }
  let s := (s.setDarkChg t).writeEvent .darkOn t 0 [oneField c.toNat]
  s.pauseCall t

/-- The dark state clears (R110, R156). -/
def State.clearDark (s : State) (t : TreeId) (c : Cycle) : State :=
  let s := s.modUpkeep t fun u => { u with dark := false, darkRun := 0, litRun := 0 }
  let s := (s.setDarkChg t).writeEvent .darkOff t 0 [oneField c.toNat]
  s.tryCall t

/-- A closed cycle of a tree that is clear (R156). -/
def State.closeWhileLit (s : State) (t : TreeId) (c : Cycle) (judged : CycleLight) : State :=
  match judged with
  | .neutral => s
  | .lit => s.modUpkeep t fun u => { u with darkRun := 0 }
  | .dark =>
    let s := s.modUpkeep t fun u => { u with darkRun := u.darkRun + 1 }
    if (s.tree t).tuning.darkThreshold ≤ (s.tree t).upkeep.darkRun then s.becomeDark t c else s

/-- A closed cycle of a DARK tree (R156). -/
def State.closeWhileDark (s : State) (t : TreeId) (c : Cycle) (judged : CycleLight) : State :=
  match judged with
  | .neutral => s
  | .dark => s.modUpkeep t fun u => { u with litRun := 0 }
  | .lit =>
    let s := s.modUpkeep t fun u => { u with litRun := u.litRun + 1 }
    if Config.litRunToClear ≤ (s.tree t).upkeep.litRun then s.clearDark t c else s

/-- UE is told that cycle c has closed: its tally is judged and discarded (R83, R155, R156). -/
def State.upkeepClose (s : State) (t : TreeId) (c : Cycle) : State :=
  let judged := cycleLight (s.tree t).upkeep.tallies c
  let s := s.modUpkeep t fun u => { u with tallies := u.tallies.filter fun y => y.cycle != c }
  if (s.tree t).upkeep.dark then s.closeWhileDark t c judged else s.closeWhileLit t c judged

end Sys2Proof.Machine
end

