-- ==== Sys2Proof/Machine/Slots.lean ====
section
/-! DEFINITION. What a sent slot gains: outcomes, bursts, the ends of quiet windows and the stray seen flag, each handed to the
engine it concerns (R76 to R82). -/

namespace Sys2Proof.Machine

/-- The stray seen flag of a slot becomes yes (R77, R78, R80, R81). -/
def State.markStray (s : State) (t : TreeId) (c : Cycle) : State := s.modSlot t c fun k => { k with stray := true }

/-- One reservation of a slot changed. -/
def State.modReservation (s : State) (t : TreeId) (c : Cycle) (i : Nat) (f : Reservation → Reservation) : State :=
  s.modSlot t c fun k => { k with reservations := k.reservations.modify i f }

/-- What the outcome of a grant or an echo slot makes the calendar hand on (R77, R78). -/
def State.handOutcome (s : State) (t : TreeId) (c : Cycle) (r : Reservation) (b : Burst) : State :=
  let h := r.handle.getD 0
  match r.kind, r.purpose with
  | .grant, _ => s.observe t { cycle := c, handle := h, start := r.start, probe := false, outcome := b }
  | .echo, some .settle => s.settleOutcome t h c r.start b
  | .echo, some .probe =>
    let s := if (s.entry h).inRoster then s.modEntry h fun e => { e with probeInFlight := some false } else s
    s.observe t { cycle := c, handle := h, start := r.start, probe := true, outcome := b }
  | _, _ => s

/-- The outcome of the grant or echo slot at index i is taken (R76 to R78). -/
def State.takeOutcome (s : State) (t : TreeId) (c : Cycle) (i : Nat) (r : Reservation) (b : Burst) : State :=
  let s := s.modReservation t c i fun r => { r with outcome := some b }
  let s := if b.result = .good ∧ !b.matchesHandle (r.handle.getD 0) then s.markStray t c else s
  s.handOutcome t c r b

/-- A burst of the quiet window at index i is taken (R76, R79, R80). -/
def State.takeBurst (s : State) (t : TreeId) (c : Cycle) (i : Nat) (r : Reservation) (b : Burst) : State :=
  let s := s.modReservation t c i fun r => { r with bursts := r.bursts ++ [b] }
  match r.kind with
  | .quietCall => s.intake t (r.head.getD { bits := 0, value := 0 }) (r.answerPoint.getD 0) b
  | .quietMeasure => if r.bursts.length = 1 then s.markStray t c else s
  | .grant | .echo => s

/-- The quiet window at index i ends on the bursts it has taken, and its result is handed on (R76, R79, R80). -/
def State.endWindow (s : State) (t : TreeId) (c : Cycle) (i : Nat) (r : Reservation) : State :=
  let s := s.modReservation t c i fun r => { r with ended := true }
  match r.kind with
  | .quietCall => s.callResult t c r.bursts
  | .quietMeasure => s.measureResult t (r.handle.getD 0) c (r.answerPoint.getD 0) r.bursts
  | .grant | .echo => s

/-- The outcome of a reservation without a report (R82). -/
def Burst.noLight : Burst := { result := .noLight, arrival := none, header := none, payload := none }

/-- The grants and echo slots of a list that have no outcome, with their indices, in ascending order (R82). -/
def withoutOutcome (rs : List Reservation) : List (Reservation × Nat) :=
  rs.zipIdx.filter fun x => x.1.takesOutcome && x.1.outcome.isNone

/-- The quiet window of a list that has not ended, with its index (R83). -/
def openWindow (rs : List Reservation) : Option (Reservation × Nat) :=
  rs.zipIdx.find? fun x => x.1.isQuiet && !x.1.ended

end Sys2Proof.Machine
end

