-- ==== Sys2Proof/Machine/Boundary.lean ====
section
/-! DEFINITION. The boundary of a tree and its reactions, the five expiries, and the handover of a bundle
(R3, R7, R32, R55, R59, R74, R82, R83, R101, R144, R179). -/

namespace Sys2Proof.Machine

/-! ## The send (R6, R73, R74) -/

/-- The window-tied message of a reservation; a grant has none (R8, R9, R74). -/
def State.windowMessage (s : State) (t : TreeId) (c : Cycle) (r : Reservation) : Option DownMessage :=
  let h := r.handle.getD 0
  let e := s.entry h
  match r.kind with
  | .grant => none
  | .quietCall =>
    some (.call c (r.answerPoint.getD 0) (s.tree t).config.backoff (r.head.getD { bits := 0, value := 0 }))
  | .quietMeasure => some (.measure (e.mark.getD 0) h c (r.answerPoint.getD 0))
  | .echo =>
    match r.purpose with
    | some .settle => some (.settle (e.mark.getD 0) h (e.settleSample.getD 0) 0 r.start)
    | _ => some (.probe h r.start)

/-- The window-tied messages of a list: the quiet window's, then the echo slots' in order (R6). -/
def State.windowMessages (s : State) (t : TreeId) (c : Cycle) (rs : List Reservation) : List DownMessage :=
  (rs.filter Reservation.isQuiet ++ rs.filter fun r => !r.isQuiet).filterMap (s.windowMessage t c)

/-- The bundle of cycle c as the slot and the Control Queue stand (R6, R74). -/
def State.bundleOf (s : State) (t : TreeId) (c : Cycle) : List Byte :=
  let rs := s.reservationsOf t c
  bundleBytes t c rs (s.windowMessages t c rs ++ (s.chooseMessages t rs).1.map QueuedMessage.toDown)

/-- The slot of cycle N + 6 is sent (R7, R59, R73, R74). -/
def State.sendSlot (s : State) (t : TreeId) : State :=
  let c := (s.tree t).n + BitVec.ofNat 16 Config.sendLead
  match (s.tree t).calendar.slot? c with
  | none => s
  | some k =>
    let s := s.placeEchoes t c (s.tree t).echoRequests
    let bundle := s.bundleOf t c
    let s := s.modTree t fun x => { x with handover := bundle }
    let s := if k.state = .opened ∨ k.state = .claimed then s.count t .plansMissing else s
    let s := s.modSlot t c fun k => { k with state := .sent }
    (s.callSent t c).sendMessages t c (s.reservationsOf t c)

/-! ## The ring (R59, R82, R83) -/

/-- The slot of cycle N − 1 passes to CLOSING, its missing outcomes given, and the slot of cycle N to ARRIVING (R59, R82). -/
def State.passSlots (s : State) (t : TreeId) : State :=
  let n := (s.tree t).n
  let c := n - 1#16
  let s := s.modSlot t n fun k => { k with state := .arriving }
  let s := s.modSlot t c fun k => { k with state := .closing }
  (withoutOutcome (s.reservationsOf t c)).foldl (fun s x => s.takeOutcome t c x.2 x.1 Burst.noLight) s

/-- The notices of a closed cycle to RM and to UE, in either order (R83; log 5). -/
def State.closeNotices (s : State) (t : TreeId) (c : Cycle) (stray : Bool) (order : Nat) : State :=
  if order % 2 = 0 then (s.rogueClose t c stray).upkeepClose t c else (s.upkeepClose t c).rogueClose t c stray

/-- The slot of cycle N − 2 closes and leaves the ring (R59, R83). -/
def State.closeSlot (s : State) (t : TreeId) (order : Nat) : State :=
  let c := (s.tree t).n - 2#16
  match (s.tree t).calendar.slot? c with
  | none => s
  | some k =>
    let s := match openWindow k.reservations with
      | some (r, i) => s.countReportError.endWindow t c i r
      | none => s
    (s.closeNotices t c k.stray order).modCalendar t fun w => { w with ring := w.ring.filter fun k => k.cycle != c }

/-- An OPEN slot of a cycle (R58, R59). -/
def Slot.fresh (c : Cycle) : Slot := { cycle := c, state := .opened, reservations := [], stray := false }

/-- The slot of cycle N + 14 joins the ring, and the Claim List is arbitrated (R59, R67). -/
def State.joinSlot (s : State) (t : TreeId) : State :=
  (s.modCalendar t fun w =>
    { w with ring := w.ring ++ [Slot.fresh ((s.tree t).n + BitVec.ofNat 16 Config.horizonLast)] }).arbitrate t

/-! ## The five expiries (log 6) -/

/-- The expiry of the discovery timer, if one has occurred, is judged (R102). -/
def State.takeTimerExpiry (s : State) (t : TreeId) : State :=
  if (s.tree t).discovery.expiryDue then
    (s.modDiscovery t fun d => { d with expiryDue := false }).judgeExpiry t
  else s

/-- The records at the head of the Cool-down Queue that have cooled (R55). -/
def Tree.cooled (x : Tree) : List CoolRecord :=
  x.coolDown.takeWhile fun r => decide (Config.coolingCycles ≤ Cycle.distance r.released x.n)

/-- Every cooled record leaves the queue, oldest first, its handle pushed on the Free Pool (R51, R55; log 30). -/
def State.takeCooled (s : State) (t : TreeId) : State :=
  s.modTree t fun x =>
    { x with
      freePool := (x.cooled.map CoolRecord.handle).reverse ++ x.freePool
      coolDown := x.coolDown.drop x.cooled.length }

/-- The record is a TIMED bar of tree t whose remaining hold-off is 0 (R32). -/
def BarRecord.ended (b : BarRecord) (t : TreeId) : Bool :=
  match b.kind with
  | .permanent => false
  | .timed setter holdOff _ => setter == t && holdOff == 0

/-- The TIMED bars of the tree whose remaining hold-off is 0 leave the Bar List (R32). -/
def State.takeEndedBars (s : State) (t : TreeId) : State :=
  { s with bars := s.bars.filter fun b => !b.ended t }

/-- A TIMED bar of the tree counts a boundary (R32). -/
def BarRecord.countBoundary (b : BarRecord) (t : TreeId) : BarRecord :=
  match b.kind with
  | .permanent => b
  | .timed setter holdOff units =>
    if setter = t then
      { b with kind :=
          if units + 1 = Config.boundariesPerHoldOff then .timed setter (holdOff - 1) 0
          else .timed setter holdOff (units + 1) }
    else b

/-- The TIMED bars of the tree count a boundary (R32). -/
def State.countBars (s : State) (t : TreeId) : State := { s with bars := s.bars.map fun b => b.countBoundary t }

/-- The five judgements that a boundary may leave to a step of their own (log 6). -/
inductive Expiry where
  | timer | cooling | bars | grace | dwell
  deriving DecidableEq, Repr

/-- The five expiries in the order their rules stand (log 6). -/
def allExpiries : List Expiry := [.timer, .cooling, .bars, .grace, .dwell]

/-- One expiry is taken, where it is due (R32, R55, R102, R144, R179). -/
def State.takeExpiry (s : State) (t : TreeId) (graceOrder : Nat) : Expiry → State
  | .timer => s.takeTimerExpiry t
  | .cooling => s.takeCooled t
  | .bars => s.takeEndedBars t
  | .grace => s.judgeGrace t graceOrder
  | .dwell => s.judgeDwell t

/-- What an expiry's block counts at the boundary, before the judgement (R101, R144); the bars have counted already (R32). -/
def State.countFor (s : State) (t : TreeId) : Expiry → State
  | .timer => s.modDiscovery t fun d => d.tick (s.tree t).config
  | .grace => s.countGrace t
  | .cooling | .bars | .dwell => s

/-- The place of an expiry in the number that says which are left to a step of their own (log 6). -/
def Expiry.place : Expiry → Nat
  | .timer => 0
  | .cooling => 1
  | .bars => 2
  | .grace => 3
  | .dwell => 4

/-! ## The boundary (R3; log 5) -/

/-- The reactions of a tree to a boundary (R59, R89, R146 and the five expiries). -/
inductive BoundaryAct where
  | close | pass | send | join | cycleFrame | probes | expiry (e : Expiry)
  deriving DecidableEq, Repr

/-- The reactions in the order their rules stand (log 5). -/
def boundaryActs : List BoundaryAct :=
  [.close, .pass, .send, .join, .cycleFrame, .probes] ++ allExpiries.map BoundaryAct.expiry

/-- The send in the place of the close, and the close in the place of the send. -/
def BoundaryAct.exchanged : BoundaryAct → BoundaryAct
  | .close => .send
  | .send => .close
  | a => a

/-- No send stands between a dwell judgement and a close that follows it: the send and the close change places where one
would. A HUSH that the dwell judgement queues is so not yet sent when the rogue state clears at the same boundary (R180;
log 5). -/
def sendAfterClose (acts : List BoundaryAct) : List BoundaryAct :=
  if acts.idxOf (.expiry .dwell) < acts.idxOf .send ∧ acts.idxOf .send < acts.idxOf .close then
    acts.map BoundaryAct.exchanged
  else acts

/-- The free orders of one boundary: the order of expiries left over, the order of the reactions, which expiries are left
to a step of their own, the order of the close notices, and the order of entries whose grace is over (log 5, log 6). -/
structure BoundaryOrder where
  leftovers : Nat
  acts : Nat
  defer : Nat
  notices : Nat
  grace : Nat
  deriving DecidableEq, Repr

/-- The expiry is left to a step of its own (log 6). -/
def BoundaryOrder.leaves (o : BoundaryOrder) (e : Expiry) : Bool := o.defer / 2 ^ e.place % 2 == 1

/-- The reactions in the order taken (R59, R180; log 5). -/
def BoundaryOrder.sequence (o : BoundaryOrder) : List BoundaryAct := sendAfterClose (arrange o.acts boundaryActs)

/-- One reaction to the boundary. -/
def State.react (s : State) (t : TreeId) (o : BoundaryOrder) : BoundaryAct → State
  | .close => s.closeSlot t o.notices
  | .pass => s.passSlots t
  | .send => s.sendSlot t
  | .join => s.joinSlot t
  | .cycleFrame => s.makeFrame (.cycle t (s.tree t).n)
  | .probes => s.testProbes t
  | .expiry e => if o.leaves e then s.countFor t e else (s.countFor t e).takeExpiry t o.grace e

/-- N advances by one, and the pending tuning values come into force (R3, R40). -/
def State.advance (s : State) (t : TreeId) : State :=
  s.modTree t fun x => { x with n := x.n + 1 }.settleTuning

/-- The free orders of the coming boundary, and the state that has given them (log 4). -/
def State.boundaryOrder (s : State) : BoundaryOrder × State :=
  let (l, s) := s.takeChoices 5
  ({ leftovers := l.getD 0 0, acts := l.getD 1 0, defer := l.getD 2 0, notices := l.getD 3 0, grace := l.getD 4 0 }, s)

/-- A boundary under given orders: expiries left over, the advance of N, the count of the TIMED bars, then every reaction.
The bars count first, so a bar that a reaction sets or refreshes does not count the boundary that set it (R3, R32, R59;
log 5, log 6). -/
def State.boundaryUnder (s : State) (t : TreeId) (o : BoundaryOrder) : State :=
  let s := (arrange o.leftovers allExpiries).foldl (fun s e => s.takeExpiry t o.grace e) s
  o.sequence.foldl (fun s a => s.react t o a) ((s.advance t).countBars t)

/-- A boundary of a tree in service (R3). -/
def State.boundary (s : State) (t : TreeId) : State := s.boundaryOrder.2.boundaryUnder t s.boundaryOrder.1

/-- BOUNDARY: a cycle-start indication; on a DISABLED tree it is no boundary (R3). -/
def execBoundary (t : TreeId) (s : State) : Host.Outcome State Fault Refusal :=
  .next (if (s.tree t).inService then s.boundary t else s)

/-! ## The expiries as steps of their own (log 6) -/

/-- DISCOVERY_TIMER_EXPIRY: an expiry that has occurred is judged (R102). -/
def execDiscoveryTimerExpiry (t : TreeId) (s : State) : Host.Outcome State Fault Refusal :=
  .next (s.takeTimerExpiry t)

/-- COOLING_EXPIRY: the cooled records leave the Cool-down Queue (R55). -/
def execCoolingExpiry (t : TreeId) (s : State) : Host.Outcome State Fault Refusal := .next (s.takeCooled t)

/-- TIMED_BAR_EXPIRY: the tree's bars whose hold-off has reached 0 leave the Bar List (R32). -/
def execTimedBarExpiry (t : TreeId) (s : State) : Host.Outcome State Fault Refusal := .next (s.takeEndedBars t)

/-- GRACE_EXPIRY: the LOST entries whose grace is over depart, in a free order (R144; log 24). -/
def execGraceExpiry (t : TreeId) (s : State) : Host.Outcome State Fault Refusal :=
  .next (s.dropChoice.judgeGrace t s.nextChoice)

/-- DWELL_EXPIRY: the dwell of an OBSERVING sweep has expired (R179). -/
def execDwellExpiry (t : TreeId) (s : State) : Host.Outcome State Fault Refusal := .next (s.judgeDwell t)

/-- BUNDLE_BYTE_TAKEN: the framer takes the byte presented, if one is (R7). -/
def execBundleByteTaken (t : TreeId) (s : State) : Host.Outcome State Fault Refusal :=
  .next (s.modTree t fun x => { x with handover := x.handover.drop 1 })

end Sys2Proof.Machine
end

