-- ==== Sys2Proof/Machine/Mailbox.lean ====
section
/-! DEFINITION. The command mailbox: a command's words, the taking of a GO, and the clearing of BUSY (R185, R186). -/

namespace Sys2Proof.Machine

/-- What the judgement of a command gives: the state its effects leave, its status and result words, and whether the act of
a SOFT_RESET is still due (R185; log 10). -/
structure Judged where
  state : State
  status : Status
  results : Quad Word
  resetDue : Bool := false
  deriving DecidableEq, Repr

/-- Result words of which only the first is named (R185). -/
def firstWord (w : Word) : Quad Word := words w 0 0 0

/-- A command that changes nothing and gives no result (R185; log 20). -/
def refusedWith (s : State) (status : Status) : Judged := { state := s, status := status, results := Quad.zero }

/-- A command that was taken. -/
def doneWith (s : State) (results : Quad Word) : Judged := { state := s, status := .done, results := results }

/-- A GO taken while BUSY is clear: BUSY becomes set with a copy of the code and the arguments, and the command is judged
and its effects made (R185). -/
def State.runCommand (s : State) (judge : Quad Word → State → Judged) : State :=
  let j := judge s.args s
  { j.state with
    running := some
      { code := s.commandCode, args := s.args
        completion := { status := j.status, results := j.results, resetDue := j.resetDue } } }

/-- A GO of a command: taken while BUSY is clear, else ignored with COLLIDE set (R185, R186). -/
def State.goWith (s : State) (judge : Quad Word → State → Judged) : State :=
  if s.busy then s.setCollide else s.runCommand judge

/-- The host writes a command's code and its argument words into the mailbox; words the command does not name stay
(R184; log 3). -/
def State.writeMailbox (s : State) (code : Nat) (w0 w1 w2 w3 : Option Word) : State :=
  { s with
    commandCode := BitVec.ofNat 16 code
    args := words (w0.getD s.args.q0) (w1.getD s.args.q1) (w2.getD s.args.q2) (w3.getD s.args.q3) }

/-- The tree an argument names, with the command's judgement of that tree; a tree above 3 is BAD_ARG. -/
def forTree (w : Word) (s : State) (judge : TreeId → Judged) : Judged :=
  match treeOfWord w with
  | some t => judge t
  | none => refusedWith s .badArg

/-- The handle an argument names, with the command's judgement of it; a handle above 511 is BAD_ARG. -/
def forHandle (w : Word) (s : State) (judge : Nat → Judged) : Judged :=
  if w.toNat < Config.handles then judge w.toNat else refusedWith s .badArg

end Sys2Proof.Machine
end

