-- ==== Sys2Proof/Machine/HostEntry.lean ====
section
/-! DEFINITION. The host commands on handles, marks and the sweep: RESERVE, UNRESERVE, BAR, UNBAR, RELEASE, HUSH, UNHUSH,
FORCE_RANGE, SWEEP_START and SWEEP_ABORT (R29, R30, R52, R53, R138, R166, R170, R171, R177, R182). -/

namespace Sys2Proof.Machine

/-! ## Reservations (R52, R53) -/

/-- RESERVE (R52). -/
def judgeReserve (a : Quad Word) (s : State) : Judged :=
  let m := markOfWords a.q0 a.q1 a.q2
  let h := a.q3.toNat
  if invalidMark m ∨ Config.handles ≤ h then refusedWith s .badArg
  else
    match s.treeOf h with
    | none => refusedWith s .notInWindow
    | some t =>
      if h = (s.tree t).config.windowBase then refusedWith s .notInWindow
      else if !(s.tree t).freePool.contains h then refusedWith s .notFree
      else if (s.findMark m).isSome then refusedWith s .markKnown
      else
        doneWith ((s.modTree t fun x => { x with freePool := x.freePool.erase h }).enterEntry h m (Entry.toReserved m))
          Quad.zero

/-- UNRESERVE (R53). -/
def judgeUnreserve (a : Quad Word) (s : State) : Judged :=
  forHandle a.q0 s fun h =>
    match (s.entry h).state, s.treeOf h with
    | .reserved, some t =>
      doneWith ((s.freeEntry h).modTree t fun x => { x with freePool := h :: x.freePool }) Quad.zero
    | _, _ => refusedWith s .wrongEntryState

/-! ## Bars (R29, R30) -/

/-- BAR (R29). -/
def judgeBar (a : Quad Word) (s : State) : Judged :=
  let m := markOfWords a.q0 a.q1 a.q2
  if invalidMark m then refusedWith s .badArg
  else
    match s.findBar m with
    | some b =>
      match b.kind with
      | .permanent => doneWith s Quad.zero
      | .timed .. => doneWith { s with bars := replaceBar s.bars m .permanent } Quad.zero
    | none =>
      match joinBar s.bars { mark := m, kind := .permanent } with
      | some bars => doneWith { s with bars := bars } Quad.zero
      | none => refusedWith s .barFull

/-- UNBAR (R30). -/
def judgeUnbar (a : Quad Word) (s : State) : Judged :=
  let m := markOfWords a.q0 a.q1 a.q2
  if invalidMark m then refusedWith s .badArg
  else doneWith { s with bars := s.bars.filter fun b => b.mark != m } (firstWord (wordOf (yesNo (s.findBar m).isSome)))

/-! ## RELEASE, HUSH, UNHUSH and FORCE_RANGE (R138, R166, R170, R171) -/

/-- The entry was hushed by the sweep. -/
def Entry.isSweepOwned (e : Entry) : Bool := e.sweepOwned == some true

/-- The Rogue Monitor is told when a host command took a sweep-owned entry out of HUSHED (R166, R171, R181). -/
def State.tellMonitor (s : State) (t : TreeId) (h : Nat) (was : Entry) : State :=
  if was.isSweepOwned then s.sweepOverride t h else s

/-- RELEASE takes an entry of this state (R166). -/
def EntryState.releasable : EntryState → Bool
  | .candidate | .settling | .registered | .lost | .reranging | .hushed => true
  | .free | .reserved | .departing => false

/-- HUSH takes an entry of this state (R170). -/
def EntryState.hushable : EntryState → Bool
  | .candidate | .settling | .registered | .lost | .reranging => true
  | .free | .reserved | .hushed | .departing => false

/-- A command that names a handle whose entry must be in a state the command takes; the first result word holds the state
found (R138, R166, R170). -/
def onEntry (w : Word) (s : State) (takes : EntryState → Bool) (act : TreeId → Nat → State) : Judged :=
  forHandle w s fun h =>
    let found := firstWord (wordOf (s.entry h).state.code)
    match takes (s.entry h).state, s.treeOf h with
    | true, some t => doneWith (act t h) found
    | _, _ => { refusedWith s .wrongEntryState with results := found }

/-- RELEASE (R166). -/
def judgeRelease (a : Quad Word) (s : State) : Judged :=
  onEntry a.q0 s EntryState.releasable fun t h => (s.departEntry t h .host 3).tellMonitor t h (s.entry h)

/-- HUSH (R170). -/
def judgeHush (a : Quad Word) (s : State) : Judged :=
  onEntry a.q0 s EntryState.hushable fun t h => s.hushEntry t h false

/-- A HUSHED entry is unhushed, by the path its delay gives (R171). -/
def State.unhushEntry (s : State) (t : TreeId) (h : Nat) : State :=
  if (s.entry h).delay.isSome then s.unhushToRegistered t h else s.unhushToReranging t h

/-- The state UNHUSH takes a HUSHED entry to (R171). -/
def Entry.unhushedState (e : Entry) : EntryState := if e.delay.isSome then .registered else .reranging

/-- UNHUSH; the first result word holds the state entered (R171). -/
def judgeUnhush (a : Quad Word) (s : State) : Judged :=
  forHandle a.q0 s fun h =>
    match (s.entry h).state, s.treeOf h with
    | .hushed, some t =>
      doneWith ((s.unhushEntry t h).tellMonitor t h (s.entry h))
        (firstWord (wordOf (s.entry h).unhushedState.code))
    | _, _ => refusedWith s .wrongEntryState

/-- The state is REGISTERED or LOST (R23). -/
def EntryState.rostered : EntryState → Bool
  | .registered | .lost => true
  | .free | .reserved | .candidate | .settling | .reranging | .hushed | .departing => false

/-- FORCE_RANGE (R137, R138). -/
def judgeForceRange (a : Quad Word) (s : State) : Judged :=
  onEntry a.q0 s EntryState.rostered fun t h => s.rerange t h .forced rerangeForced

/-! ## The sweep (R177, R182) -/

/-- SWEEP_START (R177). The first result word holds the handle hushed; when the sweep ends EXHAUSTED at once R177 gives only
the clear flag of the second word, and the first is 0 here (DEDUCED, unsafe: log 35). -/
def judgeSweepStart (a : Quad Word) (s : State) : Judged :=
  let dwell := a.q1.toNat
  if dwell < 24 ∨ 255 < dwell then refusedWith s .badArg
  else
    forTree a.q0 s fun t =>
      let x := s.tree t
      if !x.inService then refusedWith s .wrongTreeState
      else if x.rogue.sweep.isSome then refusedWith s .sweepBusy
      else if !x.rogue.rogue then refusedWith s .notRogue
      else
        doneWith (s.sweepStep t x.config.windowBase dwell 0)
          (match s.nextSweepHandle t x.config.windowBase with
            | some h => words (wordOf h) 1 0 0
            | none => Quad.zero)

/-- SWEEP_ABORT (R182). -/
def judgeSweepAbort (a : Quad Word) (s : State) : Judged :=
  forTree a.q0 s fun t =>
    match (s.tree t).rogue.sweep with
    | some w => doneWith (s.sweepAbort t w) (firstWord 1)
    | none => doneWith s Quad.zero

/-! ## The commands -/

/-- RESERVE, command 16 (R52). -/
def execReserve (m : Mark) (handle : Word) (s : State) : Host.Outcome State Fault Refusal :=
  .next ((s.writeMailbox 16 (some (markUpper m)) (some (markMiddle m)) (some (markLower m)) (some handle)).goWith
    judgeReserve)

/-- UNRESERVE, command 17 (R53). -/
def execUnreserve (handle : Word) (s : State) : Host.Outcome State Fault Refusal :=
  .next ((s.writeMailbox 17 (some handle) none none none).goWith judgeUnreserve)

/-- BAR, command 18 (R29). -/
def execBar (m : Mark) (s : State) : Host.Outcome State Fault Refusal :=
  .next ((s.writeMailbox 18 (some (markUpper m)) (some (markMiddle m)) (some (markLower m)) none).goWith judgeBar)

/-- UNBAR, command 19 (R30). -/
def execUnbar (m : Mark) (s : State) : Host.Outcome State Fault Refusal :=
  .next ((s.writeMailbox 19 (some (markUpper m)) (some (markMiddle m)) (some (markLower m)) none).goWith judgeUnbar)

/-- RELEASE, command 20 (R166). -/
def execRelease (handle : Word) (s : State) : Host.Outcome State Fault Refusal :=
  .next ((s.writeMailbox 20 (some handle) none none none).goWith judgeRelease)

/-- HUSH, command 21 (R170). -/
def execHush (handle : Word) (s : State) : Host.Outcome State Fault Refusal :=
  .next ((s.writeMailbox 21 (some handle) none none none).goWith judgeHush)

/-- UNHUSH, command 22 (R171). -/
def execUnhush (handle : Word) (s : State) : Host.Outcome State Fault Refusal :=
  .next ((s.writeMailbox 22 (some handle) none none none).goWith judgeUnhush)

/-- FORCE_RANGE, command 23 (R138). -/
def execForceRange (handle : Word) (s : State) : Host.Outcome State Fault Refusal :=
  .next ((s.writeMailbox 23 (some handle) none none none).goWith judgeForceRange)

/-- SWEEP_START, command 40 (R177). -/
def execSweepStart (tree dwell : Word) (s : State) : Host.Outcome State Fault Refusal :=
  .next ((s.writeMailbox 40 (some tree) (some dwell) none none).goWith judgeSweepStart)

/-- SWEEP_ABORT, command 41 (R182). -/
def execSweepAbort (tree : Word) (s : State) : Host.Outcome State Fault Refusal :=
  .next ((s.writeMailbox 41 (some tree) none none none).goWith judgeSweepAbort)

end Sys2Proof.Machine
end

