-- ==== Sys2Proof/Machine/HostRead.lean ====
section
/-! DEFINITION. The reading commands: READ_ENTRY, FIND_MARK, READ_SLOT and READ_COUNTERS (R34, R35, R84, R187, R188). -/

namespace Sys2Proof.Machine

/-! ## READ_ENTRY (R34, R187) -/

/-- The number of a tree, 4 for none (R187). -/
def treeNumber (t : Option TreeId) : Nat :=
  match t with
  | some t => t.val
  | none => 4

/-- The code of an owed message kind (R187). -/
def OwedKind.code : OwedKind → Nat
  | .release => 0
  | .hush => 1
  | .unhush => 2

/-- The code of trim outstanding (R187). -/
def trimCode : Option TrimState → Nat
  | none => 0
  | some .none => 1
  | some .queued => 2
  | some (.effective _) => 3

/-- The word of a cycle that may be absent (R187). -/
def cycleWord (c : Option Cycle) : Word := c.getD 0

/-- The word of a number that may be absent (R187). -/
def numberWord (n : Option Nat) : Word := wordOf (n.getD 0)

/-- The word of a signed number that may be absent (R187). -/
def signedWord (n : Option Int) : Word := BitVec.ofInt 16 (n.getD 0)

/-- A yes/no field that may be absent. -/
def flagField (b : Option Bool) : Nat := yesNo (b.getD false)

/-- Page 0 of READ_ENTRY; the entry's tree is none for FREE (R34, R187). -/
def Entry.page0 (e : Entry) (t : Option TreeId) : Quad Word :=
  let tree := if e.state = .free then none else t
  let m := e.mark.getD 0
  words
    (packWord [fieldAt e.state.code 4 12, fieldAt (treeNumber tree) 3 9, fieldAt (flagField e.reservedByHost) 1 8,
      fieldAt (e.termClass.getD 0) 3 5,
      presenceFlags [e.reservedByHost.isSome, e.termClass.isSome, e.mark.isSome]])
    (markUpper m) (markMiddle m) (markLower m)

/-- Page 1 of READ_ENTRY (R34, R187). -/
def Entry.page1 (e : Entry) : Quad Word :=
  words (numberWord e.delay)
    (packWord [fieldAt (e.generation.getD 0) 3 13, fieldAt (e.missCount.getD 0) 4 9,
      fieldAt (flagField e.probeInFlight) 1 8, fieldAt (trimCode e.trim) 2 6,
      presenceFlags [e.delay.isSome, e.generation.isSome, e.missCount.isSome, e.probeInFlight.isSome,
        e.driftPending.isSome]])
    (match e.trim with
      | some (.effective c) => c
      | _ => 0)
    (signedWord e.driftPending)

/-- Page 2 of READ_ENTRY (R34, R187). -/
def Entry.page2 (e : Entry) : Quad Word :=
  words (signedWord e.lastSample)
    (packWord [fieldAt (e.measureAttempts.getD 0) 3 13, fieldAt ((e.origin.map RangingOrigin.code).getD 0) 2 11,
      fieldAt (e.settleAttempts.getD 0) 2 9,
      presenceFlags [e.lastSample.isSome, e.measureAttempts.isSome, e.origin.isSome, e.measureCycle.isSome,
        e.settleSample.isSome, e.settleAttempts.isSome, e.settleEchoCycle.isSome]])
    (if e.state = .settling then numberWord e.settleSample else cycleWord e.measureCycle)
    (cycleWord e.settleEchoCycle)

/-- Page 3 of READ_ENTRY (R34, R187). -/
def Entry.page3 (e : Entry) : Quad Word :=
  words (cycleWord e.lastObserved) (cycleWord e.lostSince) (numberWord e.graceCount)
    (packWord [fieldAt ((e.owed.map fun o => o.kind.code).getD 0) 2 14, fieldAt ((e.owed.map Owed.sends).getD 0) 2 12,
      fieldAt ((e.reason.map DepartureReason.code).getD 0) 2 10, fieldAt (flagField e.sweepOwned) 1 9,
      fieldAt (flagField e.leavingSeen) 1 8,
      presenceFlags [e.lastObserved.isSome, e.lostSince.isSome, e.graceCount.isSome, e.owed.isSome, e.reason.isSome,
        e.sweepOwned.isSome, e.leavingSeen.isSome]])

/-- READ_ENTRY (R34, R187). -/
def judgeReadEntry (a : Quad Word) (s : State) : Judged :=
  forHandle a.q0 s fun h =>
    let e := s.entry h
    match a.q1.toNat with
    | 0 => doneWith s (e.page0 (s.treeOf h))
    | 1 => doneWith s e.page1
    | 2 => doneWith s e.page2
    | 3 => doneWith s e.page3
    | _ => refusedWith s .badArg

/-! ## FIND_MARK (R35, R187) -/

/-- The two words of the Mark Index answer (R187). -/
def State.indexAnswer (s : State) (m : Mark) : Word × Word :=
  match s.findMark m with
  | some h =>
    (packWord [fieldAt 1 1 15, fieldAt (s.entry h).state.code 4 11, fieldAt (treeNumber (s.treeOf h)) 2 9], wordOf h)
  | none => (0, 0)

/-- The two words of the Bar List answer (R187). -/
def State.barAnswer (s : State) (m : Mark) : Word × Word :=
  match (s.findBar m).map BarRecord.kind with
  | none => (0, 0)
  | some .permanent => (packWord [fieldAt 1 2 14], 0)
  | some (.timed setter holdOff _) => (packWord [fieldAt 2 2 14, fieldAt setter.val 2 12], wordOf holdOff)

/-- FIND_MARK (R35). -/
def judgeFindMark (a : Quad Word) (s : State) : Judged :=
  let m := markOfWords a.q0 a.q1 a.q2
  if invalidMark m then refusedWith s .badArg
  else
    doneWith s (words (s.indexAnswer m).1 (s.indexAnswer m).2 (s.barAnswer m).1 (s.barAnswer m).2)

/-! ## READ_SLOT (R84, R187) -/

/-- The code of a slot state (R187). -/
def SlotState.code : SlotState → Nat
  | .opened => 0
  | .claimed => 1
  | .planned => 2
  | .filled => 3
  | .sent => 4
  | .arriving => 5
  | .closing => 6

/-- The code of a reservation kind (R187). -/
def ReservationKind.code : ReservationKind → Nat
  | .grant => 1
  | .quietCall => 2
  | .quietMeasure => 3
  | .echo => 4

/-- The kind's own items of a reservation, word 2 of page 1 (R84, R187). -/
def Reservation.ownItems (r : Reservation) : Word :=
  if r.takesOutcome then
    packWord [fieldAt (yesNo (r.purpose == some .settle)) 1 15, fieldAt (yesNo r.outcome.isSome) 1 14,
      fieldAt ((r.outcome.map fun b => b.result.code).getD 0) 3 0]
  else
    packWord [fieldAt ((r.head.map MarkHead.bits).getD 0) 5 11, fieldAt r.bursts.length 5 6,
      fieldAt (yesNo r.ended) 1 5]

/-- READ_SLOT of an index from 0 to 68 (R84, R187). -/
def Slot.indexWords (k : Slot) (i page : Nat) : Quad Word :=
  match k.reservations[i]? with
  | none => words k.cycle (packWord [fieldAt k.state.code 3 13]) 0 0
  | some r =>
    if page = 0 then
      words k.cycle
        (packWord [fieldAt k.state.code 3 13, fieldAt 1 1 12, fieldAt r.kind.code 3 9, fieldAt (r.handle.getD 0) 9 0])
        (wordOf r.start) (wordOf r.length)
    else
      words k.cycle (packWord [fieldAt k.state.code 3 13, fieldAt 1 1 12, fieldAt r.kind.code 3 9]) r.ownItems 0

/-- READ_SLOT of index 69: the slot summary (R84, R187). -/
def Slot.summaryWords (k : Slot) (w : Calendar) : Quad Word :=
  words k.cycle (packWord [fieldAt k.state.code 3 13, fieldAt k.reservations.length 7 0])
    (packWord [fieldAt (yesNo k.stray) 1 15, fieldAt w.claims.length 10 0]) (wordOf w.settleDue.length)

/-- READ_SLOT of a tree in service (R84; log 26). -/
def Calendar.slotWords (w : Calendar) (offset i page : Nat) : Quad Word :=
  match w.ring[offset]? with
  | none => Quad.zero
  | some k => if i = 69 then k.summaryWords w else k.indexWords i page

/-- READ_SLOT (R84). -/
def judgeReadSlot (a : Quad Word) (s : State) : Judged :=
  if 15 < a.q1.toNat ∨ 69 < a.q2.toNat ∨ 1 < a.q3.toNat then refusedWith s .badArg
  else
    forTree a.q0 s fun t =>
      if (s.tree t).inService then
        doneWith s ((s.tree t).calendar.slotWords a.q1.toNat a.q2.toNat a.q3.toNat)
      else refusedWith s .wrongTreeState

/-! ## READ_COUNTERS (R188) -/

/-- The per-tree counter of a number (R188). -/
def TreeCounter.ofNumber : Nat → Option TreeCounter
  | 0 => some .helloOk
  | 1 => some .helloDiscarded
  | 2 => some .collisionWindows
  | 3 => some .measureFails
  | 4 => some .registrations
  | 5 => some .releases
  | 6 => some .trimsSent
  | 7 => some .trimsDropped
  | 8 => some .grantsStruck
  | 9 => some .plansLate
  | 10 => some .plansMissing
  | 11 => some .strayCycles
  | 12 => some .expiriesIgnored
  | 13 => some .enrollBusy
  | _ => none

/-- The result words of a 32-bit count, the upper half first (R188). -/
def countWords (v : Count) : Quad Word := words (v.extractLsb' 16 16) (v.extractLsb' 0 16) 0 0

/-- READ_COUNTERS of a tree: a counter, cleared when asked, or one of the two handle counts (R188). -/
def readTreeCounter (t : TreeId) (number : Nat) (clear : Bool) (s : State) : Judged :=
  let x := s.tree t
  match TreeCounter.ofNumber number with
  | some k =>
    doneWith (if clear then s.modTree t fun x => { x with counters := x.counters.put k 0 } else s)
      (countWords (x.counters.get k))
  | none =>
    if number = 14 then doneWith s (countWords (BitVec.ofNat 32 x.freePool.length))
    else if number = 15 then doneWith s (countWords (BitVec.ofNat 32 x.coolDown.length))
    else refusedWith s .badArg

/-- READ_COUNTERS of the part-wide counters (R188). -/
def readPartCounter (number : Nat) (clear : Bool) (s : State) : Judged :=
  match number with
  | 0 => doneWith (if clear then { s with linkCheckErrors := 0 } else s) (countWords s.linkCheckErrors)
  | 1 => doneWith (if clear then { s with reportErrors := 0 } else s) (countWords s.reportErrors)
  | 2 => doneWith (if clear then { s with framesDropped := 0 } else s) (countWords s.framesDropped)
  | _ => refusedWith s .badArg

/-- READ_COUNTERS (R188). -/
def judgeReadCounters (a : Quad Word) (s : State) : Judged :=
  if 1 < a.q2.toNat then refusedWith s .badArg
  else if a.q0.toNat = 4 then readPartCounter a.q1.toNat (a.q2 == 1) s
  else forTree a.q0 s fun t => readTreeCounter t a.q1.toNat (a.q2 == 1) s

/-! ## The commands -/

/-- READ_ENTRY, command 24 (R34). -/
def execReadEntry (handle page : Word) (s : State) : Host.Outcome State Fault Refusal :=
  .next ((s.writeMailbox 24 (some handle) (some page) none none).goWith judgeReadEntry)

/-- FIND_MARK, command 25 (R35). -/
def execFindMark (m : Mark) (s : State) : Host.Outcome State Fault Refusal :=
  .next ((s.writeMailbox 25 (some (markUpper m)) (some (markMiddle m)) (some (markLower m)) none).goWith judgeFindMark)

/-- READ_SLOT, command 32 (R84). -/
def execReadSlot (tree offset index page : Word) (s : State) : Host.Outcome State Fault Refusal :=
  .next ((s.writeMailbox 32 (some tree) (some offset) (some index) (some page)).goWith judgeReadSlot)

/-- READ_COUNTERS, command 33 (R188). -/
def execReadCounters (tree number clear : Word) (s : State) : Host.Outcome State Fault Refusal :=
  .next ((s.writeMailbox 33 (some tree) (some number) (some clear) none).goWith judgeReadCounters)

end Sys2Proof.Machine
end

