-- ==== Sys2Proof/Machine/Link.lean ====
section
/-! DEFINITION. The Scheduler Link Port: the link state, plans and their verdicts, the transmitter and the roster dump
(spec 05). -/

namespace Sys2Proof.Machine

/-! ## Link state (R85, R86) -/

/-- A valid frame was taken: it makes a SILENT link UP, and starts the silence timer (R85). -/
def State.linkTraffic (s : State) : State :=
  let s := if s.linkUp then s else ({ s with linkUp := true }.setLinkChg).writeEvent .linkUp 0 0 []
  { s with silenceTimer := some Config.silenceMicros }

/-- SILENCE_TIMER_EXPIRY: the running timer expires and the link becomes SILENT (R85; log 8). -/
def execSilenceTimerExpiry (s : State) : Host.Outcome State Fault Refusal :=
  .next (
    if s.silenceTimer.isSome then
      ({ s with linkUp := false, silenceTimer := none }.setLinkChg).writeEvent .linkSilent 0 0 []
    else s)

/-- IDLE: a valid IDLE frame has no effect beyond the link state (R85, R86). -/
def execIdle (s : State) : Host.Outcome State Fault Refusal := .next s.linkTraffic

/-- A SYNC starts a dump, or restarts the one running; a dump in mode ALL stays one (R98). -/
def State.startDump (s : State) : State :=
  let mode := match s.dump with
    | some d => d.mode
    | none => .rostered
  { s with dump := some { cursor := 0, mode := mode } }

/-- SYNC (R85, R98). -/
def execSync (s : State) : Host.Outcome State Fault Refusal := .next s.linkTraffic.startDump

/-! ## Plans (R90 to R93) -/

/-- The plan-level judgement: the tree the plan is for, or the reason that refuses it (R90). -/
def State.judgePlan (s : State) (tree : Byte) (cycle : Word) (count : Nat) : TreeId ⊕ PlanReason :=
  match treeOfWord (tree.setWidth 16) with
  | none => .inr .tree
  | some t =>
    let x := s.tree t
    let d := Cycle.distance x.n cycle
    if !x.inService then .inr .tree
    else if d < Config.horizonFirst ∨ Config.horizonLast < d then .inr .horizon
    else if Config.maxGrants < count then .inr .count
    else .inl t

/-- A plan refused for its cycle is late when the cycle was already sent, or is ARRIVING or CLOSING (R90). -/
def State.planLate (s : State) (t : TreeId) (cycle : Cycle) : Bool :=
  let d := Cycle.distance (s.tree t).n cycle
  d == 65535 || decide (d ≤ Config.sendLead)

/-- A late plan is counted and PLAN_LATE is written (R90). -/
def State.notePlanLate (s : State) (tree : Byte) (cycle : Cycle) (reason : PlanReason) : State :=
  match reason, treeOfWord (tree.setWidth 16) with
  | .horizon, some t =>
    if s.planLate t cycle then (s.count t .plansLate).writeEvent .planLate t 0 [oneField cycle.toNat] else s
  | _, _ => s

/-- The judgement of one grant: the reason that strikes it, if any; `accepted` holds the grants accepted before it
(R91). -/
def State.judgeGrant (s : State) (t : TreeId) (slot : Slot) (accepted : List Reservation) (g : PlanGrant) :
    Option StrikeReason :=
  let x := s.tree t
  let h := g.handle.toNat
  let start := g.start.toNat
  let length := g.length.toNat
  if length < Config.minGrant ∨ !withinCycle start length then some .bounds
  else if !x.inWindow h ∨ h = x.config.windowBase then some .window
  else if !(s.entry h).inRoster then some .roster
  else if !x.config.liesIn SegmentUse.admitsGrant start length then some .segment
  else if !clearOf start length (slot.reservations.filter Reservation.isQuiet) then some .quiet
  else if !clearOf start length accepted then some .overlap
  else none

/-- The grants of a plan judged in plan order: the accepted ones, and the struck ones with their indices (R91). -/
def State.judgeGrants (s : State) (t : TreeId) (slot : Slot) :
    Nat → List Reservation → List PlanGrant → List Reservation × List (Nat × StrikeReason)
  | _, accepted, [] => (accepted, [])
  | i, accepted, g :: rest =>
    match s.judgeGrant t slot accepted g with
    | some reason =>
      let (a, struck) := s.judgeGrants t slot (i + 1) accepted rest
      (a, (i, reason) :: struck)
    | none =>
      s.judgeGrants t slot (i + 1)
        (accepted ++ [Reservation.grantFor g.handle.toNat g.start.toNat g.length.toNat]) rest

/-- A plan that passed the plan level is taken into its slot and answered (R63, R64, R67, R91 to R93). -/
def State.acceptPlan (s : State) (t : TreeId) (slot : Slot) (grants : List PlanGrant) : State :=
  let (accepted, struck) := s.judgeGrants t slot 0 [] grants
  let s := s.countBy t .grantsStruck struck.length
  let s := s.modSlot t slot.cycle fun k => k.takePlan accepted
  let s := s.makeFrame (.verdict (BitVec.ofNat 8 t.val) slot.cycle none struck)
  if slot.state = .planned ∨ slot.state = .filled then s.arbitrate t else s

/-- A plan is judged and answered by one VERDICT (R90, R92). -/
def State.takePlan (s : State) (tree : Byte) (cycle : Word) (grants : List PlanGrant) : State :=
  match s.judgePlan tree cycle grants.length with
  | .inr reason => (s.notePlanLate tree cycle reason).makeFrame (.verdict tree cycle (some reason) [])
  | .inl t =>
    match (s.tree t).calendar.slot? cycle with
    | some slot => s.acceptPlan t slot grants
    | none => s

/-- PLAN: a valid PLAN frame (R85, R90). -/
def execPlan (tree : Byte) (cycle : Word) (grants : List PlanGrant) (s : State) : Host.Outcome State Fault Refusal :=
  .next (s.linkTraffic.takePlan tree cycle grants)

/-- INVALID_FRAME: received bytes are tested; a frame that fails a test is discarded and counted, one that passes is acted
on as its kind requires (R86; log 27). -/
def execInvalidFrame (bytes : List Byte) (s : State) : Host.Outcome State Fault Refusal :=
  match decodeFrame bytes with
  | none => .next { s with linkCheckErrors := s.linkCheckErrors + 1 }
  | some (.plan tree cycle grants) => .next (s.linkTraffic.takePlan tree cycle grants)
  | some .sync => .next s.linkTraffic.startDump
  | some .idle => .next s.linkTraffic

/-! ## The transmitter (R87; log 8, log 9) -/

/-- TRANSMITTER_HOLD_END: the hold after a reset is over (R87). -/
def execTransmitterHoldEnd (s : State) : Host.Outcome State Fault Refusal := .next { s with transmitterHold := none }

/-- FRAME_TRANSMIT: the transmitter, ready for a frame, takes the one at the head of the outgoing queue, unless it
holds (R87; log 9). -/
def execFrameTransmit (s : State) : Host.Outcome State Fault Refusal :=
  .next (
    match s.transmitterHold, s.outQueue with
    | none, f :: rest => { s with outQueue := rest, sending := some f }
    | none, [] => { s with sending := none }
    | some _, _ => s)

/-! ## The roster dump (R98) -/

/-- The handle is one the dump's mode selects (R98). -/
def State.dumpSelects (s : State) (mode : DumpMode) (h : Nat) : Bool :=
  match mode with
  | .rostered => (s.entry h).inRoster
  | .all =>
    match s.treeOf h with
    | some t => h != (s.tree t).config.windowBase
    | none => false

/-- The ROSTER frame a dump makes for a handle (R98). -/
def State.dumpFrame (s : State) (h : Nat) : LinkFrame :=
  let e := s.entry h
  let state := match e.state with
    | .registered => .registered
    | .lost => .lost
    | _ => .removed
  .roster ((s.treeOf h).getD 0) h state (e.termClass.getD 0)

/-- The lowest handle at or above the cursor that the mode selects (R98). -/
def State.dumpNext (s : State) (d : RosterDump) : Option Nat :=
  (List.range Config.handles).find? fun h => decide (d.cursor ≤ h) && s.dumpSelects d.mode h

/-- A dump step: the next ROSTER frame goes to the transmitter, or SYNC_END and the dump ends (R98). -/
def State.dumpStep (s : State) (d : RosterDump) : State :=
  match s.dumpNext d with
  | some h => { s with sending := some (s.dumpFrame h), dump := some { d with cursor := h + 1 } }
  | none => { s with sending := some .syncEnd, dump := none }

/-- ROSTER_DUMP_STEP: a step is taken when the transmitter, not holding, is ready while the outgoing queue is empty and a
dump runs (R98; log 9). -/
def execRosterDumpStep (s : State) : Host.Outcome State Fault Refusal :=
  .next (
    match s.transmitterHold, s.outQueue, s.dump with
    | none, [], some d => s.dumpStep d
    | _, _, _ => s)

end Sys2Proof.Machine
end

