-- ==== Sys2Proof/Machine/TreeControl.lean ====
section
/-! DEFINITION. Tree Control: the structural configuration and the tuning, the tree states, the Part Lock and the resets
(spec 03, R193, R194). -/

namespace Sys2Proof.Machine

/-! ## TREE_CONFIG and TREE_TUNE (R39, R41) -/

/-- The result words of TREE_CONFIG: the item as it stands after the command (R39). -/
def itemWords (c : TreeConfig) (item : ConfigItem) : Quad Word := words (c.read item).1 (c.read item).2 0 0

/-- TREE_CONFIG on a named tree and item (R39, R47). -/
def judgeTreeItem (t : TreeId) (item : ConfigItem) (v0 v1 : Word) (s : State) : Judged :=
  let c := (s.tree t).config
  if s.partLock then { refusedWith s .locked with results := itemWords c item }
  else if (s.tree t).inService then { refusedWith s .wrongTreeState with results := itemWords c item }
  else
    match c.write item v0 v1 with
    | none => { refusedWith s .badArg with results := itemWords c item }
    | some d => doneWith (s.modTree t fun x => { x with config := d }) (itemWords d item)

/-- TREE_CONFIG (R39). -/
def judgeTreeConfig (a : Quad Word) (s : State) : Judged :=
  match treeOfWord a.q0, ConfigItem.ofWord a.q1 with
  | some t, some item => judgeTreeItem t item a.q2 a.q3 s
  | _, _ => refusedWith s .badArg

/-- The tree with a tuning parameter set: at once while DISABLED, else as the pending value (R41). -/
def Tree.tune (x : Tree) (p : TuneParam) (v : Nat) : Tree :=
  if x.inService then { x with pending := x.pending.put p (some v) }
  else { x with tuning := x.tuning.put p v, pending := x.pending.put p none }

/-- The result words of TREE_TUNE; the second is 0 when the pending value is absent, where R41 gives only the clear flag:
DEDUCED (log 34), unsafe (R41). -/
def Tree.tuneWords (x : Tree) (p : TuneParam) : Quad Word :=
  words (wordOf (x.tuning.get p)) (wordOf ((x.pending.get p).getD 0)) (wordOf (yesNo (x.pending.get p).isSome)) 0

/-- TREE_TUNE (R41). -/
def judgeTreeTune (a : Quad Word) (s : State) : Judged :=
  match treeOfWord a.q0, TuneParam.ofWord a.q1 with
  | some t, some p =>
    if p.inRange a.q2.toNat then
      doneWith (s.modTree t fun x => x.tune p a.q2.toNat) (((s.tree t).tune p a.q2.toNat).tuneWords p)
    else refusedWith s .badArg
  | _, _ => refusedWith s .badArg

/-! ## ENABLE (R43, R44, R58) -/

/-- ENABLE check 1 (R43). -/
def TreeConfig.reachOk (c : TreeConfig) : Bool :=
  decide (1 ≤ c.teq.toNat ∧ c.minRtt.toNat < c.maxRtt.toNat ∧ c.maxRtt.toNat ≤ c.teq.toNat)

/-- Two windows share a handle (R43). -/
def TreeConfig.overlaps (c d : TreeConfig) : Bool :=
  decide (c.windowBase < d.windowBase + d.windowLength ∧ d.windowBase < c.windowBase + c.windowLength)

/-- ENABLE check 2: the lowest-numbered other tree in service whose window overlaps (R43). -/
def State.overlapping (s : State) (t : TreeId) : Option TreeId :=
  allTrees.find? fun u => u != t && (s.tree u).inService && (s.tree t).config.overlaps (s.tree u).config

/-- ENABLE check 3 (R43). -/
def TreeConfig.hasPart (c : TreeConfig) : Bool :=
  (List.range Config.segmentsPerCycle).any fun k => c.segment k == .part

/-- ENABLE check 4 (R43). -/
def TreeConfig.spanOk (c : TreeConfig) : Bool := decide (c.callSpan ≤ Config.grainsPerSegment * c.longestRun)

/-- The state of ring cycle c, from 65,535 to 14, when ENABLE succeeds (R58). -/
def slotAtEnable (c : Cycle) : Slot :=
  { Slot.mk c .opened [] false with
    state :=
      if c = 0xFFFF#16 then .closing else if c = 0#16 then .arriving
      else if c.toNat ≤ Config.sendLead then .sent else .opened }

/-- The ring when ENABLE succeeds: cycle 65,535, then 0 to 14 (R58). -/
def ringAtEnable : List Slot :=
  (List.range Config.ringSlots).map fun k => slotAtEnable (BitVec.ofNat 16 (65535 + k))

/-- The tree when ENABLE succeeds (R44, R50, R58, R61, R120, R158, R172, R183). -/
def Tree.enable (x : Tree) : Tree :=
  { x with
    state := .active, n := 0, freePool := x.usableHandles, coolDown := [], counters := TreeCounters.zero,
    handover := [],
    calendar := { ring := ringAtEnable, quietPosition := some x.config.quietStart, claims := [], settleDue := [] },
    discovery := Discovery.clear, upkeep := Upkeep.clear, control := ControlQueue.empty, rogue := RogueMonitor.clear }

/-- ENABLE of a DISABLED tree: the four checks in order, then service (R43, R44). -/
def judgeEnableOf (t : TreeId) (s : State) : Judged :=
  let c := (s.tree t).config
  if !c.reachOk then { refusedWith s .config with results := firstWord 1 }
  else
    match s.overlapping t with
    | some u => { refusedWith s .overlap with results := words 2 (wordOf u.val) 0 0 }
    | none =>
      if !c.hasPart then { refusedWith s .noPart with results := firstWord 3 }
      else if !c.spanOk then { refusedWith s .span with results := firstWord 4 }
      else doneWith (s.modTree t Tree.enable) Quad.zero

/-- ENABLE (R43). -/
def judgeEnable (a : Quad Word) (s : State) : Judged :=
  forTree a.q0 s fun t => if (s.tree t).inService then refusedWith s .wrongTreeState else judgeEnableOf t s

/-! ## HOLD, RESUME and DISABLE (R45, R46) -/

/-- HOLD (R45, R70, R109). -/
def judgeHold (a : Quad Word) (s : State) : Judged :=
  forTree a.q0 s fun t =>
    if (s.tree t).state = .active then
      doneWith ((s.modTree t fun x => { x with state := .held }).pauseCall t) Quad.zero
    else refusedWith s .wrongTreeState

/-- RESUME (R45, R110). -/
def judgeResume (a : Quad Word) (s : State) : Judged :=
  forTree a.q0 s fun t =>
    if (s.tree t).state = .held then
      doneWith ((s.modTree t fun x => { x with state := .active }).tryCall t) Quad.zero
    else refusedWith s .wrongTreeState

/-- The tree after DISABLE: configuration, N, counters, indications and enables stay, pending tuning comes into force, all
else ends (R46, R56, R120, R158, R172, R183). -/
def Tree.disable (x : Tree) : Tree :=
  { x.settleTuning with
    state := .disabled, freePool := [], coolDown := [], handover := [], calendar := Calendar.empty,
    discovery := Discovery.clear, upkeep := Upkeep.clear, control := ControlQueue.empty, rogue := RogueMonitor.clear }

/-- The record is a TIMED bar set by tree t (R33). -/
def BarRecord.setBy (b : BarRecord) (t : TreeId) : Bool :=
  match b.kind with
  | .permanent => false
  | .timed setter _ _ => setter == t

/-- The cycles of the unsent slots that hold a quiet window, in ring order (R46). -/
def Calendar.windowCycles (w : Calendar) : List Cycle :=
  (w.ring.filter fun k => k.state.unsent && k.reservations.any Reservation.isQuiet).map Slot.cycle

/-- The teardown of a tree (R33, R37, R46, R97). -/
def State.disableTree (s : State) (t : TreeId) : State :=
  let x := s.tree t
  let cancelled := x.calendar.windowCycles
  let s := s.modTree t Tree.disable
  let s :=
    { s with
      entries := s.entries.filter fun e => !x.inWindow e.1
      markIndex := s.markIndex.filter fun m => !x.inWindow m.2
      bars := s.bars.filter fun b => !b.setBy t }
  (cancelled.foldl (fun s c => s.makeFrame (.quietCancel t c)) s).makeFrame (.rosterClear t)

/-- DISABLE (R46). -/
def judgeDisable (a : Quad Word) (s : State) : Judged :=
  forTree a.q0 s fun t =>
    if (s.tree t).inService then doneWith (s.disableTree t) Quad.zero else refusedWith s .wrongTreeState

/-! ## LOCK and the resets (R47, R193, R194) -/

/-- LOCK (R47). -/
def judgeLock (_ : Quad Word) (s : State) : Judged := doneWith { s with partLock := true } Quad.zero

/-- A tree after SOFT_RESET: configuration and tuning stay, pending values in force (R56, R193). -/
def Tree.softReset (x : Tree) : Tree := { Tree.reset 0 with config := x.config, tuning := x.settleTuning.tuning }

/-- The act of a SOFT_RESET: the state of a hardware reset, but for what R193 keeps; status and result words stay until
BUSY clears (R36, R56, R100, R193, R194; log 11). -/
def State.softReset (s : State) : State :=
  { State.reset with
    trees := s.trees.mapIdx fun _ x => x.softReset
    partLock := s.partLock
    bars := s.bars.filter fun b => b.kind == .permanent
    commandCode := s.commandCode, args := s.args, running := s.running, status := s.status, results := s.results,
    readData := s.readData, choices := s.choices, freeCount := s.freeCount, pending := s.pending }

/-- SOFT_RESET: its act is made at GO, or is left to the clearing of BUSY; a free order says which (R193; log 10). -/
def judgeSoftReset (_ : Quad Word) (s : State) : Judged :=
  if s.nextChoice % 2 = 0 then doneWith s.dropChoice.softReset Quad.zero
  else { doneWith s.dropChoice Quad.zero with resetDue := true }

/-- The part after a hardware reset; the model's own free orders and the commands waiting stay (R194; log 1, log 4). -/
def State.hardwareReset (s : State) : State :=
  { State.reset with choices := s.choices, freeCount := s.freeCount, pending := s.pending }

/-! ## The commands -/

/-- TREE_CONFIG, command 1 (R39). -/
def execTreeConfig (tree item v0 v1 : Word) (s : State) : Host.Outcome State Fault Refusal :=
  .next ((s.writeMailbox 1 (some tree) (some item) (some v0) (some v1)).goWith judgeTreeConfig)

/-- TREE_TUNE, command 2 (R41). -/
def execTreeTune (tree param value : Word) (s : State) : Host.Outcome State Fault Refusal :=
  .next ((s.writeMailbox 2 (some tree) (some param) (some value) none).goWith judgeTreeTune)

/-- ENABLE, command 3 (R43). -/
def execEnable (tree : Word) (s : State) : Host.Outcome State Fault Refusal :=
  .next ((s.writeMailbox 3 (some tree) none none none).goWith judgeEnable)

/-- HOLD, command 4 (R45). -/
def execHold (tree : Word) (s : State) : Host.Outcome State Fault Refusal :=
  .next ((s.writeMailbox 4 (some tree) none none none).goWith judgeHold)

/-- RESUME, command 5 (R45). -/
def execResume (tree : Word) (s : State) : Host.Outcome State Fault Refusal :=
  .next ((s.writeMailbox 5 (some tree) none none none).goWith judgeResume)

/-- DISABLE, command 6 (R46). -/
def execDisable (tree : Word) (s : State) : Host.Outcome State Fault Refusal :=
  .next ((s.writeMailbox 6 (some tree) none none none).goWith judgeDisable)

/-- LOCK, command 48 (R47). -/
def execLock (s : State) : Host.Outcome State Fault Refusal :=
  .next ((s.writeMailbox 48 none none none none).goWith judgeLock)

/-- SOFT_RESET, command 49 (R193). -/
def execSoftReset (s : State) : Host.Outcome State Fault Refusal :=
  .next ((s.writeMailbox 49 none none none none).goWith judgeSoftReset)

/-- HARDWARE_RESET (R194). -/
def execHardwareReset (s : State) : Host.Outcome State Fault Refusal := .next s.hardwareReset

end Sys2Proof.Machine
end

