-- ==== Sys2Proof/Machine/Port.lean ====
section
/-! DEFINITION. The register window: reads, writes, GO by its code, the indications and enables, the Event Queue read port and
the clearing of BUSY (spec 11). -/

namespace Sys2Proof.Machine

/-! ## Commands by their code (R185) -/

/-- A code that names no command (R185). -/
def judgeBadCode (_ : Quad Word) (s : State) : Judged := refusedWith s .badCode

/-- The judgement of the command a code names (R185, spec 11 section 11.3). -/
def judgeOf (code : Word) : Quad Word → State → Judged :=
  match code.toNat with
  | 1 => judgeTreeConfig
  | 2 => judgeTreeTune
  | 3 => judgeEnable
  | 4 => judgeHold
  | 5 => judgeResume
  | 6 => judgeDisable
  | 16 => judgeReserve
  | 17 => judgeUnreserve
  | 18 => judgeBar
  | 19 => judgeUnbar
  | 20 => judgeRelease
  | 21 => judgeHush
  | 22 => judgeUnhush
  | 23 => judgeForceRange
  | 24 => judgeReadEntry
  | 25 => judgeFindMark
  | 32 => judgeReadSlot
  | 33 => judgeReadCounters
  | 40 => judgeSweepStart
  | 41 => judgeSweepAbort
  | 48 => judgeLock
  | 49 => judgeSoftReset
  | _ => judgeBadCode

/-- A GO: the command the code register names is run, or the GO collides (R185, R186). -/
def State.go (s : State) : State := s.goWith (judgeOf s.commandCode)

/-- BAD_CODE: a GO of a code with its argument words; a code that names a command runs it (R185; log 27). -/
def execBadCode (code a0 a1 a2 a3 : Word) (s : State) : Host.Outcome State Fault Refusal :=
  .next (State.go { s with commandCode := code, args := words a0 a1 a2 a3 })

/-- GO_WHILE_BUSY: a GO while BUSY is set is ignored and sets COLLIDE; with BUSY clear it is taken (R185, R186). -/
def execGoWhileBusy (s : State) : Host.Outcome State Fault Refusal := .next s.go

/-- BUSY_CLEARS: the status and all four result words are replaced together, and BUSY clears; a SOFT_RESET whose act is
still due makes it first (R185, R193; log 10). -/
def execBusyClears (s : State) : Host.Outcome State Fault Refusal :=
  match s.running with
  | none => .next s
  | some r =>
    .next
      { (if r.completion.resetDue then s.softReset else s) with
        running := none, status := r.completion.status, results := r.completion.results }

/-! ## The register window (R184, R189, R190, R192) -/

/-- The half word the Event Queue read port shows (R192). -/
def State.portWord (s : State) : Word :=
  match s.eventQueue, s.half with
  | [], _ => 0
  | w :: _, .upper => w.extractLsb' 16 16
  | w :: _, .lower => w.extractLsb' 0 16

/-- What a read of a word address returns (R184, R190, R192; log 28). -/
def State.readRegister (s : State) (address : Byte) : Word :=
  match address.toNat with
  | 0 => 416
  | 1 => 1
  | 2 => s.partStatusWord
  | 4 => (s.tree 0).statusWord
  | 5 => (s.tree 1).statusWord
  | 6 => (s.tree 2).statusWord
  | 7 => (s.tree 3).statusWord
  | 8 => s.partIndicationWord
  | 9 => s.partEnableWord
  | 10 => (s.tree 0).indications.word
  | 11 => (s.tree 1).indications.word
  | 12 => (s.tree 2).indications.word
  | 13 => (s.tree 3).indications.word
  | 14 => (s.tree 0).enables.word
  | 15 => (s.tree 1).enables.word
  | 16 => (s.tree 2).enables.word
  | 17 => (s.tree 3).enables.word
  | 32 => s.commandCode
  | 33 => s.args.q0
  | 34 => s.args.q1
  | 35 => s.args.q2
  | 36 => s.args.q3
  | 37 => wordOf (yesNo s.busy)
  | 38 => wordOf s.status.code
  | 39 => s.results.q0
  | 40 => s.results.q1
  | 41 => s.results.q2
  | 42 => s.results.q3
  | 48 => s.portWord
  | 49 => wordOf s.eventQueue.length
  | 50 => s.lostRecords
  | _ => 0

/-- A write to a tree's indications: a 1 clears (R189). -/
def State.clearTreeFlags (s : State) (t : TreeId) (v : Word) : State :=
  s.modTree t fun x => { x with indications := x.indications.clearedBy v }

/-- A write to a tree's enables (R184). -/
def State.setTreeEnables (s : State) (t : TreeId) (v : Word) : State :=
  s.modTree t fun x => { x with enables := TreeFlags.ofWord v }

/-- A bus write of a word address; a write of 1 to the mailbox control register is a GO (R184, R185, R189). -/
def State.busWrite (s : State) (address : Byte) (v : Word) : State :=
  match address.toNat with
  | 8 => { s with indications := s.indications.clearedBy v }
  | 9 => { s with enables := PartEnables.ofWord v }
  | 10 => s.clearTreeFlags 0 v
  | 11 => s.clearTreeFlags 1 v
  | 12 => s.clearTreeFlags 2 v
  | 13 => s.clearTreeFlags 3 v
  | 14 => s.setTreeEnables 0 v
  | 15 => s.setTreeEnables 1 v
  | 16 => s.setTreeEnables 2 v
  | 17 => s.setTreeEnables 3 v
  | 32 => { s with commandCode := v }
  | 33 => { s with args := s.args.set 0 v }
  | 34 => { s with args := s.args.set 1 v }
  | 35 => { s with args := s.args.set 2 v }
  | 36 => { s with args := s.args.set 3 v }
  | 37 => if v = 1 then s.go else s
  | _ => s

/-- INDICATION_CLEAR_WRITE (R189; log 27). -/
def execIndicationClearWrite (address : Byte) (v : Word) (s : State) : Host.Outcome State Fault Refusal :=
  .next (s.busWrite address v)

/-- ENABLE_REGISTER_WRITE (R184; log 27). -/
def execEnableRegisterWrite (address : Byte) (v : Word) (s : State) : Host.Outcome State Fault Refusal :=
  .next (s.busWrite address v)

/-- REGISTER_WRITE (R184; log 27). -/
def execRegisterWrite (address : Byte) (v : Word) (s : State) : Host.Outcome State Fault Refusal :=
  .next (s.busWrite address v)

/-- What a read of the Event Queue read port leaves (R192). -/
def State.afterPortRead (s : State) : State :=
  match s.eventQueue, s.half with
  | [], _ => s
  | _ :: _, .upper => { s with half := .lower }
  | _ :: rest, .lower => { s with eventQueue := rest, half := .upper }

/-- EVENT_QUEUE_READ (R192; log 12). -/
def execEventQueueRead (s : State) : Host.Outcome State Fault Refusal :=
  .next { s.afterPortRead with readData := s.readRegister 48 }

/-- LOST_RECORD_COUNT_READ: the count is returned and becomes 0 (R190; log 12). -/
def execLostRecordCountRead (s : State) : Host.Outcome State Fault Refusal :=
  .next { s with readData := s.readRegister 50, lostRecords := 0 }

end Sys2Proof.Machine
end

