-- ==== Sys2Proof/Machine/Reports.lean ====
section
/-! DEFINITION. The taking of a burst report: the tests of R14 and R15, and the report's place in its slot (R13 to R16, R76). -/

namespace Sys2Proof.Machine

/-- The slot cycle a report's low bits match: the ARRIVING slot's N, or the CLOSING slot's N − 1 (R14). -/
def Tree.reportedCycle (x : Tree) (r : ReportRecord) : Option Cycle :=
  if reportCycleLow r = x.n.toNat % 16 then some x.n
  else if reportCycleLow r = (x.n - 1#16).toNat % 16 then some (x.n - 1#16)
  else none

/-- A report that passed R14 against what its reservation has already received (R15, R76). -/
def State.takeReport (s : State) (t : TreeId) (c : Cycle) (i : Nat) (r : Reservation) (b : Burst) (count : Nat) :
    State :=
  if r.takesOutcome then
    if r.outcome.isSome then s.countReportError else s.takeOutcome t c i r b
  else if r.ended then s.countReportError
  else if b.result = .windowEnd then
    (if count = r.bursts.length then s else s.countReportError).endWindow t c i r
  else if Config.maxBursts ≤ r.bursts.length then s.countReportError
  else s.takeBurst t c i r b

/-- A report on the slot of cycle c: the index test, the tests of the record, then R15; STRAY marks the slot (R14, R81). -/
def State.reportOnSlot (s : State) (t : TreeId) (c : Cycle) (record : ReportRecord) : State :=
  match reportReservationIndex record with
  | none => if (reportRead record none).isSome then s.markStray t c else s.countReportError
  | some i =>
    match (s.reservationsOf t c)[i]? with
    | none => s.countReportError
    | some r =>
      match reportRead record (some r.kind) with
      | none => s.countReportError
      | some b => s.takeReport t c i r b record.burstCount.toNat

/-- BURST_REPORT: a report arrives on the port of a tree; a DISABLED tree's is discarded (R13, R14). -/
def execBurstReport (port : TreeId) (record : ReportRecord) (s : State) : Host.Outcome State Fault Refusal :=
  .next (
    if !(s.tree port).inService then s
    else if record.tree.toNat ≠ port.val then s.countReportError
    else
      match (s.tree port).reportedCycle record with
      | none => s.countReportError
      | some c => s.reportOnSlot port c record)

end Sys2Proof.Machine
end

