-- ==== Sys2Proof/Machine/Dispatch.lean ====
section
/-! DEFINITION. exec: the meaning of every command, one arm per constructor of Instr. -/

namespace Sys2Proof.Machine

/-- The effect of a command on everything but the queue of commands waiting. -/
def exec (i : Instr) (s : State) : Host.Outcome State Fault Refusal :=
  match i with
  | .treeConfig tree item value0 value1 => Sys2Proof.Machine.execTreeConfig tree item value0 value1 s
  | .treeTune tree param value => Sys2Proof.Machine.execTreeTune tree param value s
  | .enable tree => Sys2Proof.Machine.execEnable tree s
  | .hold tree => Sys2Proof.Machine.execHold tree s
  | .resume tree => Sys2Proof.Machine.execResume tree s
  | .disable tree => Sys2Proof.Machine.execDisable tree s
  | .reserve mark handle => Sys2Proof.Machine.execReserve mark handle s
  | .unreserve handle => Sys2Proof.Machine.execUnreserve handle s
  | .bar mark => Sys2Proof.Machine.execBar mark s
  | .unbar mark => Sys2Proof.Machine.execUnbar mark s
  | .release handle => Sys2Proof.Machine.execRelease handle s
  | .hush handle => Sys2Proof.Machine.execHush handle s
  | .unhush handle => Sys2Proof.Machine.execUnhush handle s
  | .forceRange handle => Sys2Proof.Machine.execForceRange handle s
  | .readEntry handle page => Sys2Proof.Machine.execReadEntry handle page s
  | .findMark mark => Sys2Proof.Machine.execFindMark mark s
  | .readSlot tree offset index page => Sys2Proof.Machine.execReadSlot tree offset index page s
  | .readCounters tree number clear => Sys2Proof.Machine.execReadCounters tree number clear s
  | .sweepStart tree dwell => Sys2Proof.Machine.execSweepStart tree dwell s
  | .sweepAbort tree => Sys2Proof.Machine.execSweepAbort tree s
  | .lock => Sys2Proof.Machine.execLock s
  | .softReset => Sys2Proof.Machine.execSoftReset s
  | .badCode code arg0 arg1 arg2 arg3 => Sys2Proof.Machine.execBadCode code arg0 arg1 arg2 arg3 s
  | .goWhileBusy => Sys2Proof.Machine.execGoWhileBusy s
  | .indicationClearWrite address value => Sys2Proof.Machine.execIndicationClearWrite address value s
  | .enableRegisterWrite address value => Sys2Proof.Machine.execEnableRegisterWrite address value s
  | .eventQueueRead => Sys2Proof.Machine.execEventQueueRead s
  | .lostRecordCountRead => Sys2Proof.Machine.execLostRecordCountRead s
  | .registerWrite address value => Sys2Proof.Machine.execRegisterWrite address value s
  | .hardwareReset => Sys2Proof.Machine.execHardwareReset s
  | .boundary tree => Sys2Proof.Machine.execBoundary tree s
  | .burstReport port record => Sys2Proof.Machine.execBurstReport port record s
  | .plan tree cycle grants => Sys2Proof.Machine.execPlan tree cycle grants s
  | .sync => Sys2Proof.Machine.execSync s
  | .idle => Sys2Proof.Machine.execIdle s
  | .invalidFrame bytes => Sys2Proof.Machine.execInvalidFrame bytes s
  | .silenceTimerExpiry => Sys2Proof.Machine.execSilenceTimerExpiry s
  | .transmitterHoldEnd => Sys2Proof.Machine.execTransmitterHoldEnd s
  | .frameTransmit => Sys2Proof.Machine.execFrameTransmit s
  | .rosterDumpStep => Sys2Proof.Machine.execRosterDumpStep s
  | .discoveryTimerExpiry tree => Sys2Proof.Machine.execDiscoveryTimerExpiry tree s
  | .coolingExpiry tree => Sys2Proof.Machine.execCoolingExpiry tree s
  | .timedBarExpiry tree => Sys2Proof.Machine.execTimedBarExpiry tree s
  | .graceExpiry tree => Sys2Proof.Machine.execGraceExpiry tree s
  | .dwellExpiry tree => Sys2Proof.Machine.execDwellExpiry tree s
  | .busyClears => Sys2Proof.Machine.execBusyClears s
  | .bundleByteTaken tree => Sys2Proof.Machine.execBundleByteTaken tree s

end Sys2Proof.Machine
end

