-- ==== Sys2Proof/Safety.lean ====
section
/-! DEFINITION. The laws of the manual that the statements are about, and the invariants of the model (spec 02, 03, 05, 11). -/

namespace Sys2Proof

/-- The commands that may change a tree's state: ENABLE, HOLD, RESUME, DISABLE and the resets, a GO of whatever the mailbox
holds, and the clearing of BUSY that may make the act of a SOFT_RESET (R42, R185, R193; log 10, log 27). -/
def Instr.mayChangeTreeState : Instr → Bool
  | .enable _ | .hold _ | .resume _ | .disable _ | .softReset | .hardwareReset | .busyClears => true
  | .badCode .. | .goWhileBusy | .indicationClearWrite .. | .enableRegisterWrite .. | .registerWrite .. => true
  | _ => false

end Sys2Proof

namespace Sys2Proof.Machine

/-- The Event Queue, the outgoing frame queue and the Bar List are within their bounds, and the half flag is UPPER while the
Event Queue is empty (R28, R87, R190, R192). -/
def State.bounded (s : State) : Prop :=
  s.eventQueue.length ≤ Config.eventCapacity ∧ s.outQueue.length ≤ Config.frameCapacity
    ∧ s.bars.length ≤ Config.barCapacity ∧ (s.eventQueue = [] → s.half = .upper)

/-- The entries and the Mark Index stand in their one form: rising keys, and no FREE entry listed (log 29). -/
def State.canonical (s : State) : Prop :=
  NumMap.wf s.entries = true ∧ NumMap.wf s.markIndex = true ∧ ∀ x ∈ s.entries, x.2.state ≠ .free

/-- What a tree out of service holds: no ring, no handles, no work (R46, R50, R54, R57, R120, R158, R172, R183). -/
def Tree.idle (x : Tree) : Prop :=
  x.freePool = [] ∧ x.coolDown = [] ∧ x.handover = [] ∧ x.calendar = Calendar.empty ∧ x.discovery = Discovery.clear
    ∧ x.upkeep = Upkeep.clear ∧ x.control = ControlQueue.empty ∧ x.rogue = RogueMonitor.clear

/-- Every DISABLED tree holds nothing. -/
def State.disabledIdle (s : State) : Prop := ∀ t, (s.tree t).state = .disabled → (s.tree t).idle

/-- The structural configurations of two states are the same (R47). -/
def sameConfigs (s u : State) : Prop := ∀ t, (u.tree t).config = (s.tree t).config

/-- The states of the trees are the same (R42). -/
def sameTreeStates (s u : State) : Prop := ∀ t, (u.tree t).state = (s.tree t).state

/-- A running command that has been judged: its copy, and what the status and result words become when BUSY clears
(R185). -/
def ran (code : Nat) (args : Quad Word) (status : Status) (results : Quad Word) : Running :=
  { code := BitVec.ofNat 16 code, args := args
    completion := { status := status, results := results, resetDue := false } }

/-- The state a taken command leaves: the state its effects leave, with the mailbox holding its code and words, BUSY set,
and what the status and result words become when BUSY clears (R185). -/
def commandDone (u : State) (code : Nat) (args : Quad Word) (status : Status) (results : Quad Word) : State :=
  { u with commandCode := BitVec.ofNat 16 code, args := args, running := some (ran code args status results) }

/-- The argument words of a command that names one word: the others stay (R184; log 3). -/
def oneArg (s : State) (w : Word) : Quad Word := words w s.args.q1 s.args.q2 s.args.q3

/-- The argument words of a command that names a mark: the last word stays (R184; log 3). -/
def markArgs (s : State) (m : Mark) : Quad Word := words (markUpper m) (markMiddle m) (markLower m) s.args.q3

/-- What a host command leaves of the entry it acts on, said of the fields that no claim touches. -/
def sameButClaim (e f : Entry) : Prop := f = { e with measureCycle := f.measureCycle }

/-- Of an entry that a command does not name no more than a measure cycle changed, and a FREE one stayed FREE. -/
def entryKept (e f : Entry) : Prop := f.state = e.state ∧ (e.state ≠ .free → sameButClaim e f)

/-- The entries of all handles but one are kept. -/
def othersKept (h : Nat) (s u : State) : Prop := ∀ j, j ≠ h → entryKept (s.entry j) (u.entry j)

/-- The cycles of a ring of 16 slots, from N − 1 to N + 14 (R57). -/
def ringCycles (n : Cycle) : List Cycle :=
  (List.range Config.ringSlots).map fun k => n - 1 + BitVec.ofNat 16 k

/-- Every tree in service holds a slot for each cycle from N − 1 to N + 14, in that order (R57). -/
def State.ringsCover (s : State) : Prop :=
  ∀ t, (s.tree t).inService = true → (s.tree t).calendar.ring.map Slot.cycle = ringCycles (s.tree t).n

/-- The record of one event, and no other, joins the Event Queue when it fits (R190). -/
def wrote (s u : State) (kind : EventKind) (k : TreeId) (h : Nat) (extra : List EventWord) : Prop :=
  s.eventQueue.length + (1 + extra.length) ≤ 1024 → u.eventQueue = s.eventQueue ++ (eventHeader kind k h extra :: extra)

/-- A HELLO on tree k was dropped: HELLO_DISCARDED counts it, and no entry, mark, pooled handle, bar, slot or frame changes
(R112). -/
def helloDropped (k : TreeId) (s u : State) : Prop :=
  (u.tree k).counters.helloDiscarded = (s.tree k).counters.helloDiscarded + 1
    ∧ (u.tree k).counters.helloOk = (s.tree k).counters.helloOk
    ∧ u.entries = s.entries ∧ u.markIndex = s.markIndex ∧ u.bars = s.bars ∧ u.outQueue = s.outQueue
    ∧ (u.tree k).freePool = (s.tree k).freePool ∧ (u.tree k).calendar = (s.tree k).calendar

/-- The slot is eligible for a window of that length at that position, the tree's cycle being n (R66). -/
def Slot.takesWindow (j : Slot) (n : Cycle) (position span : Nat) : Prop :=
  7 ≤ Cycle.distance n j.cycle ∧ Cycle.distance n j.cycle ≤ 14 ∧ (j.state = .opened ∨ j.state = .planned)
    ∧ ∀ r ∈ j.reservations, keepsGuard position span r.start r.length = true

/-- The report is one for the grant or echo slot r at index i of the slot of cycle c, and shows b: what R14, R15 and R76 ask
before the outcome is taken. -/
def reportsOn (s : State) (k : TreeId) (record : ReportRecord) (c : Cycle) (i : Nat) (r : Reservation) (b : Burst) : Prop :=
  (s.tree k).inService = true ∧ record.tree.toNat = k.val ∧ (s.tree k).reportedCycle record = some c
    ∧ reportReservationIndex record = some i ∧ (s.reservationsOf k c)[i]? = some r
    ∧ reportRead record (some r.kind) = some b

/-- The lowest rostered handle of the tree's window above a handle is h (R178). -/
def nextRostered (s : State) (k : TreeId) (above h : Nat) : Prop :=
  above < h ∧ (s.tree k).inWindow h = true ∧ (s.entry h).inRoster = true
    ∧ ∀ j, above < j → j < h → (s.tree k).inWindow j = true → (s.entry j).inRoster = false

/-- The sweep of tree k has stepped on to handle h, with a dwell and a tried count (R178). -/
def sweptOn (k : TreeId) (h dwell tried : Nat) (u : State) : Prop :=
  (u.entry h).state = .hushed ∧ (u.entry h).owed = some { kind := .hush, sends := 3 }
    ∧ (u.entry h).sweepOwned = some true
    ∧ (u.tree k).rogue.sweep = some
      { stage := .hushing, cursor := h, dwell := dwell, current := h, hushCycle := none, tried := tried }

/-- The sweep of tree k has ended, SWEEP_END set (R178, R180, R182). -/
def sweepEnded (k : TreeId) (u : State) : Prop :=
  (u.tree k).rogue.sweep = none ∧ (u.tree k).indications.sweepEnd = true

/-- The CALL for a head that tree k asks for in a step from s to u, no CALL waiting or granted before it, stands where the
calendar puts it: with an eligible slot, the nearest after N holds the QUIET_CALL of the CALL span with its answer point and
head, QUIET is made, and the record is GRANTED; with none the request waits behind all others, and the record is WAITING
(R5, R61, R65, R66, R95, R104, R106). -/
def callAskedFor (k : TreeId) (head : MarkHead) (s u : State) : Prop :=
  let x := s.tree k
  let y := u.tree k
  let span := x.config.maxRtt.toNat - x.config.minRtt.toNat + 80 + x.config.backoff.grains
  let record (stage : CallStage) : CallRecord := { head := head, stage := stage, heldIgnored := false }
  ∀ position : Nat, x.calendar.quietPosition = some position → x.calendar.ring.map Slot.cycle = ringCycles x.n →
    (∀ p ∈ x.calendar.claims, p.handle? ≠ none) →
    (∀ j ∈ x.calendar.ring, j.state.unsent = true → ∀ r ∈ j.reservations, r.kind ≠ .quietCall) →
    (∀ j ∈ x.calendar.ring, j.takesWindow x.n position span →
      (∀ i ∈ x.calendar.ring, i.takesWindow x.n position span →
        Cycle.distance x.n j.cycle ≤ Cycle.distance x.n i.cycle) →
      y.calendar.slot? j.cycle = some { j with
          state := if j.state = .opened then .claimed else .filled
          reservations := insertReservation { Reservation.bare .quietCall position span with
            answerPoint := some (position + (x.config.teq.toNat - x.config.minRtt.toNat)), head := some head }
            j.reservations }
        ∧ (∀ c, c ≠ j.cycle → y.calendar.slot? c = x.calendar.slot? c)
        ∧ y.calendar.claims = x.calendar.claims
        ∧ y.discovery.call = some (record (.granted j.cycle))
        ∧ (s.outQueue.length < 512 → u.outQueue = s.outQueue ++ [.quiet k j.cycle position span]))
    ∧ ((∀ j ∈ x.calendar.ring, ¬ j.takesWindow x.n position span) →
      y.calendar.claims = x.calendar.claims ++ [.call head] ∧ y.calendar.ring = x.calendar.ring
        ∧ y.discovery.call = some (record .waiting) ∧ u.outQueue = s.outQueue)

/-- The CALL of tree k is set aside in a step from s to u: a waiting one leaves the Claim List, a granted one its slot, with
QUIET_CANCEL, its head going back on the Split Stack; with none in hand, or one on air, the calendar and the round stay
(R68 to R70, R109). -/
def callPaused (k : TreeId) (s u : State) : Prop :=
  let x := s.tree k
  let y := u.tree k
  ((x.discovery.call = none ∨ ∃ r c, x.discovery.call = some r ∧ r.stage = .onAir c) →
    y.discovery = x.discovery ∧ y.calendar = x.calendar ∧ u.outQueue = s.outQueue)
  ∧ (∀ r, x.discovery.call = some r → r.stage = .waiting →
    y.discovery = { x.discovery with call := none, stack := r.head :: x.discovery.stack }
      ∧ y.calendar = { x.calendar with claims := x.calendar.claims.filter fun q => q.handle?.isSome }
      ∧ u.outQueue = s.outQueue)
  ∧ ∀ r c slot, x.discovery.call = some r → r.stage = .granted c → x.calendar.slot? c = some slot →
    slot.state = .claimed ∨ slot.state = .filled →
    y.discovery.call = none ∧ y.discovery.stack = r.head :: x.discovery.stack
      ∧ y.discovery.running = x.discovery.running
      ∧ (s.outQueue.length < 512 → ∃ more, u.outQueue = s.outQueue ++ .quietCancel k c :: more)
      ∧ (x.calendar.claims = [] → y.calendar.slot? c = some { slot with
          state := if slot.state = .claimed then .opened else .planned
          reservations := slot.reservations.filter fun r => !r.isQuiet })

/-- The bytes of a HELLO up to its check code, its class and its backoff in range (R11, R14). -/
def helloBytes (bytes : List Byte) : Prop :=
  bytes.length = 10 ∧ bytes.head? = some 0x11 ∧ (bytes.getD 7 0).toNat ≤ 7 ∧ numberOf (bytes.drop 8) ≤ 2047

/-- The bytes of an ANSWER up to its check code, its handle in range (R11, R14). -/
def answerBytes (bytes : List Byte) : Prop :=
  bytes.length = 9 ∧ bytes.head? = some 0x12 ∧ numberOf (bytes.drop 7) ≤ 511

/-- The bytes of an ECHO up to its check code, its status and its generation in range (R11, R14). -/
def echoBytes (bytes : List Byte) : Prop :=
  bytes.length = 5 ∧ bytes.head? = some 0x13 ∧ (bytes.getD 3 0).toNat ≤ 1 ∧ (bytes.getD 4 0).toNat ≤ 7

/-- The record carries an arrival grain, a header handle, a payload: bits 4, 5 and 6 of its second byte (R14). -/
def carries (record : ReportRecord) (bit : Nat) : Prop := record.flags.getLsbD bit = true

/-- The result for kind test of R14 fails; no kind is STRAY. Results 2 and 4 are NO_LIGHT and WINDOW_END. -/
def failsResultForKind (record : ReportRecord) (kind : Option ReservationKind) : Prop :=
  (kind = none ∧ (record.result = 2 ∨ record.result = 4))
    ∨ ((kind = some .grant ∨ kind = some .echo) ∧ record.result = 4)
    ∨ ((kind = some .quietCall ∨ kind = some .quietMeasure) ∧ record.result = 2)

/-- The encoding test of R14 fails. -/
def failsEncoding (record : ReportRecord) : Prop :=
  4 < record.result.toNat ∨ carries record 7 ∨ ¬ (carries record 6 ↔ record.payloadLength ≠ 0)

/-- The presence test of R14 fails: an arrival grain goes with GOOD, BAD_CHECK and EDGE (0, 1, 3), a header handle with GOOD,
and a payload with no other result. A header handle with another result does not fail it, DEDUCED (log 19). -/
def failsPresence (record : ReportRecord) : Prop :=
  ¬ (carries record 4 ↔ record.result = 0 ∨ record.result = 1 ∨ record.result = 3)
    ∨ (record.result = 0 ∧ ¬ carries record 5) ∨ (record.result ≠ 0 ∧ carries record 6)

/-- The payload kind test of R14, or the ranges test of a payload field, fails. -/
def failsPayload (record : ReportRecord) (kind : Option ReservationKind) : Prop :=
  (carries record 6 ∧ ¬ helloBytes record.payload ∧ ¬ answerBytes record.payload ∧ ¬ echoBytes record.payload)
    ∨ (record.result = 0 ∧ kind = some .grant ∧ carries record 6)
    ∨ (record.result = 0 ∧ kind = some .echo ∧ ¬ (carries record 6 ∧ echoBytes record.payload))
    ∨ (record.result = 0 ∧ (kind = some .quietCall ∨ kind = some .quietMeasure)
      ∧ ¬ (carries record 6 ∧ (helloBytes record.payload ∨ answerBytes record.payload)))

/-- The ranges test of R14 fails for a field outside the payload; a header handle is tested with every result, DEDUCED
(log 19). -/
def failsRanges (record : ReportRecord) : Prop :=
  (carries record 4 ∧ 15999 < record.arrival.toNat)
    ∨ (carries record 5 ∧ 511 < record.header.toNat ∧ record.header ≠ 0xFFFF)
    ∨ (record.result = 4 ∧ 16 < record.burstCount.toNat)

/-- The record fails a test of R14 from result for kind on, for a reservation of that kind, or for STRAY where there is
none. -/
def reportFaulty (record : ReportRecord) (kind : Option ReservationKind) : Prop :=
  failsResultForKind record kind ∨ failsEncoding record ∨ failsPresence record ∨ failsPayload record kind
    ∨ failsRanges record

/-- The reservation with its missing outcome given (R82). -/
def withNoLight (r : Reservation) : Reservation :=
  if (r.kind = .grant ∨ r.kind = .echo) ∧ r.outcome = none then { r with outcome := some Burst.noLight } else r

end Sys2Proof.Machine
end

