-- ==== Sys2Proof/WellFormed.lean ====
section
/-! DEFINITION. What the operands of a command must satisfy for the command to be an event of its row. Every command has a
meaning, the ill-formed ones too (log 27). -/

namespace Sys2Proof

/-- The codes of the command table of spec 11 section 11.3. -/
def commandCodes : List Nat := [1, 2, 3, 4, 5, 6, 16, 17, 18, 19, 20, 21, 22, 23, 24, 25, 32, 33, 40, 41, 48, 49]

/-- The code names a command of spec 11 section 11.3. -/
def isCommandCode (code : Word) : Bool := commandCodes.contains code.toNat

/-- The word addresses of the indication registers (spec 11 section 11.1). -/
def isIndicationAddress (address : Byte) : Bool := [8, 10, 11, 12, 13].contains address.toNat

/-- The word addresses of the enable registers (spec 11 section 11.1). -/
def isEnableAddress (address : Byte) : Bool := [9, 14, 15, 16, 17].contains address.toNat

/-- The write is a GO: the value 1 at the mailbox control register (R185). -/
def isGoWrite (address : Byte) (value : Word) : Bool := address.toNat == 37 && value == 1

/-- A report record whose payload has the length its length byte says, at most the longest payload of the layout
(spec 01 section 1.7). -/
def ReportRecord.wellFormed (r : ReportRecord) : Bool :=
  r.payload.length == r.payloadLength.toNat && decide (r.payload.length ≤ 10)

/-- A command whose operands are those of its row. -/
def Instr.wellFormed : Instr → Bool
  | .badCode code _ _ _ _ => !isCommandCode code
  | .indicationClearWrite address _ => isIndicationAddress address
  | .enableRegisterWrite address _ => isEnableAddress address
  | .registerWrite address value =>
    !isIndicationAddress address && !isEnableAddress address && !isGoWrite address value
  | .burstReport _ record => record.wellFormed
  | .plan _ _ grants => decide (grants.length ≤ 255)
  | .invalidFrame bytes => (decodeFrame bytes).isNone
  | .treeConfig .. | .treeTune .. | .enable .. | .hold .. | .resume .. | .disable .. | .reserve .. | .unreserve ..
  | .bar .. | .unbar .. | .release .. | .hush .. | .unhush .. | .forceRange .. | .readEntry .. | .findMark ..
  | .readSlot .. | .readCounters .. | .sweepStart .. | .sweepAbort .. | .lock | .softReset | .goWhileBusy
  | .eventQueueRead | .lostRecordCountRead | .hardwareReset | .boundary .. | .sync | .idle
  | .silenceTimerExpiry | .transmitterHoldEnd | .frameTransmit | .rosterDumpStep | .discoveryTimerExpiry ..
  | .coolingExpiry .. | .timedBarExpiry .. | .graceExpiry .. | .dwellExpiry .. | .busyClears
  | .bundleByteTaken .. => true

end Sys2Proof
end

