-- ==== Sys2Proof/Certificates/Slice0/Obligations.lean ====
section
/-! DEFINITION. The statements about the JP-416 model, each a rule of the manual or an invariant of the model. -/

open Sys2Proof Sys2Proof.Machine

/-! ## The queue, completion and the resets -/

/-- The step of a state whose queue has a command at its front is exec of that command on the state with the queue's rest;
with no command waiting the part idles (the model's choice, log 1). -/
def Obligations.StepRunsTheFrontCommand : Prop :=
  (∀ (c : Instr) (rest : List Instr) (s : State), s.pending = c :: rest → step s = exec c { s with pending := rest })
    ∧ ∀ s : State, s.pending = [] → step s = .next s

/-- Every command completes in every state, and leaves the queue of commands waiting as it stands (log 1). -/
def Obligations.EveryCommandCompletesAndKeepsTheQueue : Prop :=
  ∀ (c : Instr) (s : State), ∃ t, exec c s = .next t ∧ t.pending = s.pending

/-- What a hardware reset leaves, for the values the manual states (R36, R56, R87, R100, R120, R158, R172, R183, R194). -/
def Obligations.HardwareResetValues : Prop :=
  ∀ s : State, ∃ t, exec .hardwareReset s = .next t
    ∧ t.entries = [] ∧ t.markIndex = [] ∧ t.bars = [] ∧ t.partLock = false
    ∧ t.linkUp = false ∧ t.silenceTimer = none ∧ t.outQueue = [] ∧ t.transmitterHold = some 2048 ∧ t.dump = none
    ∧ t.linkCheckErrors = 0 ∧ t.reportErrors = 0 ∧ t.framesDropped = 0
    ∧ t.commandCode = 0 ∧ t.args = Quad.zero ∧ t.running = none ∧ t.status = .done ∧ t.results = Quad.zero
    ∧ t.indications = { eqOverflow := false, linkChg := false, collide := false }
    ∧ t.enables = { eqNonempty := false, eqOverflow := false, linkChg := false, collide := false }
    ∧ t.interruptAsserted = false ∧ t.eventQueue = [] ∧ t.half = .upper ∧ t.lostRecords = 0
    ∧ ∀ k : TreeId, (t.tree k).state = .disabled ∧ (t.tree k).idle ∧ (t.tree k).n = 0
      ∧ (t.tree k).config = TreeConfig.reset (128 * k.val) ∧ (t.tree k).tuning = TuneTable.reset
      ∧ (t.tree k).pending = TuneTable.absent ∧ (t.tree k).counters = TreeCounters.zero
      ∧ (t.tree k).indications = TreeFlags.clear ∧ (t.tree k).enables = TreeFlags.clear

/-- SOFT_RESET and the clearing of BUSY that ends it, in either order of its act (R56, R100, R193, R194; log 10). -/
def Obligations.SoftResetThroughItsCompletion : Prop :=
  ∀ s : State, s.running = none → ∃ t u, exec .softReset s = .next t ∧ t.running.isSome = true
    ∧ exec .busyClears t = .next u
    ∧ u.running = none ∧ u.status = .done ∧ u.results = Quad.zero
    ∧ u.partLock = s.partLock ∧ u.commandCode = 49 ∧ u.args = s.args
    ∧ u.bars = s.bars.filter (fun b => b.kind == .permanent)
    ∧ u.entries = [] ∧ u.markIndex = [] ∧ u.linkUp = false ∧ u.silenceTimer = none ∧ u.outQueue = []
    ∧ u.transmitterHold = some 2048 ∧ u.dump = none ∧ u.linkCheckErrors = 0 ∧ u.reportErrors = 0 ∧ u.framesDropped = 0
    ∧ u.indications = { eqOverflow := false, linkChg := false, collide := false }
    ∧ u.enables = { eqNonempty := false, eqOverflow := false, linkChg := false, collide := false }
    ∧ u.eventQueue = [] ∧ u.half = .upper ∧ u.lostRecords = 0
    ∧ ∀ k : TreeId, (u.tree k).state = .disabled ∧ (u.tree k).idle ∧ (u.tree k).n = 0
      ∧ (u.tree k).config = (s.tree k).config ∧ (u.tree k).tuning = (s.tree k).tuning.settle (s.tree k).pending
      ∧ (u.tree k).pending = TuneTable.absent ∧ (u.tree k).counters = TreeCounters.zero
      ∧ (u.tree k).indications = TreeFlags.clear ∧ (u.tree k).enables = TreeFlags.clear

/-! ## Laws and invariants -/

/-- LOCK sets the Part Lock, with status DONE; once set, it stays set until a hardware reset, and while it is set no tree's
structural configuration changes (R47). -/
def Obligations.PartLockFreezesConfiguration : Prop :=
  (∀ s : State, s.running = none →
    exec .lock s = .next (commandDone { s with partLock := true } 48 s.args .done Quad.zero))
  ∧ ∀ (c : Instr) (s t : State), s.partLock = true → c ≠ .hardwareReset → exec c s = .next t →
    t.partLock = true ∧ sameConfigs s t

/-- The state of a tree changes only by ENABLE, HOLD, RESUME, DISABLE and the resets, or by a GO of what the mailbox holds
(R42). -/
def Obligations.TreeStateChangesOnlyByItsCommands : Prop :=
  ∀ (c : Instr) (s t : State), c.mayChangeTreeState = false → exec c s = .next t → sameTreeStates s t

/-- Every step keeps the Event Queue within 1,024 words, the outgoing queue within 512 frames and the Bar List within 32
records, and the half flag UPPER while the Event Queue is empty (R28, R87, R190, R192). -/
def Obligations.EveryStepKeepsTheBounds : Prop :=
  ∀ s t : State, s.bounded → step s = .next t → t.bounded

/-- Every step keeps the entries and the Mark Index in their one form (log 29). -/
def Obligations.EveryStepKeepsTheCanonicalForm : Prop :=
  ∀ s t : State, s.canonical → step s = .next t → t.canonical

/-- Every step keeps every DISABLED tree empty of handles, slots and work (R46, R50, R54, R57). -/
def Obligations.EveryStepKeepsDisabledTreesIdle : Prop :=
  ∀ s t : State, s.disabledIdle → step s = .next t → t.disabledIdle

/-- Every step keeps the ring of every tree in service on the cycles N − 1 to N + 14, in order, whatever the order of the
reactions to a boundary (R57, R59; log 5). -/
def Obligations.EveryStepKeepsTheRings : Prop :=
  ∀ s t : State, s.ringsCover → step s = .next t → t.ringsCover

/-- The reset state meets the invariants. -/
def Obligations.ResetMeetsTheInvariants : Prop :=
  State.reset.bounded ∧ State.reset.canonical ∧ State.reset.disabledIdle ∧ State.reset.ringsCover

/-! ## The bus (R184 to R186, R189 to R192) -/

/-- A GO written while BUSY is set is ignored and sets COLLIDE; a code that names no command is refused with BAD_CODE and
changes nothing else; when BUSY clears, the status and all four result words are replaced together (R185, R186). A write
stores the command code or an argument word, and a write of any other address that is no indication register, no enable
register and no GO is ignored (R184). -/
def Obligations.MailboxAndRegisterWrites : Prop :=
  ∀ (s : State),
    (s.running.isSome = true →
      exec .goWhileBusy s = .next { s with indications := { s.indications with collide := true } })
    ∧ (∀ code a0 a1 a2 a3 : Word, s.running = none → isCommandCode code = false →
      exec (.badCode code a0 a1 a2 a3) s
        = .next (commandDone s code.toNat (words a0 a1 a2 a3) .badCode Quad.zero))
    ∧ (∀ r : Running, s.running = some r → r.completion.resetDue = false →
      exec .busyClears s
        = .next { s with running := none, status := r.completion.status, results := r.completion.results })
    ∧ ∀ (address : Byte) (v : Word),
      exec (.registerWrite 32 v) s = .next { s with commandCode := v }
      ∧ exec (.registerWrite 33 v) s = .next { s with args := { s.args with q0 := v } }
      ∧ exec (.registerWrite 34 v) s = .next { s with args := { s.args with q1 := v } }
      ∧ exec (.registerWrite 35 v) s = .next { s with args := { s.args with q2 := v } }
      ∧ exec (.registerWrite 36 v) s = .next { s with args := { s.args with q3 := v } }
      ∧ ((Instr.registerWrite address v).wellFormed = true → (address.toNat < 32 ∨ 36 < address.toNat) →
        exec (.registerWrite address v) s = .next s)

/-- A write of an indication register clears each flag written with 1 and leaves the others, and a write of an enable
register sets each enable to the value written; no other state changes. The interrupt output is asserted while the words
of an indication register and of its enable register share a bit (R184, R189). -/
def Obligations.IndicationsEnablesAndInterrupt : Prop :=
  ∀ (v : Word) (s : State),
    exec (.indicationClearWrite 8 v) s
      = .next { s with indications :=
          { eqOverflow := s.indications.eqOverflow && !v.getLsbD 1
            linkChg := s.indications.linkChg && !v.getLsbD 2
            collide := s.indications.collide && !v.getLsbD 3 } }
    ∧ exec (.enableRegisterWrite 9 v) s
      = .next { s with enables :=
          { eqNonempty := v.getLsbD 0, eqOverflow := v.getLsbD 1, linkChg := v.getLsbD 2, collide := v.getLsbD 3 } }
    ∧ (s.interruptAsserted = true ↔
      (s.readRegister 8 &&& s.readRegister 9 ≠ 0 ∨ s.readRegister 10 &&& s.readRegister 14 ≠ 0
        ∨ s.readRegister 11 &&& s.readRegister 15 ≠ 0 ∨ s.readRegister 12 &&& s.readRegister 16 ≠ 0
        ∨ s.readRegister 13 &&& s.readRegister 17 ≠ 0))
    ∧ ∀ k : TreeId,
      exec (.indicationClearWrite (BitVec.ofNat 8 (10 + k.val)) v) s
        = .next (s.setTree k { s.tree k with indications :=
            { darkChg := (s.tree k).indications.darkChg && !v.getLsbD 0
              rogueChg := (s.tree k).indications.rogueChg && !v.getLsbD 1
              sweepEnd := (s.tree k).indications.sweepEnd && !v.getLsbD 2
              tableFull := (s.tree k).indications.tableFull && !v.getLsbD 3 } })
      ∧ exec (.enableRegisterWrite (BitVec.ofNat 8 (14 + k.val)) v) s
        = .next (s.setTree k { s.tree k with enables :=
            { darkChg := v.getLsbD 0, rogueChg := v.getLsbD 1, sweepEnd := v.getLsbD 2, tableFull := v.getLsbD 3 } })

/-- A record joins the Event Queue whole when it fits, else it is dropped whole and counted up to 65,535, EQ_OVERFLOW
becoming set; a read of the lost-record count returns it and makes it 0 in the same act (R190). A read of the read port
returns the halves of the head word, upper then lower, the word leaving with its lower half; an empty queue reads 0
(R192). -/
def Obligations.EventQueueTakesRecordsAndReadsOut : Prop :=
  (∀ (w : EventWord) (rest : List EventWord) (s : State),
    (s.eventQueue = w :: rest → s.half = .upper →
      exec .eventQueueRead s = .next { s with half := .lower, readData := w.extractLsb' 16 16 })
    ∧ (s.eventQueue = w :: rest → s.half = .lower →
      exec .eventQueueRead s
        = .next { s with eventQueue := rest, half := .upper, readData := w.extractLsb' 0 16 })
    ∧ (s.eventQueue = [] → exec .eventQueueRead s = .next { s with readData := 0 }))
  ∧ (∀ s : State, exec .lostRecordCountRead s = .next { s with readData := s.lostRecords, lostRecords := 0 })
  ∧ ∀ (s : State) (kind : EventKind) (k : TreeId) (h : Nat) (extra : List EventWord),
    (s.eventQueue.length + (1 + extra.length) ≤ 1024 →
      s.writeEvent kind k h extra = { s with eventQueue := s.eventQueue ++ (eventHeader kind k h extra :: extra) })
    ∧ (1024 < s.eventQueue.length + (1 + extra.length) →
      (s.writeEvent kind k h extra).eventQueue = s.eventQueue
        ∧ (s.writeEvent kind k h extra).indications.eqOverflow = true
        ∧ (s.writeEvent kind k h extra).lostRecords.toNat = min (s.lostRecords.toNat + 1) 65535)

/-! ## Tree Control (R39, R41, R43 to R47) -/

/-- TREE_CONFIG: the first condition met gives the outcome, and the result words hold the item as it stands after the
command, 0 after a BAD_ARG for the tree or the item (R39). The second word of an item that is one number is 0, which is the
model's, DEDUCED (log 36). -/
def Obligations.TreeConfigOutcome : Prop :=
  ∀ (tree item v0 v1 : Word) (s : State), s.running = none →
    ((3 < tree.toNat ∨ 7 < item.toNat) →
      exec (.treeConfig tree item v0 v1) s
        = .next (commandDone s 1 (words tree item v0 v1) .badArg Quad.zero))
    ∧ ∀ (k : TreeId) (i : ConfigItem), treeOfWord tree = some k → ConfigItem.ofWord item = some i →
      (s.partLock = true →
        exec (.treeConfig tree item v0 v1) s
          = .next (commandDone s 1 (words tree item v0 v1) .locked (itemWords (s.tree k).config i)))
      ∧ (s.partLock = false → (s.tree k).state ≠ .disabled →
        exec (.treeConfig tree item v0 v1) s
          = .next (commandDone s 1 (words tree item v0 v1) .wrongTreeState (itemWords (s.tree k).config i)))
      ∧ (s.partLock = false → (s.tree k).state = .disabled → (s.tree k).config.write i v0 v1 = none →
        exec (.treeConfig tree item v0 v1) s
          = .next (commandDone s 1 (words tree item v0 v1) .badArg (itemWords (s.tree k).config i)))
      ∧ ∀ d, s.partLock = false → (s.tree k).state = .disabled → (s.tree k).config.write i v0 v1 = some d →
        exec (.treeConfig tree item v0 v1) s
          = .next (commandDone (s.setTree k { s.tree k with config := d }) 1 (words tree item v0 v1) .done
              (itemWords d i))

/-- TREE_TUNE: a value in range is in force at once on a DISABLED tree, and pending on any other; a tree above 3, an unknown
parameter and a value outside the range are BAD_ARG (R40, R41). The model's own, DEDUCED: the result words are 0 after a
BAD_ARG (log 20), and the second is 0 when the pending value is absent (log 34). -/
def Obligations.TreeTuneOutcome : Prop :=
  ∀ (tree param v : Word) (s : State), s.running = none →
    ((3 < tree.toNat ∨ 9 < param.toNat) →
      exec (.treeTune tree param v) s
        = .next (commandDone s 2 (words tree param v s.args.q3) .badArg Quad.zero))
    ∧ ∀ (k : TreeId) (p : TuneParam), treeOfWord tree = some k → TuneParam.ofWord param = some p →
      (p.inRange v.toNat = false →
        exec (.treeTune tree param v) s
          = .next (commandDone s 2 (words tree param v s.args.q3) .badArg Quad.zero))
      ∧ (p.inRange v.toNat = true → (s.tree k).state = .disabled →
        exec (.treeTune tree param v) s
          = .next (commandDone
              (s.setTree k { s.tree k with
                tuning := (s.tree k).tuning.put p v.toNat, pending := (s.tree k).pending.put p none })
              2 (words tree param v s.args.q3) .done (words v 0 0 0)))
      ∧ (p.inRange v.toNat = true → (s.tree k).state ≠ .disabled →
        exec (.treeTune tree param v) s
          = .next (commandDone (s.setTree k { s.tree k with pending := (s.tree k).pending.put p (some v.toNat) })
              2 (words tree param v s.args.q3) .done (words (wordOf ((s.tree k).tuning.get p)) v 1 0)))

/-- ENABLE of a DISABLED tree: the first failed check gives the status and the result words and changes nothing; with
every check passed the tree is ACTIVE with N = 0, its handles in the Free Pool and its ring begun (R43, R44, R50, R58,
R61). A tree above 3 is BAD_ARG, and a tree in service is refused with WRONG_TREE_STATE; the result words are then 0,
DEDUCED (log 20). -/
def Obligations.EnableOutcome : Prop :=
  ∀ (tree : Word) (s : State), s.running = none →
    (3 < tree.toNat → exec (.enable tree) s = .next (commandDone s 3 (oneArg s tree) .badArg Quad.zero))
    ∧ ∀ k : TreeId, treeOfWord tree = some k →
      ((s.tree k).inService = true →
        exec (.enable tree) s = .next (commandDone s 3 (oneArg s tree) .wrongTreeState Quad.zero))
      ∧ ((s.tree k).state = .disabled →
        ((s.tree k).config.reachOk = false →
          exec (.enable tree) s = .next (commandDone s 3 (oneArg s tree) .config (words 1 0 0 0)))
        ∧ (∀ v, (s.tree k).config.reachOk = true → s.overlapping k = some v →
          exec (.enable tree) s = .next (commandDone s 3 (oneArg s tree) .overlap (words 2 (wordOf v.val) 0 0)))
        ∧ ((s.tree k).config.reachOk = true → s.overlapping k = none → (s.tree k).config.hasPart = false →
          exec (.enable tree) s = .next (commandDone s 3 (oneArg s tree) .noPart (words 3 0 0 0)))
        ∧ ((s.tree k).config.reachOk = true → s.overlapping k = none → (s.tree k).config.hasPart = true →
          (s.tree k).config.spanOk = false →
          exec (.enable tree) s = .next (commandDone s 3 (oneArg s tree) .span (words 4 0 0 0)))
        ∧ ((s.tree k).config.reachOk = true → s.overlapping k = none → (s.tree k).config.hasPart = true →
          (s.tree k).config.spanOk = true →
          ∃ x, exec (.enable tree) s = .next (commandDone (s.setTree k x) 3 (oneArg s tree) .done Quad.zero)
            ∧ x.state = .active ∧ x.n = 0 ∧ x.coolDown = [] ∧ x.counters = TreeCounters.zero
            ∧ x.freePool = (List.range ((s.tree k).config.windowLength - 1)).map ((s.tree k).config.windowBase + 1 + ·)
            ∧ x.calendar.ring.map Slot.cycle = ringCycles 0
            ∧ (∀ y ∈ x.calendar.ring, y.reservations = [] ∧ y.stray = false)
            ∧ x.calendar.ring.map Slot.state
              = [.closing, .arriving] ++ List.replicate 6 .sent ++ List.replicate 8 .opened
            ∧ x.calendar.quietPosition = some (s.tree k).config.quietStart ∧ x.calendar.claims = []
            ∧ x.calendar.settleDue = [] ∧ x.handover = [] ∧ x.discovery = Discovery.clear ∧ x.upkeep = Upkeep.clear
            ∧ x.control = ControlQueue.empty ∧ x.rogue = RogueMonitor.clear
            ∧ x.config = (s.tree k).config ∧ x.tuning = (s.tree k).tuning ∧ x.pending = (s.tree k).pending
            ∧ x.indications = (s.tree k).indications ∧ x.enables = (s.tree k).enables))

/-- HOLD takes an ACTIVE tree to HELD. With no CALL in hand, or one on air, nothing else changes; a waiting CALL leaves
the Claim List, and a granted one its slot, with QUIET_CANCEL, and its head goes back on the Split Stack (R45, R68 to R70,
R109). RESUME takes a HELD tree to ACTIVE: with no paused round nothing else changes, and a paused round on a tree neither
DARK nor ROGUE asks for its next CALL, which is granted to a slot at once or waits (R45, R66, R104, R110). On any other
tree each is refused; a tree above 3 is BAD_ARG. -/
def Obligations.HoldAndResumeOutcome : Prop :=
  ∀ (tree : Word) (s : State), s.running = none →
    (3 < tree.toNat → exec (.hold tree) s = .next (commandDone s 4 (oneArg s tree) .badArg Quad.zero)
      ∧ exec (.resume tree) s = .next (commandDone s 5 (oneArg s tree) .badArg Quad.zero))
    ∧ ∀ k : TreeId, treeOfWord tree = some k →
      ((s.tree k).state ≠ .active →
        exec (.hold tree) s = .next (commandDone s 4 (oneArg s tree) .wrongTreeState Quad.zero))
      ∧ ((s.tree k).state = .active →
        ((s.tree k).discovery.call = none
          ∨ ∃ r c, (s.tree k).discovery.call = some r ∧ r.stage = .onAir c) →
        exec (.hold tree) s
          = .next (commandDone (s.setTree k { s.tree k with state := .held }) 4 (oneArg s tree) .done Quad.zero))
      ∧ ((s.tree k).state = .active →
        ∃ t, exec (.hold tree) s = .next t ∧ (t.tree k).state = .held ∧ callPaused k s t)
      ∧ ((s.tree k).state ≠ .held →
        exec (.resume tree) s = .next (commandDone s 5 (oneArg s tree) .wrongTreeState Quad.zero))
      ∧ ((s.tree k).state = .held → (s.tree k).discovery.running = false →
        exec (.resume tree) s
          = .next (commandDone (s.setTree k { s.tree k with state := .active }) 5 (oneArg s tree) .done Quad.zero))
      ∧ ∀ head rest, (s.tree k).state = .held → (s.tree k).discovery.running = true →
        (s.tree k).discovery.call = none → (s.tree k).discovery.stack = head :: rest →
        (s.tree k).upkeep.dark = false → (s.tree k).rogue.rogue = false →
        ∃ t r, exec (.resume tree) s = .next t ∧ (t.tree k).state = .active
          ∧ (t.tree k).discovery.stack = rest ∧ (t.tree k).discovery.call = some r ∧ r.head = head
          ∧ callAskedFor k head s t

/-- DISABLE of a tree in service: its entries become FREE and their marks leave the Mark Index, the TIMED bars it set leave
the Bar List, the tree holds nothing more, what R46 keeps is kept, no event is written, and the other trees are untouched
(R33, R37, R46). A tree above 3 is BAD_ARG, and a DISABLED tree is refused with WRONG_TREE_STATE. -/
def Obligations.DisableOutcome : Prop :=
  ∀ (tree : Word) (s : State), s.running = none →
    (3 < tree.toNat → exec (.disable tree) s = .next (commandDone s 6 (oneArg s tree) .badArg Quad.zero))
    ∧ ∀ k : TreeId, treeOfWord tree = some k →
      ((s.tree k).state = .disabled →
        exec (.disable tree) s = .next (commandDone s 6 (oneArg s tree) .wrongTreeState Quad.zero))
      ∧ ((s.tree k).inService = true →
        ∃ t, exec (.disable tree) s = .next t
          ∧ (t.tree k).state = .disabled ∧ (t.tree k).idle ∧ (t.tree k).config = (s.tree k).config
          ∧ (t.tree k).tuning = (s.tree k).tuning.settle (s.tree k).pending ∧ (t.tree k).pending = TuneTable.absent
          ∧ (t.tree k).n = (s.tree k).n ∧ (t.tree k).counters = (s.tree k).counters
          ∧ (t.tree k).indications = (s.tree k).indications ∧ (t.tree k).enables = (s.tree k).enables
          ∧ t.entries = s.entries.filter (fun e => !(s.tree k).inWindow e.1)
          ∧ t.markIndex = s.markIndex.filter (fun m => !(s.tree k).inWindow m.2)
          ∧ t.bars = s.bars.filter (fun b => !b.setBy k)
          ∧ t.eventQueue = s.eventQueue ∧ (∀ v, v ≠ k → t.tree v = s.tree v)
          ∧ (s.outQueue.length + (s.tree k).calendar.windowCycles.length < 512 →
            t.outQueue = s.outQueue ++ (s.tree k).calendar.windowCycles.map (LinkFrame.quietCancel k)
              ++ [LinkFrame.rosterClear k]))

/-! ## Reservations (R52, R53) -/

/-- RESERVE: the first condition met gives the outcome; on DONE the handle leaves the Free Pool, its entry is RESERVED with
the mark and reserved-by-host yes, and the mark joins the Mark Index (R52). -/
def Obligations.ReserveOutcome : Prop :=
  ∀ (m : Mark) (handle : Word) (s : State), s.running = none →
    let args := words (markUpper m) (markMiddle m) (markLower m) handle
    let h := handle.toNat
    ((m = 0 ∨ m = BitVec.allOnes 48 ∨ 511 < h) →
      exec (.reserve m handle) s = .next (commandDone s 16 args .badArg Quad.zero))
    ∧ (m ≠ 0 → m ≠ BitVec.allOnes 48 → h ≤ 511 →
      (s.treeOf h = none →
        exec (.reserve m handle) s = .next (commandDone s 16 args .notInWindow Quad.zero))
      ∧ ∀ k, s.treeOf h = some k →
        (h = (s.tree k).config.windowBase →
          exec (.reserve m handle) s = .next (commandDone s 16 args .notInWindow Quad.zero))
        ∧ (h ≠ (s.tree k).config.windowBase → h ∉ (s.tree k).freePool →
          exec (.reserve m handle) s = .next (commandDone s 16 args .notFree Quad.zero))
        ∧ (h ≠ (s.tree k).config.windowBase → h ∈ (s.tree k).freePool → (s.findMark m).isSome = true →
          exec (.reserve m handle) s = .next (commandDone s 16 args .markKnown Quad.zero))
        ∧ (h ≠ (s.tree k).config.windowBase → h ∈ (s.tree k).freePool → s.findMark m = none →
          ∃ t, exec (.reserve m handle) s = .next (commandDone t 16 args .done Quad.zero)
            ∧ t.tree k = { s.tree k with freePool := (s.tree k).freePool.erase h }
            ∧ (∀ v, v ≠ k → t.tree v = s.tree v)
            ∧ t.entry h
              = { Entry.free with state := .reserved, mark := some m, reservedByHost := some true }
            ∧ (∀ j, j ≠ h → t.entry j = s.entry j)
            ∧ t.findMark m = some h ∧ (∀ o, o ≠ m → t.findMark o = s.findMark o)
            ∧ t.bars = s.bars ∧ t.eventQueue = s.eventQueue ∧ t.outQueue = s.outQueue))

/-- UNRESERVE: a RESERVED entry becomes FREE, its mark leaves the Mark Index and its handle is pushed on top of the Free
Pool; any other entry is refused with WRONG_ENTRY_STATE (R53). -/
def Obligations.UnreserveOutcome : Prop :=
  ∀ (handle : Word) (s : State), s.running = none →
    let h := handle.toNat
    (511 < h → exec (.unreserve handle) s = .next (commandDone s 17 (oneArg s handle) .badArg Quad.zero))
    ∧ (h ≤ 511 → (s.entry h).state ≠ .reserved →
      exec (.unreserve handle) s = .next (commandDone s 17 (oneArg s handle) .wrongEntryState Quad.zero))
    ∧ ∀ k m, h ≤ 511 → (s.entry h).state = .reserved → (s.entry h).mark = some m → s.treeOf h = some k →
      ∃ t, exec (.unreserve handle) s = .next (commandDone t 17 (oneArg s handle) .done Quad.zero)
        ∧ t.entry h = Entry.free ∧ (∀ j, j ≠ h → t.entry j = s.entry j)
        ∧ t.tree k = { s.tree k with freePool := h :: (s.tree k).freePool } ∧ (∀ v, v ≠ k → t.tree v = s.tree v)
        ∧ t.findMark m = none ∧ (∀ o, o ≠ m → t.findMark o = s.findMark o)
        ∧ t.bars = s.bars ∧ t.eventQueue = s.eventQueue ∧ t.outQueue = s.outQueue

/-! ## The Bar List (R29, R30) -/

/-- BAR: the six rows of R29; it changes the Bar List alone, writes no event, and is taken in every tree state and whether
or not the Part Lock is set (R29). -/
def Obligations.BarOutcome : Prop :=
  ∀ (m : Mark) (s : State), s.running = none →
    ((m = 0 ∨ m = BitVec.allOnes 48) →
      exec (.bar m) s = .next (commandDone s 18 (markArgs s m) .badArg Quad.zero))
    ∧ (m ≠ 0 → m ≠ BitVec.allOnes 48 →
      (∀ b, s.findBar m = some b → b.kind = .permanent →
        exec (.bar m) s = .next (commandDone s 18 (markArgs s m) .done Quad.zero))
      ∧ (∀ b, s.findBar m = some b → b.kind ≠ .permanent →
        exec (.bar m) s
          = .next (commandDone
              { s with bars := s.bars.map fun r => if r.mark = m then { mark := m, kind := .permanent } else r }
              18 (markArgs s m) .done Quad.zero))
      ∧ (s.findBar m = none → s.bars.length < 32 →
        exec (.bar m) s
          = .next (commandDone { s with bars := s.bars ++ [{ mark := m, kind := .permanent }] } 18 (markArgs s m) .done
              Quad.zero))
      ∧ (∀ before b after least, s.findBar m = none → 32 ≤ s.bars.length → s.bars = before ++ b :: after →
        b.holdOff? = some least → (∀ r ∈ before, ∀ n, r.holdOff? = some n → least < n) →
        (∀ r ∈ after, ∀ n, r.holdOff? = some n → least ≤ n) →
        exec (.bar m) s
          = .next (commandDone { s with bars := before ++ after ++ [{ mark := m, kind := .permanent }] } 18
              (markArgs s m) .done Quad.zero))
      ∧ (s.findBar m = none → 32 ≤ s.bars.length → (∀ r ∈ s.bars, r.kind = .permanent) →
        exec (.bar m) s = .next (commandDone s 18 (markArgs s m) .barFull Quad.zero)))

/-- UNBAR: the record that holds the mark leaves, the first result word saying whether there was one, and the mark is no
longer refused at HELLO intake (R30). -/
def Obligations.UnbarOutcome : Prop :=
  ∀ (m : Mark) (s : State), s.running = none →
    ((m = 0 ∨ m = BitVec.allOnes 48) →
      exec (.unbar m) s = .next (commandDone s 19 (markArgs s m) .badArg Quad.zero))
    ∧ (m ≠ 0 → m ≠ BitVec.allOnes 48 →
      ∃ t, exec (.unbar m) s = .next t
        ∧ t = commandDone { s with bars := s.bars.filter fun b => b.mark != m } 19 (markArgs s m) .done
            (words (if (s.findBar m).isSome then 1 else 0) 0 0 0)
        ∧ t.findBar m = none)

/-! ## Departure, hush and re-ranging (R138, R166, R170, R171) -/

/-- RELEASE of an entry it takes, not owned by a sweep: DEPARTING with owed RELEASE, 3 sends, reason host, its mark, class
and reserved-by-host kept; the first result word holds the state found (R166 to R168). Any other entry is refused, and a
handle above 511 is BAD_ARG (its result words of 0 are DEDUCED, log 20). -/
def Obligations.ReleaseOutcome : Prop :=
  ∀ (handle : Word) (s : State), s.running = none →
    let h := handle.toNat
    let found := words (wordOf (s.entry h).state.code) 0 0 0
    (511 < h → exec (.release handle) s = .next (commandDone s 20 (oneArg s handle) .badArg Quad.zero))
    ∧ (h ≤ 511 → ((s.entry h).state = .free ∨ (s.entry h).state = .reserved ∨ (s.entry h).state = .departing) →
      exec (.release handle) s = .next (commandDone s 20 (oneArg s handle) .wrongEntryState found))
    ∧ ∀ k, h ≤ 511 → (s.entry h).state ≠ .free → (s.entry h).state ≠ .reserved → (s.entry h).state ≠ .departing →
      (s.entry h).sweepOwned ≠ some true → s.treeOf h = some k →
      ∃ t, exec (.release handle) s = .next t
        ∧ sameButClaim
            { Entry.free with
              state := .departing, mark := (s.entry h).mark, termClass := (s.entry h).termClass,
              reservedByHost := (s.entry h).reservedByHost, owed := some { kind := .release, sends := 3 },
              reason := some .host } (t.entry h)
        ∧ t.eventQueue = s.eventQueue ∧ t.bars = s.bars ∧ t.markIndex = s.markIndex
        ∧ othersKept h s t ∧ (∀ v, v ≠ k → t.tree v = s.tree v)
        ∧ t.running = some (ran 20 (oneArg s handle) .done found)

/-- HUSH of an entry it takes: HUSHED with owed HUSH, 3 sends, not owned by the sweep, delay and generation kept; HUSHED is
written; the first result word holds the state found (R165, R170). Any other entry is refused, and a handle above 511 is
BAD_ARG (its result words of 0 are DEDUCED, log 20). -/
def Obligations.HushOutcome : Prop :=
  ∀ (handle : Word) (s : State), s.running = none →
    let h := handle.toNat
    let found := words (wordOf (s.entry h).state.code) 0 0 0
    (511 < h → exec (.hush handle) s = .next (commandDone s 21 (oneArg s handle) .badArg Quad.zero))
    ∧ (h ≤ 511 → ((s.entry h).state = .free ∨ (s.entry h).state = .reserved ∨ (s.entry h).state = .hushed
        ∨ (s.entry h).state = .departing) →
      exec (.hush handle) s = .next (commandDone s 21 (oneArg s handle) .wrongEntryState found))
    ∧ ∀ k, h ≤ 511 → (s.entry h).state ≠ .free → (s.entry h).state ≠ .reserved → (s.entry h).state ≠ .hushed →
      (s.entry h).state ≠ .departing → s.treeOf h = some k →
      ∃ t, exec (.hush handle) s = .next t
        ∧ sameButClaim
            { Entry.free with
              state := .hushed, mark := (s.entry h).mark, termClass := (s.entry h).termClass,
              reservedByHost := (s.entry h).reservedByHost, delay := (s.entry h).delay,
              generation := (s.entry h).generation, owed := some { kind := .hush, sends := 3 },
              sweepOwned := some false } (t.entry h)
        ∧ wrote s t .hushed k h [halves (s.entry h).state.code 0]
        ∧ t.bars = s.bars ∧ t.markIndex = s.markIndex
        ∧ othersKept h s t ∧ (∀ v, v ≠ k → t.tree v = s.tree v)
        ∧ t.running = some (ran 21 (oneArg s handle) .done found)

/-- UNHUSH of a HUSHED entry not owned by a sweep: REGISTERED when it holds a delay and RERANGING when it does not, with
one owed UNHUSH, UNHUSHED being written with the state entered (its word DEDUCED, log 13); the first result word holds
that state (R171). Any other entry is refused with WRONG_ENTRY_STATE and a handle above 511 with BAD_ARG; the result words
are then 0, which is the model's, DEDUCED (log 20). -/
def Obligations.UnhushOutcome : Prop :=
  ∀ (handle : Word) (s : State), s.running = none →
    let h := handle.toNat
    (511 < h → exec (.unhush handle) s = .next (commandDone s 22 (oneArg s handle) .badArg Quad.zero))
    ∧ (h ≤ 511 → (s.entry h).state ≠ .hushed →
      exec (.unhush handle) s = .next (commandDone s 22 (oneArg s handle) .wrongEntryState Quad.zero))
    ∧ ∀ k, h ≤ 511 → (s.entry h).state = .hushed → (s.entry h).sweepOwned ≠ some true → s.treeOf h = some k →
      ((s.entry h).delay.isSome = true →
        ∃ t, exec (.unhush handle) s = .next t
          ∧ t.entry h =
            { Entry.free with
              state := .registered, mark := (s.entry h).mark, termClass := (s.entry h).termClass,
              reservedByHost := (s.entry h).reservedByHost, delay := (s.entry h).delay,
              generation := (s.entry h).generation, missCount := some 0, lastObserved := some (s.tree k).n,
              trim := some .none, probeInFlight := some false, leavingSeen := some false,
              owed := some { kind := .unhush, sends := 1 } }
          ∧ wrote s t .unhushed k h [oneField 4]
          ∧ (s.outQueue.length < 512 →
            t.outQueue = s.outQueue ++ [.roster k h .registered ((s.entry h).termClass.getD 0)])
          ∧ t.bars = s.bars ∧ t.markIndex = s.markIndex
          ∧ othersKept h s t ∧ (∀ v, v ≠ k → t.tree v = s.tree v)
          ∧ t.running = some (ran 22 (oneArg s handle) .done (words 4 0 0 0)))
      ∧ ((s.entry h).delay = none →
        ∃ t, exec (.unhush handle) s = .next t
          ∧ sameButClaim
              { Entry.free with
                state := .reranging, mark := (s.entry h).mark, termClass := (s.entry h).termClass,
                reservedByHost := (s.entry h).reservedByHost, measureAttempts := some 0, origin := some .rerange,
                owed := some { kind := .unhush, sends := 1 } } (t.entry h)
          ∧ wrote s t .unhushed k h [oneField 6]
          ∧ t.bars = s.bars ∧ t.markIndex = s.markIndex
          ∧ othersKept h s t ∧ (∀ v, v ≠ k → t.tree v = s.tree v)
          ∧ t.running = some (ran 22 (oneArg s handle) .done (words 6 0 0 0)))

/-- FORCE_RANGE of a REGISTERED or LOST entry: RERANGING with origin FORCED and measure attempts 0, an owed message kept;
RERANGE is written with reason FORCED and the delay held; the first result word holds the state found (R137, R138). Any
other entry is refused, and a handle above 511 is BAD_ARG (its result words of 0 are DEDUCED, log 20). -/
def Obligations.ForceRangeOutcome : Prop :=
  ∀ (handle : Word) (s : State), s.running = none →
    let h := handle.toNat
    let found := words (wordOf (s.entry h).state.code) 0 0 0
    (511 < h → exec (.forceRange handle) s = .next (commandDone s 23 (oneArg s handle) .badArg Quad.zero))
    ∧ (h ≤ 511 → (s.entry h).inRoster = false →
      exec (.forceRange handle) s = .next (commandDone s 23 (oneArg s handle) .wrongEntryState found))
    ∧ ∀ k, h ≤ 511 → (s.entry h).inRoster = true → s.treeOf h = some k →
      ∃ t, exec (.forceRange handle) s = .next t
        ∧ sameButClaim
            { Entry.free with
              state := .reranging, mark := (s.entry h).mark, termClass := (s.entry h).termClass,
              reservedByHost := (s.entry h).reservedByHost, measureAttempts := some 0, origin := some .forced,
              owed := (s.entry h).owed } (t.entry h)
        ∧ wrote s t .rerange k h [halves 2 ((s.entry h).delay.getD 0)]
        ∧ t.bars = s.bars ∧ t.markIndex = s.markIndex
        ∧ othersKept h s t ∧ (∀ v, v ≠ k → t.tree v = s.tree v)
        ∧ t.running = some (ran 23 (oneArg s handle) .done found)

/-- A REGISTERED or LOST entry leaves the roster by RELEASE, HUSH or FORCE_RANGE, by a departure, a hush or a re-ranging
of the engines, or by a rejoin: ROSTER names it REMOVED with its class as it then stands, every grant for it leaves the
slots not yet SENT and is counted in GRANTS_STRUCK, it leaves the Probe Due list, and a TRIM queued for it leaves the
Control Queue (R23, R71, R96, R116, R154, R164, R165). That ROSTER stands before every other frame of a rejoin's report is
the model's, a DESIGN CHOICE (log 7); R165 and R137 order the frames of the other passages. -/
def Obligations.LeavingTheRosterStrikesAndTells : Prop :=
  ∀ (k : TreeId) (h : Nat) (s : State), (s.entry h).inRoster = true →
    let left (termClass : Nat) (t : State) : Prop :=
      (s.outQueue.length < 512 → ∃ more, t.outQueue = s.outQueue ++ .roster k h .removed termClass :: more)
      ∧ (∀ y ∈ (t.tree k).calendar.ring, y.state.unsent = true → ∀ r ∈ y.reservations, r.kind = .grant →
        r.handle ≠ some h)
      ∧ (t.tree k).counters.grantsStruck
        = (s.tree k).counters.grantsStruck + BitVec.ofNat 32 ((s.tree k).calendar.grantsFor h)
      ∧ h ∉ (t.tree k).upkeep.probeDue
      ∧ ∀ m ∈ (t.tree k).control.queue, m.isTrimFor h = false
    let held := (s.entry h).termClass.getD 0
    (∀ (c : Instr) (handle : Word), c = .release handle ∨ c = .hush handle ∨ c = .forceRange handle → s.running = none →
      handle.toNat ≤ 511 → handle.toNat = h → (s.entry h).sweepOwned = none → s.treeOf h = some k →
      ∃ t, exec c s = .next t ∧ left held t)
    ∧ (∀ reason sends, left held (s.departEntry k h reason sends))
    ∧ (∀ bySweep, left held (s.hushEntry k h bySweep))
    ∧ (∀ origin reason, left held (s.rerange k h origin reason))
    ∧ ∀ (m : Mark) (termClass : Nat) (sample : Option Int), s.findBar m = none → s.findMark m = some h →
      s.treeOf h = some k → s.slotsInUse k < 8 →
      left termClass (s.judgeHello k { mark := m, termClass := termClass, sample := sample })

/-- What the commands on handles and the sweep leave unchanged, when they answer a next state: the Part Lock, the Bar
List, the link, the enables, the half flag, the records already in the Event Queue and the frames already queued, and of
every tree its configuration, tuning, state, N, enables and quiet-window position (R45, R165, R170, R177, R182). The
reading commands change nothing but the mailbox and the counters that READ_COUNTERS clears (R34, R35, R84, R188). -/
def Obligations.HandleCommandsFrame : Prop :=
  (∀ (c : Instr) (s t : State),
    (c matches .reserve .. | .unreserve _ | .release _ | .hush _ | .unhush _ | .forceRange _ | .sweepStart ..
      | .sweepAbort _) →
    exec c s = .next t →
    t.partLock = s.partLock ∧ t.bars = s.bars ∧ t.linkUp = s.linkUp ∧ t.silenceTimer = s.silenceTimer
      ∧ t.sending = s.sending ∧ t.transmitterHold = s.transmitterHold ∧ t.linkCheckErrors = s.linkCheckErrors
      ∧ t.enables = s.enables ∧ t.half = s.half ∧ t.status = s.status ∧ t.results = s.results
      ∧ (∃ more, t.eventQueue = s.eventQueue ++ more) ∧ (∃ more, t.outQueue = s.outQueue ++ more)
      ∧ ∀ k, (t.tree k).config = (s.tree k).config ∧ (t.tree k).tuning = (s.tree k).tuning
        ∧ (t.tree k).pending = (s.tree k).pending ∧ (t.tree k).state = (s.tree k).state ∧ (t.tree k).n = (s.tree k).n
        ∧ (t.tree k).enables = (s.tree k).enables
        ∧ (t.tree k).calendar.quietPosition = (s.tree k).calendar.quietPosition)
  ∧ (∀ (c : Instr) (s t : State), (c matches .readEntry .. | .findMark _ | .readSlot ..) → s.running = none →
    exec c s = .next t → t = { s with commandCode := t.commandCode, args := t.args, running := t.running })
  ∧ ∀ (tree number clear : Word) (s t : State), s.running = none → exec (.readCounters tree number clear) s = .next t →
    ∃ u : State, t = { u with commandCode := t.commandCode, args := t.args, running := t.running }
      ∧ u = { s with
        trees := u.trees, linkCheckErrors := u.linkCheckErrors, reportErrors := u.reportErrors,
        framesDropped := u.framesDropped }
      ∧ ∀ k, u.tree k = { s.tree k with counters := (u.tree k).counters }

/-! ## The reading commands (R34, R35, R84, R187, R188) -/

/-- READ_ENTRY changes nothing but the mailbox; each page gives its four words with every field in its bits, 0 where a
field is absent, and the presence flags (R34, R187); a page above 3 or a handle above 511 is BAD_ARG. FIND_MARK changes
nothing but the mailbox; it gives the Mark Index answer, with the entry's state and tree, and the Bar List answer for a
valid mark, and BAD_ARG for any other (R35, R187). The result words of 0 after a BAD_ARG are DEDUCED (log 20). -/
def Obligations.ReadEntryAndFindMarkOutcome : Prop :=
  (∀ (handle page : Word) (s : State), s.running = none →
    let args := words handle page s.args.q2 s.args.q3
    let e := s.entry handle.toNat
    ((511 < handle.toNat ∨ 3 < page.toNat) →
      exec (.readEntry handle page) s = .next (commandDone s 24 args .badArg Quad.zero))
    ∧ (handle.toNat ≤ 511 → page.toNat ≤ 3 →
      ∃ results, exec (.readEntry handle page) s = .next (commandDone s 24 args .done results)
        ∧ (page = 0 →
          (∀ tree : Nat, ((e.state = .free ∨ s.treeOf handle.toNat = none) → tree = 4) →
            (∀ k, e.state ≠ .free → s.treeOf handle.toNat = some k → tree = k.val) →
            results.q0.toNat = e.state.code * 2 ^ 12 + tree * 2 ^ 9 + yesNo (e.reservedByHost.getD false) * 2 ^ 8
              + e.termClass.getD 0 % 8 * 2 ^ 5 + yesNo e.reservedByHost.isSome * 4 + yesNo e.termClass.isSome * 2
              + yesNo e.mark.isSome)
          ∧ results.q1 ++ results.q2 ++ results.q3 = e.mark.getD 0)
        ∧ (page = 1 → results.q0 = wordOf (e.delay.getD 0)
          ∧ results.q1.toNat = e.generation.getD 0 % 8 * 2 ^ 13 + e.missCount.getD 0 % 16 * 2 ^ 9
            + yesNo (e.probeInFlight.getD false) * 2 ^ 8
            + (match e.trim with | none => 0 | some .none => 1 | some .queued => 2 | some (.effective _) => 3) * 2 ^ 6
            + yesNo e.delay.isSome * 16 + yesNo e.generation.isSome * 8 + yesNo e.missCount.isSome * 4
            + yesNo e.probeInFlight.isSome * 2 + yesNo e.driftPending.isSome
          ∧ results.q2 = (match e.trim with | some (.effective c) => c | _ => 0)
          ∧ results.q3 = BitVec.ofInt 16 (e.driftPending.getD 0))
        ∧ (page = 2 → results.q0 = BitVec.ofInt 16 (e.lastSample.getD 0)
          ∧ results.q1.toNat = e.measureAttempts.getD 0 % 8 * 2 ^ 13
            + (match e.origin with | some .rerange => 1 | some .forced => 2 | _ => 0) * 2 ^ 11
            + e.settleAttempts.getD 0 % 4 * 2 ^ 9
            + yesNo e.lastSample.isSome * 64 + yesNo e.measureAttempts.isSome * 32 + yesNo e.origin.isSome * 16
            + yesNo e.measureCycle.isSome * 8 + yesNo e.settleSample.isSome * 4 + yesNo e.settleAttempts.isSome * 2
            + yesNo e.settleEchoCycle.isSome
          ∧ results.q2 = (if e.state = .settling then wordOf (e.settleSample.getD 0) else e.measureCycle.getD 0)
          ∧ results.q3 = e.settleEchoCycle.getD 0)
        ∧ (page = 3 → results.q0 = e.lastObserved.getD 0 ∧ results.q1 = e.lostSince.getD 0
          ∧ results.q2 = wordOf (e.graceCount.getD 0)
          ∧ results.q3.toNat
            = (match e.owed with | some { kind := .hush, .. } => 1 | some { kind := .unhush, .. } => 2 | _ => 0) * 2 ^ 14
            + (match e.owed with | some o => o.sends % 4 | none => 0) * 2 ^ 12
            + (match e.reason with | some .grace => 1 | some .leave => 2 | some .measureFailure => 3 | _ => 0) * 2 ^ 10
            + yesNo (e.sweepOwned.getD false) * 2 ^ 9 + yesNo (e.leavingSeen.getD false) * 2 ^ 8
            + yesNo e.lastObserved.isSome * 64 + yesNo e.lostSince.isSome * 32 + yesNo e.graceCount.isSome * 16
            + yesNo e.owed.isSome * 8 + yesNo e.reason.isSome * 4 + yesNo e.sweepOwned.isSome * 2
            + yesNo e.leavingSeen.isSome)))
  ∧ ∀ (m : Mark) (s : State), s.running = none →
    ((m = 0 ∨ m = BitVec.allOnes 48) →
      exec (.findMark m) s = .next (commandDone s 25 (markArgs s m) .badArg Quad.zero))
    ∧ (m ≠ 0 → m ≠ BitVec.allOnes 48 →
      ∃ r, exec (.findMark m) s = .next (commandDone s 25 (markArgs s m) .done r)
        ∧ (s.findMark m = none → r.q0 = 0 ∧ r.q1 = 0)
        ∧ (∀ h, s.findMark m = some h → r.q0.getLsbD 15 = true ∧ r.q1 = wordOf h
          ∧ r.q0.toNat / 2 ^ 11 % 16 = (s.entry h).state.code
          ∧ ∀ k, s.treeOf h = some k → r.q0.toNat = 2 ^ 15 + (s.entry h).state.code * 2 ^ 11 + k.val * 2 ^ 9)
        ∧ (s.findBar m = none → r.q2 = 0 ∧ r.q3 = 0)
        ∧ (∀ b, s.findBar m = some b → b.kind = .permanent → r.q2 = 0x4000 ∧ r.q3 = 0)
        ∧ (∀ b k n c, s.findBar m = some b → b.kind = .timed k n c →
          r.q2.toNat / 2 ^ 14 = 2 ∧ r.q2.toNat / 2 ^ 12 % 4 = k.val ∧ r.q3 = wordOf n))

/-- READ_SLOT changes nothing but the mailbox; every index of a slot gives its cycle and state, an index in the list gives
the reservation's kind, its handle, start and length on page 0 and its own items on page 1, and index 69 the slot's
summary; a tree above 3, an offset above 15, an index above 69 or a page above 1 is BAD_ARG, and a DISABLED tree is
refused (R84, R187; log 20, log 26, DEDUCED). READ_COUNTERS gives a per-tree or a part-wide counter, upper half first, and
clears it in the same act when asked; it gives the numbers of handles in the Free Pool and of records in the Cool-down
Queue, which the flag does not touch; a tree above 4, an unknown number or a flag above 1 is BAD_ARG (R188; log 20,
DEDUCED). -/
def Obligations.ReadSlotAndCountersOutcome : Prop :=
  (∀ (tree offset index page : Word) (s : State), s.running = none →
    ((3 < tree.toNat ∨ 15 < offset.toNat ∨ 69 < index.toNat ∨ 1 < page.toNat) →
      exec (.readSlot tree offset index page) s
        = .next (commandDone s 32 (words tree offset index page) .badArg Quad.zero))
    ∧ ∀ k : TreeId, treeOfWord tree = some k → offset.toNat ≤ 15 → index.toNat ≤ 69 → page.toNat ≤ 1 →
      ((s.tree k).state = .disabled →
        exec (.readSlot tree offset index page) s
          = .next (commandDone s 32 (words tree offset index page) .wrongTreeState Quad.zero))
      ∧ ∀ slot : Slot, (s.tree k).inService = true → (s.tree k).calendar.ring[offset.toNat]? = some slot →
        ∃ r, exec (.readSlot tree offset index page) s
            = .next (commandDone s 32 (words tree offset index page) .done r)
          ∧ r.q0 = slot.cycle ∧ r.q1.toNat / 2 ^ 13 = slot.state.code
          ∧ (index = 69 → r.q1.toNat = slot.state.code * 2 ^ 13 + slot.reservations.length % 128
            ∧ r.q2.toNat = yesNo slot.stray * 2 ^ 15 + (s.tree k).calendar.claims.length % 1024
            ∧ r.q3 = wordOf (s.tree k).calendar.settleDue.length)
          ∧ (index ≠ 69 → slot.reservations[index.toNat]? = none →
            r.q1.toNat = slot.state.code * 2 ^ 13 ∧ r.q2 = 0 ∧ r.q3 = 0)
          ∧ ∀ x, index ≠ 69 → slot.reservations[index.toNat]? = some x →
            let common := slot.state.code * 2 ^ 13 + 2 ^ 12 + x.kind.code * 2 ^ 9
            (page = 0 → r.q1.toNat = common + x.handle.getD 0 % 512 ∧ r.q2 = wordOf x.start ∧ r.q3 = wordOf x.length)
            ∧ (page = 1 → r.q1.toNat = common ∧ r.q3 = 0
              ∧ (x.kind = .grant ∨ x.kind = .echo → r.q2.toNat = yesNo (x.purpose == some .settle) * 2 ^ 15
                + yesNo x.outcome.isSome * 2 ^ 14 + (match x.outcome with | some b => b.result.code | none => 0))
              ∧ (x.kind = .quietCall ∨ x.kind = .quietMeasure → r.q2.toNat
                = (match x.head with | some m => m.bits % 32 | none => 0) * 2 ^ 11 + x.bursts.length % 32 * 2 ^ 6
                  + yesNo x.ended * 2 ^ 5)))
  ∧ ∀ (tree number clear : Word) (s : State), s.running = none →
    let args := words tree number clear s.args.q3
    ((4 < tree.toNat ∨ 1 < clear.toNat ∨ (tree.toNat < 4 ∧ 15 < number.toNat) ∨ (tree = 4 ∧ 2 < number.toNat)) →
      exec (.readCounters tree number clear) s = .next (commandDone s 33 args .badArg Quad.zero))
    ∧ (∀ (k : TreeId) (c : TreeCounter), treeOfWord tree = some k → TreeCounter.ofNumber number.toNat = some c →
      let v := (s.tree k).counters.get c
      (clear = 0 →
        exec (.readCounters tree number clear) s
          = .next (commandDone s 33 args .done (words (v.extractLsb' 16 16) (v.extractLsb' 0 16) 0 0)))
      ∧ (clear = 1 → ∃ t, exec (.readCounters tree number clear) s
          = .next (commandDone t 33 args .done (words (v.extractLsb' 16 16) (v.extractLsb' 0 16) 0 0))
        ∧ (t.tree k).counters.get c = 0 ∧ ∀ d, d ≠ c → (t.tree k).counters.get d = (s.tree k).counters.get d))
    ∧ (∀ k : TreeId, treeOfWord tree = some k → clear.toNat ≤ 1 →
      (number = 14 → ∃ r, exec (.readCounters tree number clear) s = .next (commandDone s 33 args .done r)
        ∧ (r.q0 ++ r.q1).toNat = (s.tree k).freePool.length % 2 ^ 32)
      ∧ (number = 15 → ∃ r, exec (.readCounters tree number clear) s = .next (commandDone s 33 args .done r)
        ∧ (r.q0 ++ r.q1).toNat = (s.tree k).coolDown.length % 2 ^ 32))
    ∧ (tree = 4 → clear.toNat ≤ 1 →
      (number = 0 → exec (.readCounters tree number clear) s
        = .next (commandDone { s with linkCheckErrors := if clear = 1 then 0 else s.linkCheckErrors } 33 args .done
            (words (s.linkCheckErrors.extractLsb' 16 16) (s.linkCheckErrors.extractLsb' 0 16) 0 0)))
      ∧ (number = 1 → exec (.readCounters tree number clear) s
        = .next (commandDone { s with reportErrors := if clear = 1 then 0 else s.reportErrors } 33 args .done
            (words (s.reportErrors.extractLsb' 16 16) (s.reportErrors.extractLsb' 0 16) 0 0)))
      ∧ (number = 2 → exec (.readCounters tree number clear) s
        = .next (commandDone { s with framesDropped := if clear = 1 then 0 else s.framesDropped } 33 args .done
            (words (s.framesDropped.extractLsb' 16 16) (s.framesDropped.extractLsb' 0 16) 0 0))))

/-! ## The sweep (R177 to R179, R182) -/

/-- SWEEP_START on a ROGUE tree without a sweep hushes the lowest rostered handle above the window base and reports it,
the tried count becoming 1; with no such handle the sweep ends EXHAUSTED at once; its refusals stand in the order of R177
(R177, R178). SWEEP_ABORT of a running sweep: the current handle becomes REGISTERED owing one UNHUSH, SWEEP_END is set and
the sweep is IDLE; with no sweep nothing changes and the first result word is 0 (R182). The result words of 0 after a
refusal are DEDUCED (log 20), and so are the first result word of 0 when the sweep ends EXHAUSTED at once (log 35) and the
layout of SWEEP_EXHAUSTED's word (log 13). -/
def Obligations.SweepCommandsOutcome : Prop :=
  (∀ (tree dwell : Word) (s : State), s.running = none →
    let args := words tree dwell s.args.q2 s.args.q3
    ((3 < tree.toNat ∨ dwell.toNat < 24 ∨ 255 < dwell.toNat) →
      exec (.sweepStart tree dwell) s = .next (commandDone s 40 args .badArg Quad.zero))
    ∧ ∀ k : TreeId, treeOfWord tree = some k → 24 ≤ dwell.toNat → dwell.toNat ≤ 255 →
      ((s.tree k).state = .disabled →
        exec (.sweepStart tree dwell) s = .next (commandDone s 40 args .wrongTreeState Quad.zero))
      ∧ ((s.tree k).inService = true → (s.tree k).rogue.sweep.isSome = true →
        exec (.sweepStart tree dwell) s = .next (commandDone s 40 args .sweepBusy Quad.zero))
      ∧ ((s.tree k).inService = true → (s.tree k).rogue.sweep = none → (s.tree k).rogue.rogue = false →
        exec (.sweepStart tree dwell) s = .next (commandDone s 40 args .notRogue Quad.zero))
      ∧ ((s.tree k).inService = true → (s.tree k).rogue.sweep = none → (s.tree k).rogue.rogue = true →
        (∀ h, nextRostered s k (s.tree k).config.windowBase h →
          ∃ t, exec (.sweepStart tree dwell) s = .next t ∧ sweptOn k h dwell.toNat 1 t
            ∧ t.running = some (ran 40 args .done (words (wordOf h) 1 0 0)))
        ∧ ((∀ h, ¬ nextRostered s k (s.tree k).config.windowBase h) →
          ∃ t, exec (.sweepStart tree dwell) s = .next t ∧ sweepEnded k t ∧ t.entries = s.entries
            ∧ wrote s t .sweepExhausted k 0 [oneField 0]
            ∧ t.running = some (ran 40 args .done Quad.zero))))
  ∧ ∀ (tree : Word) (s : State), s.running = none →
    (3 < tree.toNat → exec (.sweepAbort tree) s = .next (commandDone s 41 (oneArg s tree) .badArg Quad.zero))
    ∧ ∀ k : TreeId, treeOfWord tree = some k →
      ((s.tree k).rogue.sweep = none →
        exec (.sweepAbort tree) s = .next (commandDone s 41 (oneArg s tree) .done Quad.zero))
      ∧ ∀ w, (s.tree k).rogue.sweep = some w →
        ∃ t, exec (.sweepAbort tree) s = .next t
          ∧ (t.entry w.current).state = .registered
          ∧ (t.entry w.current).owed = some { kind := .unhush, sends := 1 }
          ∧ (t.entry w.current).delay = (s.entry w.current).delay
          ∧ (t.tree k).rogue.rogue = (s.tree k).rogue.rogue ∧ sweepEnded k t
          ∧ t.running = some (ran 41 (oneArg s tree) .done (words 1 0 0 0))

/-! ## Boundaries, bundles, reports and the engines (R3 to R17, R57 to R83, R101 to R180) -/

/-- A boundary of a tree in service advances N by one, brings the pending tuning into force, makes CYCLE with the new N,
and changes no other tree, no configuration and no tree's state (R3, R40, R89). Every TIMED bar of the tree it leaves has
counted this boundary once, or was set at it with the hold-off in force and has counted none (R31, R32). It takes every
reaction of the tree's blocks once, in a free order in which no send stands between a dwell judgement and a close that
follows it (R59, R180; the free order and the expiries left over or deferred are the model's, log 5 and log 6). The
reactions: the close of the slot of N − 2, an unended quiet window ended first and counted in REPORT_ERRORS, both monitors
told (R83); the passage of the slot of N − 1 to CLOSING, every missing outcome given as NO_LIGHT in index order, and of
that of N to ARRIVING (R82); the send; the slot of N + 14 with the arbitration; CYCLE; the probe test of every entry of
the window; the count of the discovery timer (R101), of the grace (R144), and the five judgements. -/
def Obligations.BoundaryAdvancesItsTree : Prop :=
  (∀ (k : TreeId) (s : State), (s.tree k).inService = true →
    ∃ t, exec (.boundary k) s = .next t
      ∧ (t.tree k).n = (s.tree k).n + 1
      ∧ (t.tree k).tuning = (s.tree k).tuning.settle (s.tree k).pending ∧ (t.tree k).pending = TuneTable.absent
      ∧ (t.tree k).config = (s.tree k).config ∧ (t.tree k).state = (s.tree k).state
      ∧ (t.outQueue.length < 512 → LinkFrame.cycle k ((s.tree k).n + 1) ∈ t.outQueue)
      ∧ (∀ b ∈ t.bars, (∃ a ∈ s.bars, b = a.countBoundary k) ∨ b.kind = .timed k (t.tree k).tuning.holdOff 0)
      ∧ (∀ v, v ≠ k → t.tree v = s.tree v) ∧ t.partLock = s.partLock ∧ t.linkUp = s.linkUp ∧ t.running = s.running
      ∧ ∃ (o : BoundaryOrder) (leftovers : List Expiry) (acts : List BoundaryAct) (u : State),
        leftovers.Perm allExpiries
        ∧ acts.Perm [.close, .pass, .send, .join, .cycleFrame, .probes, .expiry .timer, .expiry .cooling, .expiry .bars,
          .expiry .grace, .expiry .dwell]
        ∧ ¬ (acts.idxOf (.expiry .dwell) < acts.idxOf .send ∧ acts.idxOf .send < acts.idxOf .close)
        ∧ u = { s with choices := u.choices, freeCount := u.freeCount }
        ∧ t = acts.foldl (fun v a => v.react k o a)
          (((leftovers.foldl (fun v e => v.takeExpiry k o.grace e) u).advance k).countBars k))
  ∧ (∀ (k : TreeId) (o : BoundaryOrder) (u : State),
    u.react k o .close = u.closeSlot k o.notices ∧ u.react k o .pass = u.passSlots k ∧ u.react k o .send = u.sendSlot k
    ∧ u.react k o .join = (u.modCalendar k fun w => { w with ring := w.ring ++
        [{ cycle := (u.tree k).n + 14, state := .opened, reservations := [], stray := false }] }).arbitrate k
    ∧ u.react k o .cycleFrame = u.makeFrame (.cycle k (u.tree k).n)
    ∧ u.react k o .probes = ((u.entries.map Prod.fst).filter (u.tree k).inWindow).foldl (fun v h => v.testProbe k h) u
    ∧ ∀ e : Expiry, let counted := match e with
        | .timer => u.setTree k { u.tree k with discovery := (u.tree k).discovery.tick (u.tree k).config }
        | .grace => u.countGrace k
        | .cooling | .bars | .dwell => u
      u.react k o (.expiry e) = counted ∨ u.react k o (.expiry e) = counted.takeExpiry k o.grace e)
  ∧ (∀ (k : TreeId) (u : State) (slot : Slot), (u.tree k).calendar.slot? ((u.tree k).n - 1) = some slot →
    let c := (u.tree k).n - 1
    let t := u.passSlots k
    (t.tree k).calendar.slot? c
        = some { slot with state := .closing, reservations := slot.reservations.map withNoLight }
      ∧ (∀ next, (u.tree k).calendar.slot? (u.tree k).n = some next →
        (t.tree k).calendar.slot? (u.tree k).n = some { next with state := .arriving })
      ∧ t = (slot.reservations.zipIdx.filter fun x => withNoLight x.1 != x.1).foldl
        (fun v x => v.takeOutcome k c x.2 x.1 Burst.noLight)
        (u.modCalendar k fun w => { w with ring := w.ring.map fun j =>
          if j.cycle = c then { j with state := .closing }
          else if j.cycle = (u.tree k).n then { j with state := .arriving } else j }))
  ∧ (∀ (k : TreeId) (u : State) (slot : Slot) (order : Nat), (u.tree k).calendar.slot? ((u.tree k).n - 2) = some slot →
    let c := (u.tree k).n - 2
    let t := u.closeSlot k order
    let told (v : State) : Prop := ∃ w,
      (w = (v.rogueClose k c slot.stray).upkeepClose k c ∨ w = (v.upkeepClose k c).rogueClose k c slot.stray)
        ∧ t = w.modCalendar k fun y => { y with ring := y.ring.filter fun j => j.cycle != c }
    (t.tree k).calendar.slot? c = none
      ∧ ((∀ r ∈ slot.reservations, r.isQuiet = true → r.ended = true) → told u ∧ t.reportErrors = u.reportErrors)
      ∧ ∀ i r, slot.reservations[i]? = some r → r.isQuiet = true → r.ended = false →
        (∀ j p, j < i → slot.reservations[j]? = some p → p.isQuiet = true → p.ended = true) →
        told (State.endWindow { u with reportErrors := u.reportErrors + 1 } k c i r)
          ∧ t.reportErrors = u.reportErrors + 1)
  ∧ ∀ (c : TreeConfig) (n : Nat),
    let d := (fun d : Discovery => d.tick c)^[n] Discovery.clear
    let period := c.prescaler.boundaries * c.interval.toNat
    (c.interval = 0 → d = Discovery.clear)
    ∧ (c.interval ≠ 0 → d.prescaleCount = n % c.prescaler.boundaries
      ∧ d.counter = n / c.prescaler.boundaries % c.interval.toNat
      ∧ (Discovery.tick { d with expiryDue := false } c).expiryDue = decide (period ∣ n + 1))

/-- On the port of a DISABLED tree a cycle-start indication is no boundary and a burst report is discarded uncounted; on
the port of a tree in service a report that fails the port, cycle or index test changes REPORT_ERRORS alone, and so does
one that fails a test from result for kind to ranges (R3, R13, R14). A record whose payload is not as long as its length
byte says is discarded so too, which is the model's, a DESIGN CHOICE (log 18); that a header handle flagged with a result
other than GOOD passes presence and has its range tested is the model's, DEDUCED (log 19). A well-formed STRAY report
marks the slot its cycle field matches as having seen stray light, and does nothing else (R14, R81). A report that passes:
a second one of a grant or echo slot, a burst or a WINDOW_END of a window that has ended, and a seventeenth burst are
discarded and counted; any other becomes the outcome, joins the window, or ends it, a burst count that differs being
counted (R15, R76). The framer takes the byte presented, and the rest of the bundle stays to be handed over (R7). -/
def Obligations.PortEventsAreTestedAndTaken : Prop :=
  (∀ (k : TreeId) (record : ReportRecord) (s : State),
    ((s.tree k).state = .disabled →
      exec (.boundary k) s = .next s ∧ exec (.burstReport k record) s = .next s)
    ∧ ((s.tree k).inService = true →
      (record.tree.toNat ≠ k.val ∨ (s.tree k).reportedCycle record = none
        ∨ ∃ c i, (s.tree k).reportedCycle record = some c ∧ reportReservationIndex record = some i
          ∧ (s.reservationsOf k c).length ≤ i) →
      exec (.burstReport k record) s = .next { s with reportErrors := s.reportErrors + 1 })
    ∧ (∀ c : Cycle, (s.tree k).inService = true →
      record.tree.toNat = k.val → (s.tree k).reportedCycle record = some c →
      (reportReservationIndex record = none → reportFaulty record none →
        exec (.burstReport k record) s = .next { s with reportErrors := s.reportErrors + 1 })
      ∧ (∀ i r, reportReservationIndex record = some i → (s.reservationsOf k c)[i]? = some r →
        reportFaulty record (some r.kind) →
        exec (.burstReport k record) s = .next { s with reportErrors := s.reportErrors + 1 })
      ∧ ∀ b : Burst, reportReservationIndex record = none → reportRead record none = some b →
        exec (.burstReport k record) s = .next (s.modCalendar k fun w =>
          { w with ring := w.ring.map fun x => if x.cycle = c then { x with stray := true } else x }))
    ∧ ∀ (b : Byte) (rest : List Byte), (s.tree k).handover = b :: rest →
      exec (.bundleByteTaken k) s = .next (s.setTree k { s.tree k with handover := rest }))
  ∧ (∀ (record : ReportRecord) (kind : Option ReservationKind),
    reportRead record kind = none
      ↔ reportFaulty record kind ∨ record.payload.length ≠ record.payloadLength.toNat)
  ∧ ∀ (k : TreeId) (record : ReportRecord) (c : Cycle) (i : Nat) (r : Reservation) (b : Burst) (s : State),
    reportsOn s k record c i r b →
    let counted : State := { s with reportErrors := s.reportErrors + 1 }
    ((r.kind = .grant ∨ r.kind = .echo) →
      (r.outcome ≠ none → exec (.burstReport k record) s = .next counted)
      ∧ (r.outcome = none → exec (.burstReport k record) s = .next (s.takeOutcome k c i r b)))
    ∧ ((r.kind = .quietCall ∨ r.kind = .quietMeasure) →
      (r.ended = true → exec (.burstReport k record) s = .next counted)
      ∧ (r.ended = false → b.result ≠ .windowEnd → 16 ≤ r.bursts.length →
        exec (.burstReport k record) s = .next counted)
      ∧ (r.ended = false → b.result ≠ .windowEnd → r.bursts.length < 16 →
        exec (.burstReport k record) s = .next (s.takeBurst k c i r b))
      ∧ (r.ended = false → b.result = .windowEnd → record.burstCount.toNat = r.bursts.length →
        exec (.burstReport k record) s = .next (s.endWindow k c i r))
      ∧ (r.ended = false → b.result = .windowEnd → record.burstCount.toNat ≠ r.bursts.length →
        exec (.burstReport k record) s = .next (counted.endWindow k c i r)))

/-- A hit on a grant. On a tree that is not DARK, with no TRIM outstanding, REGISTERED: the miss count becomes 0 and the
last observed cycle the report's; within the dead band drift pending becomes absent; beyond it, a second deviation of the
sign of drift pending queues a TRIM of minus half their sum, toward zero, or sends the entry to RERANGING with reason
DELAY_RANGE when the new delay would leave the valid range, and any other deviation starts or replaces drift pending.
LOST: the entry is found, REGISTERED again, with ROSTER and FOUND. Beyond the hard limit, whatever TRIM is outstanding, a
REGISTERED entry passes to RERANGING with reason HARD_LIMIT. Up to it, a QUEUED TRIM or an effective cycle still ahead
leaves drift pending, and the first hit of the effective cycle or later makes trim outstanding none and is judged like any
other. On a DARK tree presence follows the hit and the fence is cleared, and the filter takes nothing, whatever the
deviation (R77, R137, R141, R143, R149 to R151, R153, R157, R160). -/
def Obligations.GrantHitRefreshesPresence : Prop :=
  ∀ (k : TreeId) (record : ReportRecord) (c : Cycle) (i h arrival : Nat) (r : Reservation) (b : Burst) (s : State),
    reportsOn s k record c i r b → r.kind = .grant → r.handle = some h → r.outcome = none →
    b.matchesHandle h = true → b.arrival = some arrival →
    (s.tree k).tuning.deadBand ≤ (s.tree k).tuning.hardLimit →
    let d := (arrival : Int) - r.start
    let dead := (s.tree k).tuning.deadBand
    let hard := (s.tree k).tuning.hardLimit
    let seen := { s.entry h with missCount := some 0, lastObserved := some c }
    let e := { seen with driftPending := none }
    let ahead (f : Cycle) : Prop := 1 ≤ Cycle.distance c f ∧ Cycle.distance c f ≤ 32767
    let reranged : Entry := { Entry.free with
      state := .reranging, mark := (s.entry h).mark, termClass := (s.entry h).termClass,
      reservedByHost := (s.entry h).reservedByHost, measureAttempts := some 0, origin := some .rerange,
      owed := (s.entry h).owed }
    let told (t : State) : Prop :=
      (s.outQueue.length < 512 →
        t.outQueue = s.outQueue ++ [.roster k h .registered ((s.entry h).termClass.getD 0)])
      ∧ wrote s t .found k h [halves c.toNat ((s.entry h).graceCount.getD 0)]
    ((s.tree k).upkeep.dark = false →
      ((s.entry h).state = .registered → (s.entry h).trim = some .none → d.natAbs ≤ dead →
        ∃ t, exec (.burstReport k record) s = .next t ∧ t.entry h = e)
      ∧ (∀ (p : Int) (delay g : Nat), (s.entry h).state = .registered → (s.entry h).trim = some .none →
        dead < d.natAbs → d.natAbs ≤ hard →
        (s.entry h).driftPending = some p → ((0 < p ∧ 0 < d) ∨ (p < 0 ∧ d < 0)) →
        (s.entry h).delay = some delay → (s.entry h).generation = some g →
        let amount := -(Int.tdiv (p + d) 2)
        ((s.tree k).config.validSample (delay + amount) = true → (s.tree k).control.queue.length < 32 →
          ∃ t, exec (.burstReport k record) s = .next t ∧ t.entry h = { e with trim := some .queued }
            ∧ (t.tree k).control.queue = insertMessage (.trim h amount ((g + 1) % 8)) (s.tree k).control.queue)
        ∧ ((s.tree k).config.validSample (delay + amount) = true → 32 ≤ (s.tree k).control.queue.length →
          ∃ t, exec (.burstReport k record) s = .next t ∧ t.entry h = e
            ∧ (t.tree k).control.queue = (s.tree k).control.queue
            ∧ (t.tree k).counters.trimsDropped = (s.tree k).counters.trimsDropped + 1
            ∧ wrote s t .trimLost k h [halves (signed16 amount) ((g + 1) % 8)])
        ∧ ((s.tree k).config.validSample (delay + amount) = false →
          ∃ t, exec (.burstReport k record) s = .next t ∧ sameButClaim reranged (t.entry h)
            ∧ wrote s t .rerange k h [halves 1 delay]))
      ∧ ((s.entry h).state = .registered → (s.entry h).trim = some .none → dead < d.natAbs → d.natAbs ≤ hard →
        (∀ p, (s.entry h).driftPending = some p → ¬ ((0 < p ∧ 0 < d) ∨ (p < 0 ∧ d < 0))) →
        ∃ t, exec (.burstReport k record) s = .next t ∧ t.entry h = { seen with driftPending := some d })
      ∧ ((s.entry h).state = .lost → (s.entry h).trim = some .none → d.natAbs ≤ dead →
        ∃ t, exec (.burstReport k record) s = .next t
          ∧ t.entry h = { e with state := .registered, lostSince := none, graceCount := none } ∧ told t)
      ∧ ((s.entry h).state = .registered → hard < d.natAbs →
        ∃ t, exec (.burstReport k record) s = .next t ∧ sameButClaim reranged (t.entry h)
          ∧ wrote s t .rerange k h [halves 0 ((s.entry h).delay.getD 0)]
          ∧ (s.outQueue.length < 512 →
            ∃ more, t.outQueue = s.outQueue ++ .roster k h .removed ((s.entry h).termClass.getD 0) :: more))
      ∧ ((s.entry h).state = .registered → d.natAbs ≤ hard →
        ((s.entry h).trim = some .queued ∨ ∃ f, (s.entry h).trim = some (.effective f) ∧ ahead f) →
        ∃ t, exec (.burstReport k record) s = .next t ∧ t.entry h = seen)
      ∧ ∀ f, (s.entry h).state = .registered → (s.entry h).trim = some (.effective f) → ¬ ahead f →
        (d.natAbs ≤ dead →
          ∃ t, exec (.burstReport k record) s = .next t ∧ t.entry h = { e with trim := some .none })
        ∧ (dead < d.natAbs → d.natAbs ≤ hard → (s.entry h).driftPending = none →
          ∃ t, exec (.burstReport k record) s = .next t
            ∧ t.entry h = { seen with trim := some .none, driftPending := some d }))
    ∧ ((s.tree k).upkeep.dark = true →
      ((s.entry h).state = .registered →
        ((∀ f, (s.entry h).trim ≠ some (.effective f) ∨ ahead f) →
          ∃ t, exec (.burstReport k record) s = .next t ∧ t.entry h = seen)
        ∧ ∀ f, (s.entry h).trim = some (.effective f) → ¬ ahead f →
          ∃ t, exec (.burstReport k record) s = .next t ∧ t.entry h = { seen with trim := some .none })
      ∧ ((s.entry h).state = .lost → (s.entry h).trim = some .none →
        ∃ t, exec (.burstReport k record) s = .next t
          ∧ t.entry h = { seen with state := .registered, lostSince := none, graceCount := none } ∧ told t))

/-- A report on a grant of a REGISTERED entry whose result is not GOOD: NO_LIGHT, BAD_CHECK or EDGE, a miss (R141). On a
tree that is not DARK the miss count grows by one up to the lost threshold; below it nothing else of the entry changes but
a fence that is past, and at it the entry is LOST since N with grace count 0, ROSTER names it, and LOST is written with
the last observed cycle (R96, R141, R142, R153). On a DARK tree the miss count stays (R142, R157). That the record's one
field stands in the lower bits of its word is the model's, DEDUCED (log 13). -/
def Obligations.MissedGrantCountsTowardLost : Prop :=
  ∀ (k : TreeId) (record : ReportRecord) (c : Cycle) (i h m : Nat) (r : Reservation) (b : Burst) (s : State),
    reportsOn s k record c i r b → r.kind = .grant → r.handle = some h → r.outcome = none → b.result ≠ .good →
    (s.entry h).state = .registered → (s.entry h).missCount = some m →
    ∀ trim : Option TrimState,
      ((∀ f, (s.entry h).trim = some (.effective f) → 1 ≤ Cycle.distance c f ∧ Cycle.distance c f ≤ 32767) →
        trim = (s.entry h).trim) →
      (∀ f, (s.entry h).trim = some (.effective f) → ¬ (1 ≤ Cycle.distance c f ∧ Cycle.distance c f ≤ 32767) →
        trim = some .none) →
    ((s.tree k).upkeep.dark = false → m + 1 < (s.tree k).tuning.lostThreshold →
      ∃ t, exec (.burstReport k record) s = .next t
        ∧ t.entry h = { s.entry h with missCount := some (m + 1), trim := trim }
        ∧ t.outQueue = s.outQueue ∧ t.eventQueue = s.eventQueue)
    ∧ ((s.tree k).upkeep.dark = false → (s.tree k).tuning.lostThreshold ≤ m + 1 →
      ∃ t, exec (.burstReport k record) s = .next t
        ∧ t.entry h = { s.entry h with
            state := .lost, missCount := some (s.tree k).tuning.lostThreshold, lostSince := some (s.tree k).n,
            graceCount := some 0, trim := trim }
        ∧ (s.outQueue.length < 512 →
          t.outQueue = s.outQueue ++ [.roster k h .lost ((s.entry h).termClass.getD 0)])
        ∧ wrote s t .lost k h [oneField ((s.entry h).lastObserved.getD 0).toNat])
    ∧ ((s.tree k).upkeep.dark = true →
      ∃ t, exec (.burstReport k record) s = .next t ∧ t.entry h = { s.entry h with trim := trim }
        ∧ t.outQueue = s.outQueue ∧ t.eventQueue = s.eventQueue)

/-- The probe test of a boundary: a REGISTERED entry unseen for the probe interval, its age bounded at 32,768 cycles,
joins the end of the Probe Due list unless it is on it or has a probe in flight; a LOST one joins at whole multiples of
the interval since it was lost (R145, R146). A hit on a PROBE echo within the dead band clears probe in flight; status OK
makes leaving seen no, a first LEAVING makes it yes, the entry being REGISTERED then, found if it was LOST; a second
LEAVING in a row makes it DEPARTING with reason leave and one RELEASE, and LEFT is written (R143, R147, R148). The word of
LEFT has 0 in its unused half, DEDUCED (log 13); that the second LEAVING finds no LOST entry is R148's own. -/
def Obligations.ProbesAreMadeDueAndTheirEchoesJudged : Prop :=
  (∀ (k : TreeId) (h : Nat) (s : State), (s.entry h).inRoster = true →
    (s.tree k).tuning.probeInterval ≤ 32768 →
    let due := (s.tree k).upkeep.probeDue
    let interval := (s.tree k).tuning.probeInterval
    (∀ c, (s.entry h).lastObserved = some c →
      ((s.testProbe k h).entry h).lastObserved
        = some (if 32768 ≤ Cycle.distance c (s.tree k).n then (s.tree k).n - 32768 else c))
    ∧ (((s.entry h).probeInFlight ≠ some false ∨ h ∈ due) → ((s.testProbe k h).tree k).upkeep.probeDue = due)
    ∧ ((s.entry h).probeInFlight = some false → h ∉ due →
      (∀ c, (s.entry h).state = .registered → (s.entry h).lastObserved = some c →
        ((s.testProbe k h).tree k).upkeep.probeDue
          = if interval ≤ Cycle.distance c (s.tree k).n then due ++ [h] else due)
      ∧ ∀ c, (s.entry h).state = .lost → (s.entry h).lostSince = some c →
        ((s.testProbe k h).tree k).upkeep.probeDue
          = if Cycle.distance c (s.tree k).n ≠ 0 ∧ Cycle.distance c (s.tree k).n % interval = 0 then due ++ [h]
            else due))
  ∧ ∀ (k : TreeId) (record : ReportRecord) (c : Cycle) (i h arrival g : Nat) (status : EchoStatus) (r : Reservation)
    (b : Burst) (s : State),
    reportsOn s k record c i r b → r.kind = .echo → r.purpose = some .probe → r.handle = some h → r.outcome = none →
    b.matchesHandle h = true → b.arrival = some arrival → b.payload = some (.echo h status g) →
    (s.entry h).inRoster = true → (s.tree k).tuning.deadBand ≤ (s.tree k).tuning.hardLimit →
    ((arrival : Int) - r.start).natAbs ≤ (s.tree k).tuning.deadBand →
    ∃ t, exec (.burstReport k record) s = .next t
      ∧ (((status = .ok ∨ (s.entry h).leavingSeen ≠ some true) →
        (t.entry h).state = .registered ∧ (t.entry h).missCount = some 0 ∧ (t.entry h).lastObserved = some c
          ∧ (t.entry h).probeInFlight = some false ∧ (t.entry h).leavingSeen = some (status == .leaving)))
      ∧ (status = .leaving → (s.entry h).leavingSeen = some true →
        sameButClaim
          { Entry.free with
            state := .departing, mark := (s.entry h).mark, termClass := (s.entry h).termClass,
            reservedByHost := (s.entry h).reservedByHost, owed := some { kind := .release, sends := 1 },
            reason := some .leave } (t.entry h)
        ∧ wrote s t .left k h (markWords ((s.entry h).mark.getD 0) 0))

/-- A HELLO in a CALL window of an ACTIVE tree, its mark valid, under the window's head, neither barred nor known, with OPEN
admission, an enrollment slot free and a handle in the Free Pool, makes that handle's entry a CANDIDATE: the pool loses its
top, the mark joins the Mark Index, HELLO_OK counts and DISCOVERED is written (R26, R50, R113 to R119). That a backoff of 0
passes check 2 where B is 0 is the model's reading of R113, DEDUCED (log 15). -/
def Obligations.HelloOfAnUnknownMarkEnrolls : Prop :=
  ∀ (k : TreeId) (record : ReportRecord) (c : Cycle) (i h arrival termClass backoff : Nat) (rest : List Nat) (m : Mark)
    (r : Reservation) (b : Burst) (s : State),
    (s.tree k).state = .active → reportsOn s k record c i r b → r.kind = .quietCall →
    r.ended = false → r.bursts.length < 16 → b.result = .good →
    b.payload = some (.hello m termClass backoff) → b.arrival = some arrival →
    helloInWindow (r.head.getD { bits := 0, value := 0 }) (s.tree k).config.backoff m backoff = true →
    s.findBar m = none → s.findMark m = none → (s.tree k).tuning.admission = 0 → s.slotsInUse k < 8 →
    (s.tree k).freePool = h :: rest →
    let sample := ((r.answerPoint.getD 0 : Nat) : Int) + backoff - arrival
    ∃ t, exec (.burstReport k record) s = .next t
      ∧ sameButClaim
          { Entry.free with
            state := .candidate, mark := some m, termClass := some termClass, reservedByHost := some false,
            lastSample := if (s.tree k).config.validSample sample then some sample else none,
            measureAttempts := some 0, origin := some .enroll } (t.entry h)
      ∧ (t.tree k).freePool = rest ∧ t.findMark m = some h
      ∧ (t.tree k).counters.helloOk = (s.tree k).counters.helloOk + 1
      ∧ wrote s t .discovered k h (markWords m termClass)

/-- The bursts and HELLOs of a CALL window that change no entry: a burst that is not GOOD does nothing at intake; a GOOD
one on a HELD tree marks the call record; one that is no HELLO, or whose mark or backoff check 2 turns away, is dropped.
After check 2: a barred mark with BARRED; a mark held on another tree with MISPLACED or MARK_CLASH; a HUSHED or DEPARTING
entry, and a CANDIDATE whose window is granted; a roster, RERANGING or RESERVED entry with 8 enrollment slots in use,
counting ENROLL_BUSY; an unknown mark under LISTED admission with STRANGER, with 8 slots in use, or with an empty Free
Pool with TABLE_FULL (R24, R111 to R118). The unused half of TABLE_FULL's mark word is 0, DEDUCED (log 13). -/
def Obligations.HelloDropsChangeNoEntry : Prop :=
  (∀ (k : TreeId) (head : MarkHead) (point : Nat) (b : Burst) (s : State),
    let t := s.intake k head point b
    (b.result ≠ .good → t = s)
    ∧ (b.result = .good → (s.tree k).state = .held → helloDropped k s t
      ∧ (t.tree k).discovery.call = (s.tree k).discovery.call.map fun r => { r with heldIgnored := true })
    ∧ (b.result = .good → (s.tree k).state ≠ .held → (∀ m termClass n, b.payload ≠ some (.hello m termClass n)) →
      helloDropped k s t)
    ∧ ∀ m termClass n, b.result = .good → (s.tree k).state ≠ .held → b.payload = some (.hello m termClass n) →
      (m = 0 ∨ m = BitVec.allOnes 48 ∨ m.toNat / 2 ^ (48 - head.bits) ≠ head.value
        ∨ ((s.tree k).config.backoff.grains ≤ n ∧ n ≠ 0)) →
      helloDropped k s t)
  ∧ ∀ (k : TreeId) (m : Mark) (termClass : Nat) (sample : Option Int) (s : State),
    let t := s.judgeHello k { mark := m, termClass := termClass, sample := sample }
    (∀ b, s.findBar m = some b →
      helloDropped k s t ∧ (b.kind = .permanent → wrote s t .barred k 0 (markWords m 1))
        ∧ (b.kind ≠ .permanent → wrote s t .barred k 0 (markWords m 2)))
    ∧ (s.findBar m = none →
      (∀ h j, s.findMark m = some h → s.treeOf h = some j → j ≠ k →
        helloDropped k s t
          ∧ ((s.entry h).state = .reserved → wrote s t .misplaced k h (markWords m j.val))
          ∧ ((s.entry h).state ≠ .reserved → wrote s t .markClash k h (markWords m j.val)))
      ∧ (∀ h, s.findMark m = some h → s.treeOf h = some k →
        ((s.entry h).state = .hushed ∨ (s.entry h).state = .departing
          ∨ ((s.entry h).state = .candidate ∧ (s.entry h).measureCycle ≠ none) →
          helloDropped k s t ∧ t.eventQueue = s.eventQueue)
        ∧ ((s.entry h).inRoster = true ∨ (s.entry h).state = .reranging ∨ (s.entry h).state = .reserved →
          8 ≤ s.slotsInUse k →
          helloDropped k s t ∧ t.eventQueue = s.eventQueue
            ∧ (t.tree k).counters.enrollBusy = (s.tree k).counters.enrollBusy + 1))
      ∧ (s.findMark m = none →
        ((s.tree k).tuning.admission = 1 → helloDropped k s t ∧ wrote s t .stranger k 0 (markWords m termClass))
        ∧ ((s.tree k).tuning.admission = 0 → 8 ≤ s.slotsInUse k →
          helloDropped k s t ∧ t.eventQueue = s.eventQueue
            ∧ (t.tree k).counters.enrollBusy = (s.tree k).counters.enrollBusy + 1)
        ∧ ((s.tree k).tuning.admission = 0 → s.slotsInUse k < 8 → (s.tree k).freePool = [] →
          helloDropped k s t ∧ (t.tree k).indications.tableFull = true
            ∧ wrote s t .tableFull k 0 (markWords m 0))))

/-- A HELLO of a mark that is not barred and whose entry stands on the same tree. SETTLING, or in the roster or RERANGING
with an enrollment slot free: a rejoin, the entry CANDIDATE with the HELLO's class and sample, REJOIN written with the
state left (its word DEDUCED, log 13). CANDIDATE with no window granted: class and a valid sample refreshed, nothing
written. RESERVED with a slot free: CANDIDATE, DISCOVERED written. Each counts HELLO_OK (R24, R115 to R117, R119). -/
def Obligations.HelloOfAKnownMarkRejoinsRefreshesOrEnrolls : Prop :=
  ∀ (k : TreeId) (m : Mark) (h termClass : Nat) (sample : Option Int) (s : State),
    s.findBar m = none → s.findMark m = some h → s.treeOf h = some k →
    let t := s.judgeHello k { mark := m, termClass := termClass, sample := sample }
    let candidate : Entry := { Entry.free with
      state := .candidate, mark := (s.entry h).mark, termClass := some termClass,
      reservedByHost := (s.entry h).reservedByHost, lastSample := sample, measureAttempts := some 0,
      origin := some .enroll, owed := (s.entry h).owed }
    let ok := (t.tree k).counters.helloOk = (s.tree k).counters.helloOk + 1
      ∧ (t.tree k).counters.helloDiscarded = (s.tree k).counters.helloDiscarded ∧ t.markIndex = s.markIndex
    ((s.entry h).state = .settling
        ∨ (((s.entry h).inRoster = true ∨ (s.entry h).state = .reranging) ∧ s.slotsInUse k < 8) →
      sameButClaim candidate (t.entry h) ∧ ok ∧ othersKept h s t
        ∧ wrote s t .rejoin k h [oneField (s.entry h).state.code])
    ∧ ((s.entry h).state = .candidate → (s.entry h).measureCycle = none →
      t.entry h = { s.entry h with termClass := some termClass, lastSample := sample.or (s.entry h).lastSample }
        ∧ ok ∧ t.eventQueue = s.eventQueue ∧ t.outQueue = s.outQueue ∧ ∀ j, j ≠ h → t.entry j = s.entry j)
    ∧ ((s.entry h).state = .reserved → s.slotsInUse k < 8 →
      sameButClaim candidate (t.entry h) ∧ ok ∧ othersKept h s t
        ∧ wrote s t .discovered k h (markWords m termClass))

/-- The sample of a measuring window: one burst, GOOD, an ANSWER of the entry's mark and handle, in the valid range
(R122). The end of a measuring window of a CANDIDATE or RERANGING entry that holds its cycle: the measure attempts count;
an agreeing pair makes the entry SETTLING with the lower half of the pair's sum as settle sample and puts it on the Settle
Due list, a RERANGING one only with an enrollment slot free. A first sample, one that disagrees, or one that agrees
without a free slot becomes the last sample, and a window without a sample leaves it: with attempts left the next request
is made, with none left ranging fails, the entry departing with one RELEASE, and MEASURE_FAILED names the cause MEASURE. A
result for any other entry or cycle changes no entry and writes nothing (R25, R122, R125 to R130). That MEASURE_FAILED
stands before whatever else the failure writes is the model's, a DESIGN CHOICE (log 7). -/
def Obligations.MeasuringWindowPairsSamples : Prop :=
  (∀ (c : TreeConfig) (e : Entry) (h point : Nat) (bursts : List Burst) (v : Int),
    c.windowSample e h point bursts = some v ↔ ∃ (b : Burst) (m : Mark) (arrival : Nat), bursts = [b] ∧ b.result = .good
      ∧ b.payload = some (.answer m h) ∧ e.mark = some m ∧ b.arrival = some arrival ∧ v = (point : Int) - arrival
      ∧ (c.teq.toNat : Int) - c.maxRtt.toNat ≤ v ∧ v ≤ (c.teq.toNat : Int) - c.minRtt.toNat)
  ∧ ∀ (k : TreeId) (record : ReportRecord) (c : Cycle) (i h : Nat) (r : Reservation) (b : Burst) (s : State),
    reportsOn s k record c i r b → r.kind = .quietMeasure →
    r.handle = some h → r.ended = false → b.result = .windowEnd →
    let e := s.entry h
    let drawn := (s.tree k).config.windowSample e h (r.answerPoint.getD 0) r.bursts
    let agrees (sample : Int) : Prop :=
      ∃ last : Int, e.lastSample = some last ∧ (sample - last).natAbs ≤ (s.tree k).tuning.tolerance
    (∀ n : Nat, (e.state = .candidate ∨ e.state = .reranging) → e.measureCycle = some c → e.measureAttempts = some n →
      let judged (last : Option Int) : Prop :=
        let kept := { e with lastSample := last, measureAttempts := some (min (n + 1) 7), measureCycle := none }
        (min (n + 1) 7 < (s.tree k).tuning.measureAttempts →
          ∃ u : State, exec (.burstReport k record) s = .next (u.requestRanging k h) ∧ u.entry h = kept
            ∧ sameButClaim kept ((u.requestRanging k h).entry h)
            ∧ (u.tree k).calendar.claims = (s.tree k).calendar.claims ∧ u.outQueue = s.outQueue
            ∧ u.eventQueue = s.eventQueue)
        ∧ ((s.tree k).tuning.measureAttempts ≤ min (n + 1) 7 →
          ∃ (u : State) (more : List EventWord), exec (.burstReport k record) s = .next (u.failRanging k h 0)
            ∧ u.entry h = kept ∧ u.bars = s.bars
            ∧ ((u.failRanging k h 0).entry h).state = .departing
            ∧ ((u.failRanging k h 0).entry h).reason = some .measureFailure
            ∧ ((u.failRanging k h 0).entry h).owed = some { kind := .release, sends := 1 }
            ∧ (s.eventQueue.length + 3 ≤ 1024 →
              (u.failRanging k h 0).eventQueue = s.eventQueue ++ eventHeader .measureFailed k h [0, 0]
                :: (markWords (e.mark.getD 0) (byteFields e.state.code 0) ++ more)))
      (∀ sample last : Int, drawn = some sample → e.lastSample = some last →
        (sample - last).natAbs ≤ (s.tree k).tuning.tolerance →
        (e.state = .candidate ∨ s.slotsInUse k < 8) →
        ∃ t, exec (.burstReport k record) s = .next t
          ∧ sameButClaim
              { Entry.free with
                state := .settling, mark := e.mark, termClass := e.termClass, reservedByHost := e.reservedByHost,
                lastSample := some sample, measureAttempts := some (min (n + 1) 7), origin := e.origin,
                settleSample := some ((sample + last) / 2).toNat, settleAttempts := some 0, owed := e.owed }
              (t.entry h)
          ∧ h ∈ (t.tree k).calendar.settleDue)
      ∧ (∀ sample : Int, drawn = some sample →
        ¬ agrees sample ∨ (e.state = .reranging ∧ 8 ≤ s.slotsInUse k) → judged (some sample))
      ∧ (drawn = none → judged e.lastSample))
    ∧ (((e.state ≠ .candidate ∧ e.state ≠ .reranging) ∨ e.measureCycle ≠ some c) →
      ∃ t, exec (.burstReport k record) s = .next t ∧ t.entries = s.entries ∧ t.eventQueue = s.eventQueue
        ∧ t.outQueue = s.outQueue ∧ (t.tree k).calendar.claims = (s.tree k).calendar.claims)

/-- The report on a SETTLE echo slot of a SETTLING entry: an ACCEPT within the tolerance makes it REGISTERED with the
settle sample as delay and generation 0, counts it and writes REGISTERED; one beyond it returns the entry to measuring,
CANDIDATE when its ranging origin is ENROLL and RERANGING when it is RERANGE or FORCED, measure attempts and origin kept,
with a new claim request and no event; one that is no ACCEPT puts the entry back on the Settle Due list below the third
attempt, and at the third ranging fails, the entry departing with one RELEASE (R129, R131 to R133, R135, R136). -/
def Obligations.SettleEchoIsJudged : Prop :=
  ∀ (k : TreeId) (record : ReportRecord) (c : Cycle) (i h : Nat) (r : Reservation) (b : Burst) (s : State),
    reportsOn s k record c i r b → r.kind = .echo →
    r.purpose = some .settle → r.handle = some h → r.outcome = none →
    (s.entry h).state = .settling → (s.entry h).settleEchoCycle = some c →
    (∀ arrival : Nat, b.isAccept h = true → b.arrival = some arrival →
      (((arrival : Int) - r.start).natAbs ≤ (s.tree k).tuning.tolerance →
        ∃ t, exec (.burstReport k record) s = .next t
          ∧ t.entry h =
            { Entry.free with
              state := .registered, mark := (s.entry h).mark, termClass := (s.entry h).termClass,
              reservedByHost := (s.entry h).reservedByHost, delay := (s.entry h).settleSample, generation := some 0,
              missCount := some 0, lastObserved := some c, trim := some .none, probeInFlight := some false,
              leavingSeen := some false, owed := (s.entry h).owed }
          ∧ (t.tree k).counters.registrations = (s.tree k).counters.registrations + 1
          ∧ h ∉ (t.tree k).calendar.settleDue
          ∧ wrote s t .registered k h
            [halves ((s.entry h).settleSample.getD 0) (((s.entry h).origin.getD .enroll).code)]
          ∧ (s.outQueue.length < 512 →
            t.outQueue = s.outQueue ++ [.roster k h .registered ((s.entry h).termClass.getD 0)]))
      ∧ (∀ origin : RangingOrigin, (s.tree k).tuning.tolerance < ((arrival : Int) - r.start).natAbs →
        (s.entry h).origin = some origin →
        let back : Entry := { Entry.free with
          state := match origin with | .enroll => .candidate | .rerange | .forced => .reranging
          mark := (s.entry h).mark, termClass := (s.entry h).termClass,
          reservedByHost := (s.entry h).reservedByHost, measureAttempts := (s.entry h).measureAttempts,
          origin := some origin, owed := (s.entry h).owed }
        ∃ u t : State, exec (.burstReport k record) s = .next t ∧ t = u.requestRanging k h
          ∧ u.entry h = back ∧ sameButClaim back (t.entry h)
          ∧ (u.tree k).calendar.claims = (s.tree k).calendar.claims ∧ u.outQueue = s.outQueue
          ∧ h ∉ (t.tree k).calendar.settleDue ∧ t.eventQueue = s.eventQueue))
    ∧ ∀ n : Nat, b.isAccept h = false → (s.entry h).settleAttempts = some n →
      (n < 3 →
        ∃ t, exec (.burstReport k record) s = .next t
          ∧ t.entry h = { s.entry h with settleEchoCycle := none }
          ∧ (t.tree k).calendar.settleDue = (s.tree k).calendar.settleDue.filter (· != h) ++ [h])
      ∧ (3 ≤ n →
        ∃ t, exec (.burstReport k record) s = .next t ∧ (t.entry h).state = .departing
          ∧ (t.entry h).reason = some .measureFailure ∧ (t.entry h).owed = some { kind := .release, sends := 1 }
          ∧ h ∉ (t.tree k).calendar.settleDue)

/-- Ranging fails on a CANDIDATE, SETTLING or RERANGING entry: DEPARTING with one RELEASE and reason measure failure,
MEASURE_FAILED written with the mark, the state left and the cause, and counted. With a hold-off of 0 the Bar List stays.
Else the rows of R31: a PERMANENT record of the mark stays; a TIMED one is refreshed in its place; with none the new TIMED
record joins the end, the one of least remaining hold-off, earliest among equals, leaving a full list; with 32 PERMANENT
records BAR_LIST_FULL is written instead (R31, R129). The model's own: the unused half of BAR_LIST_FULL's mark word is 0,
DEDUCED (log 13), and MEASURE_FAILED stands before BAR_LIST_FULL, a DESIGN CHOICE (log 7; R190 leaves the order open). -/
def Obligations.RangingFailureDepartsAndBars : Prop :=
  ∀ (k : TreeId) (h cause : Nat) (m : Mark) (s : State),
    ((s.entry h).state = .candidate ∨ (s.entry h).state = .settling ∨ (s.entry h).state = .reranging) →
    (s.entry h).mark = some m →
    let t := s.failRanging k h cause
    let holdOff := (s.tree k).tuning.holdOff
    let failed := [eventHeader .measureFailed k h [0, 0]] ++ markWords m (byteFields (s.entry h).state.code cause)
    sameButClaim
      { Entry.free with
        state := .departing, mark := (s.entry h).mark, termClass := (s.entry h).termClass,
        reservedByHost := (s.entry h).reservedByHost, owed := some { kind := .release, sends := 1 },
        reason := some .measureFailure } (t.entry h)
    ∧ othersKept h s t
    ∧ (t.tree k).counters.measureFails = (s.tree k).counters.measureFails + 1
    ∧ (holdOff = 0 ∨ (∃ b, s.findBar m = some b) ∨ s.bars.length < 32 → s.eventQueue.length + 3 ≤ 1024 →
      t.eventQueue = s.eventQueue ++ failed)
    ∧ (holdOff = 0 → t.bars = s.bars)
    ∧ (holdOff ≠ 0 →
      (∀ b, s.findBar m = some b → b.kind = .permanent → t.bars = s.bars)
      ∧ (∀ b, s.findBar m = some b → b.kind ≠ .permanent →
        t.bars = s.bars.map fun r => if r.mark = m then { mark := m, kind := .timed k holdOff 0 } else r)
      ∧ (s.findBar m = none → s.bars.length < 32 → t.bars = s.bars ++ [{ mark := m, kind := .timed k holdOff 0 }])
      ∧ (∀ before b after least, s.findBar m = none → 32 ≤ s.bars.length → s.bars = before ++ b :: after →
        b.holdOff? = some least → (∀ r ∈ before, ∀ n, r.holdOff? = some n → least < n) →
        (∀ r ∈ after, ∀ n, r.holdOff? = some n → least ≤ n) →
        t.bars = before ++ after ++ [{ mark := m, kind := .timed k holdOff 0 }])
      ∧ (s.findBar m = none → 32 ≤ s.bars.length → (∀ r ∈ s.bars, r.kind = .permanent) →
        t.bars = s.bars ∧ (s.eventQueue.length + 6 ≤ 1024 →
          t.eventQueue = s.eventQueue ++ failed ++ [eventHeader .barListFull k h [0, 0]] ++ markWords m 0)))

/-- A request reaches the Window Calendar. A ranging request: with a measure cycle held or a request of the handle waiting
it is not taken (R65; that a waiting one stands is DEDUCED, log 31). With an eligible slot, OPEN or PLANNED in the horizon
and clear of the window at the quiet-window position, the one nearest after N takes it: CLAIMED or FILLED, with the
QUIET_MEASURE and its answer point, QUIET made, and the entry's measure cycle the slot's. With none it waits, after every
request of its kind and of a higher one, every other request in its place (R5, R61, R65, R66, R95, R123). A CALL request:
on a tree that is HELD, DARK or ROGUE, or while a CALL waits or stands granted in a slot not yet SENT, it is not taken
(R65, R70). The discovery engine asks for the CALL of the top of the Split Stack when the round runs with no call record
on a tree that may ask, and only then; the CALL is granted, with its span, answer point, head and QUIET, or waits (R66,
R95, R104, R106). -/
def Obligations.ClaimRequestIsGrantedOrWaits : Prop :=
  (∀ (k : TreeId) (h position : Nat) (origin : RangingOrigin) (s : State),
    (s.entry h).state ≠ .free → (s.entry h).origin = some origin → (s.tree k).calendar.quietPosition = some position →
    (s.tree k).calendar.ring.map Slot.cycle = ringCycles (s.tree k).n →
    let x := s.tree k
    let q := Claim.ofOrigin origin h
    let span := x.config.maxRtt.toNat - x.config.minRtt.toNat + 80
    let t := s.requestRanging k h
    (((s.entry h).measureCycle ≠ none ∨ ∃ p ∈ x.calendar.claims, p.handle? = some h) → t = s)
    ∧ ((s.entry h).measureCycle = none → (∀ p ∈ x.calendar.claims, p.handle? ≠ some h) →
      (∀ j ∈ x.calendar.ring, j.takesWindow x.n position span →
        (∀ i ∈ x.calendar.ring, i.takesWindow x.n position span →
          Cycle.distance x.n j.cycle ≤ Cycle.distance x.n i.cycle) →
        (t.tree k).calendar.slot? j.cycle = some { j with
            state := if j.state = .opened then .claimed else .filled
            reservations := insertReservation { Reservation.bare .quietMeasure position span with
              handle := some h, answerPoint := some (position + (x.config.teq.toNat - x.config.minRtt.toNat)) }
              j.reservations }
          ∧ (∀ c, c ≠ j.cycle → (t.tree k).calendar.slot? c = x.calendar.slot? c)
          ∧ (t.tree k).calendar.claims = x.calendar.claims
          ∧ t.entry h = { s.entry h with measureCycle := some j.cycle }
          ∧ (s.outQueue.length < 512 → t.outQueue = s.outQueue ++ [.quiet k j.cycle position span]))
      ∧ ((∀ j ∈ x.calendar.ring, ¬ j.takesWindow x.n position span) →
        ∃ before after, x.calendar.claims = before ++ after
          ∧ (t.tree k).calendar.claims = before ++ q :: after
          ∧ (∀ p ∈ before, p.rank ≤ q.rank) ∧ (∀ p ∈ after.head?, q.rank < p.rank)
          ∧ (t.tree k).calendar.ring = x.calendar.ring ∧ t.entries = s.entries ∧ t.outQueue = s.outQueue)))
  ∧ (∀ (k : TreeId) (head : MarkHead) (s : State),
    ((s.tree k).state ≠ .active ∨ (s.tree k).upkeep.dark = true ∨ (s.tree k).rogue.rogue = true
      ∨ (∃ p ∈ (s.tree k).calendar.claims, p.handle? = none)
      ∨ ∃ j ∈ (s.tree k).calendar.ring, j.state.unsent = true ∧ ∃ r ∈ j.reservations, r.kind = .quietCall) →
    s.requestClaim k (.call head) = s)
  ∧ ∀ (k : TreeId) (s : State),
    let d := (s.tree k).discovery
    let may := (s.tree k).state = .active ∧ (s.tree k).upkeep.dark = false ∧ (s.tree k).rogue.rogue = false
    ((d.running = false ∨ d.call ≠ none ∨ d.stack = [] ∨ ¬ may) → s.tryCall k = s)
    ∧ ∀ head rest, d.running = true → d.call = none → d.stack = head :: rest → may →
      ((s.tryCall k).tree k).discovery.stack = rest ∧ callAskedFor k head s (s.tryCall k)

/-- After a pass of arbitration no waiting request has an eligible slot, those left stand in their order, every one that
left stands in a slot of the horizon as the quiet window of its kind, and every frame the pass made is a QUIET (R66, R67).
An entry that leaves measuring has its waiting request withdrawn with no frame, the others keeping their order; its
granted window in a slot not yet SENT is cancelled, with QUIET_CANCEL, the slot OPEN or PLANNED again with its grants
unless a waiting request takes it; and its measure cycle becomes absent (R68, R69). -/
def Obligations.ArbitrationWithdrawalAndCancellation : Prop :=
  (∀ (k : TreeId) (s : State),
    let w := ((s.arbitrate k).tree k).calendar
    w.claims.Sublist (s.tree k).calendar.claims
      ∧ (∀ q ∈ (s.tree k).calendar.claims, q ∉ w.claims → ∃ j ∈ w.ring, (j.state = .claimed ∨ j.state = .filled)
        ∧ 7 ≤ Cycle.distance (s.tree k).n j.cycle ∧ Cycle.distance (s.tree k).n j.cycle ≤ 14
        ∧ (s.tree k).windowFor q ∈ j.reservations)
      ∧ (∀ q ∈ w.claims, ∀ j ∈ w.ring, ((s.arbitrate k).tree k).eligible q j = false)
      ∧ ∃ more, (s.arbitrate k).outQueue = s.outQueue ++ more ∧ ∀ f ∈ more, ∃ c start length, f = .quiet k c start length)
  ∧ ∀ (k : TreeId) (h : Nat) (s : State), (s.entry h).state ≠ .free →
    let t := s.dropClaim k h
    let w := (s.tree k).calendar
    (t.entry h).measureCycle = none ∧ othersKept h s t
    ∧ ((∀ j ∈ w.ring, j.state.unsent = true → ∀ r ∈ j.reservations, ¬ (r.kind = .quietMeasure ∧ r.handle = some h)) →
      (t.tree k).calendar.claims = w.claims.filter (fun q => q.handle? != some h)
        ∧ (t.tree k).calendar.ring = w.ring ∧ t.outQueue = s.outQueue)
    ∧ ∀ j r, w.slot? j.cycle = some j → (j.state = .claimed ∨ j.state = .filled) → r ∈ j.reservations →
      r.kind = .quietMeasure → r.handle = some h →
      (∀ i ∈ w.ring, i ≠ j → ∀ p ∈ i.reservations, ¬ (p.kind = .quietMeasure ∧ p.handle = some h)) →
      (s.outQueue.length < 512 → ∃ more, t.outQueue = s.outQueue ++ .quietCancel k j.cycle :: more)
      ∧ ((∀ q ∈ w.claims, q.handle? = some h) →
        (t.tree k).calendar.slot? j.cycle = some { j with
          state := if j.state = .claimed then .opened else .planned
          reservations := j.reservations.filter fun r => !r.isQuiet })

/-- The result of a CALL window on air. On a HELD tree, or after HELLOs were ignored, the window is not judged and its
head is asked again. A collided one, with a BAD_CHECK or EDGE burst, is counted and its head split, the 0-half asked next
and the 1-half left on the Split Stack; at 16 bits SPLIT_DEPTH is written instead. Any other finishes its head. The round
goes on with the top of the stack where the tree may ask for a CALL, that CALL being granted or waiting, waits where it
may not, and ends when the stack is empty (R66, R104, R106 to R108). -/
def Obligations.CallWindowResultIsJudged : Prop :=
  ∀ (k : TreeId) (c : Cycle) (bursts : List Burst) (r : CallRecord) (s : State),
    (s.tree k).discovery.call = some r → r.stage = .onAir c → (s.tree k).discovery.running = true →
    let d := (s.tree k).discovery
    let t := s.callResult k c bursts
    let e := (t.tree k).discovery
    let zero : MarkHead := { bits := r.head.bits + 1, value := 2 * r.head.value }
    let one : MarkHead := { bits := r.head.bits + 1, value := 2 * r.head.value + 1 }
    let collision := ∃ b ∈ bursts, b.result = .badCheck ∨ b.result = .edge
    let count := (t.tree k).counters.collisionWindows
    ((s.tree k).state = .held ∨ r.heldIgnored = true → (s.tree k).mayCall = false →
      e.call = none ∧ e.stack = r.head :: d.stack ∧ e.running = true
        ∧ count = (s.tree k).counters.collisionWindows ∧ t.eventQueue = s.eventQueue)
    ∧ (r.heldIgnored = true → (s.tree k).mayCall = true →
      e.call.map CallRecord.head = some r.head ∧ callAskedFor k r.head s t ∧ e.stack = d.stack ∧ e.running = true
        ∧ count = (s.tree k).counters.collisionWindows ∧ t.eventQueue = s.eventQueue)
    ∧ ((s.tree k).state ≠ .held → r.heldIgnored = false →
      (collision → r.head.bits < 16 → count = (s.tree k).counters.collisionWindows + 1 ∧ e.running = true
        ∧ ((s.tree k).mayCall = true → e.call.map CallRecord.head = some zero ∧ callAskedFor k zero s t
          ∧ e.stack = one :: d.stack)
        ∧ ((s.tree k).mayCall = false → e.call = none ∧ e.stack = zero :: one :: d.stack))
      ∧ (collision → 16 ≤ r.head.bits → count = (s.tree k).counters.collisionWindows + 1
        ∧ wrote s t .splitDepth k 0 [halves r.head.value c.toNat])
      ∧ (¬ collision → count = (s.tree k).counters.collisionWindows ∧ t.eventQueue = s.eventQueue)
      ∧ (¬ collision ∨ 16 ≤ r.head.bits →
        (d.stack = [] → e.call = none ∧ e.stack = [] ∧ e.running = false)
        ∧ (∀ top rest, d.stack = top :: rest → (s.tree k).mayCall = true →
          e.call.map CallRecord.head = some top ∧ callAskedFor k top s t ∧ e.stack = rest ∧ e.running = true)
        ∧ (∀ top rest, d.stack = top :: rest → (s.tree k).mayCall = false →
          e.call = none ∧ e.stack = d.stack ∧ e.running = true)))

/-- An echo slot goes to the lowest start at which its grains lie in PART segments clear of every reservation, and to none
when there is no such start. The candidates are the Settle Due list and then the Probe Due list, 4 in all; they are placed
in turn, each at the lowest start among the reservations as they then stand, until one finds none. Placing one puts an
80-grain ECHO in the slot and takes the handle off its list; a SETTLE counts an attempt and sets the settle echo cycle, a
PROBE puts a probe in flight (R73). -/
def Obligations.EchoSlotTakesTheLowestStart : Prop :=
  (∀ (c : TreeConfig) (rs : List Reservation),
    (∀ start, c.echoStart rs = some start ↔
      c.echoFits rs start = true ∧ ∀ g, c.echoFits rs g = true → start ≤ g)
    ∧ (c.echoStart rs = none ↔ ∀ g, c.echoFits rs g = false))
  ∧ (∀ x : Tree, x.echoRequests.length ≤ 4
    ∧ x.echoRequests <+: x.calendar.settleDue.map (EchoPurpose.settle, ·) ++ x.upkeep.probeDue.map (EchoPurpose.probe, ·))
  ∧ (∀ (k : TreeId) (c : Cycle) (s : State), s.placeEchoes k c [] = s
    ∧ ∀ purpose h rest,
      (∀ start, (s.tree k).config.echoStart (s.reservationsOf k c) = some start →
        s.placeEchoes k c ((purpose, h) :: rest) = (s.placeEcho k c purpose h start).placeEchoes k c rest)
      ∧ ((s.tree k).config.echoStart (s.reservationsOf k c) = none → s.placeEchoes k c ((purpose, h) :: rest) = s))
  ∧ ∀ (k : TreeId) (c : Cycle) (h start : Nat) (slot : Slot) (s : State), (s.entry h).state ≠ .free →
    (s.tree k).calendar.slot? c = some slot →
    let echo (purpose : EchoPurpose) : Reservation :=
      { Reservation.bare .echo start 80 with handle := some h, purpose := some purpose }
    let settled := s.placeEcho k c .settle h start
    let probed := s.placeEcho k c .probe h start
    (settled.tree k).calendar.slot? c
        = some { slot with reservations := insertReservation (echo .settle) slot.reservations }
      ∧ (settled.tree k).calendar.settleDue = (s.tree k).calendar.settleDue.filter (· != h)
      ∧ (settled.tree k).upkeep = (s.tree k).upkeep
      ∧ settled.entry h = { s.entry h with
          settleAttempts := (s.entry h).settleAttempts.map (· + 1), settleEchoCycle := some c }
      ∧ (probed.tree k).calendar.slot? c
        = some { slot with reservations := insertReservation (echo .probe) slot.reservations }
      ∧ (probed.tree k).upkeep.probeDue = (s.tree k).upkeep.probeDue.filter (· != h)
      ∧ (probed.tree k).calendar.settleDue = (s.tree k).calendar.settleDue
      ∧ probed.entry h = { s.entry h with probeInFlight := some true }

/-- The send of cycle N + 6: the slot is SENT with its reservations and at most 4 echo slots more, and one that never had
a plan counts PLANS_MISSING. The bundle handed to the framer is the tree, the cycle, the two counts, the reservation
entries in the slot's order and the messages: one for each quiet window and echo slot, and then the queued ones that the
choice of R162 gives, at most 4 (R6, R7, R73, R74, R94). The echo slots are those that the candidates take in turn; a CALL
granted to the slot goes ON_AIR, and any other call record stays (R73, R106); what the send of the messages does follows
(R163). The bytes of each kind of message are those of its layout, ending with their check code (R8 to R10, R17). What the
messages take from entries is said of entries in their one form (canonical, which every step keeps). -/
def Obligations.SendFormsTheBundle : Prop :=
  (∀ (k : TreeId) (slot : Slot) (s : State),
    let c := (s.tree k).n + 6
    let t := s.sendSlot k
    (s.tree k).calendar.slot? c = some slot →
    ∃ (y : Slot) (tied : List DownMessage) (queued : List QueuedMessage),
      (t.tree k).calendar.slot? c = some y ∧ y.state = .sent ∧ y.stray = slot.stray
      ∧ slot.reservations.Sublist y.reservations ∧ y.reservations.length ≤ slot.reservations.length + 4
      ∧ (∀ r ∈ y.reservations, r ∈ slot.reservations
        ∨ (r.kind = .echo ∧ r.length = 80 ∧ ∃ h, r.handle = some h
          ∧ ((r.purpose = some .settle ∧ h ∈ (s.tree k).calendar.settleDue)
            ∨ (r.purpose = some .probe ∧ h ∈ (s.tree k).upkeep.probeDue))))
      ∧ (t.tree k).handover = [BitVec.ofNat 8 k.val] ++ bytesOf 2 c.toNat
        ++ [BitVec.ofNat 8 y.reservations.length, BitVec.ofNat 8 (tied.length + queued.length)]
        ++ y.reservations.flatMap Reservation.bytes ++ (tied ++ queued.map QueuedMessage.toDown).flatMap DownMessage.bytes
      ∧ y.reservations = (s.placeEchoes k c (s.tree k).echoRequests).reservationsOf k c
      ∧ (∀ r, (s.tree k).discovery.call = some r → (t.tree k).discovery.call
        = some { r with stage := if r.stage = .granted c then .onAir c else r.stage })
      ∧ (∃ u : State, t = u.sendMessages k c y.reservations ∧ (u.tree k).control = (s.tree k).control
        ∧ ∀ h, u.entry h = (s.placeEchoes k c (s.tree k).echoRequests).entry h)
      ∧ (s.canonical → queued = (s.chooseMessages k y.reservations).1)
      ∧ tied.length = y.reservations.countP (fun r => r.kind != .grant) ∧ queued.length ≤ 4
      ∧ (∀ r ∈ y.reservations,
        (r.kind = .quietCall → DownMessage.call c (r.answerPoint.getD 0) (s.tree k).config.backoff
          (r.head.getD { bits := 0, value := 0 }) ∈ tied)
        ∧ (∀ h, s.canonical → r.kind = .quietMeasure → r.handle = some h →
          DownMessage.measure ((s.entry h).mark.getD 0) h c (r.answerPoint.getD 0) ∈ tied)
        ∧ (∀ h, s.canonical → r.kind = .echo → r.purpose = some .settle → r.handle = some h →
          DownMessage.settle ((s.entry h).mark.getD 0) h ((s.entry h).settleSample.getD 0) 0 r.start ∈ tied)
        ∧ (∀ h, r.kind = .echo → r.purpose = some .probe → r.handle = some h → DownMessage.probe h r.start ∈ tied))
      ∧ (t.tree k).counters.plansMissing = (s.tree k).counters.plansMissing
        + (if slot.state = .opened ∨ slot.state = .claimed then 1 else 0))
  ∧ (∀ v : Nat, bytesOf 1 v = [BitVec.ofNat 8 v] ∧ bytesOf 2 v = [BitVec.ofNat 8 (v / 256), BitVec.ofNat 8 v]
    ∧ bytesOf 3 v = BitVec.ofNat 8 (v / 2 ^ 16) :: bytesOf 2 v)
  ∧ ∀ (m : Mark) (h point start delay g : Nat) (c : Cycle) (range : BackoffRange) (head : MarkHead) (amount : Int),
    let sealed (body : List Byte) := body ++ bytesOf 2 (checkCode body).toNat
    let mark := bytesOf 2 (m.toNat / 2 ^ 32) ++ bytesOf 2 (m.toNat / 2 ^ 16) ++ bytesOf 2 m.toNat
    (DownMessage.call c point range head).bytes = sealed ([0x01] ++ bytesOf 2 c.toNat ++ bytesOf 3 point
        ++ [match range with | .b0 => 0 | .b512 => 1 | .b1024 => 2 | .b2048 => 3, BitVec.ofNat 8 head.bits]
        ++ bytesOf 2 (head.value * 2 ^ (16 - head.bits)))
      ∧ (DownMessage.measure m h c point).bytes
        = sealed ([0x02] ++ mark ++ bytesOf 2 h ++ bytesOf 2 c.toNat ++ bytesOf 3 point)
      ∧ (DownMessage.settle m h delay g start).bytes
        = sealed ([0x03] ++ mark ++ bytesOf 2 h ++ bytesOf 2 delay ++ [BitVec.ofNat 8 g] ++ bytesOf 2 start)
      ∧ (DownMessage.probe h start).bytes = sealed ([0x04] ++ bytesOf 2 h ++ bytesOf 2 start)
      ∧ (DownMessage.trim h amount g).bytes
        = sealed ([0x05] ++ bytesOf 2 h ++ bytesOf 2 (BitVec.ofInt 16 amount).toNat ++ [BitVec.ofNat 8 g])
      ∧ (DownMessage.release h m).bytes = sealed ([0x06] ++ bytesOf 2 h ++ mark)
      ∧ (DownMessage.hush h).bytes = sealed ([0x07] ++ bytesOf 2 h)
      ∧ (DownMessage.unhush h).bytes = sealed ([0x08] ++ bytesOf 2 h)

/-- What a closed cycle makes of the rogue and the dark state. A stray judgement is counted in STRAY_CYCLES, and the
judgement joins the history of 8. The third stray one among them makes a clear tree ROGUE, with ROGUE_CHG and ROGUE_ON,
its CALL being set aside; fewer do not. The sixteenth clean cycle in a row clears the rogue state, with ROGUE_CHG and
ROGUE_OFF, and a paused round asks for its next CALL (R70, R109, R110, R173 to R176). With a sweep running the clearing
ends it FOUND in the same act: the current entry stays HUSHED and is the sweep's no more, ROGUE_OFF and then SWEEP_FOUND
are written with the stage, the distance from the hush cycle and the tried count; with the dwell judgement taken first,
SWEEP_FOUND names the next handle, its stage HUSHING (R179, R180, R191). A dark cycle that brings the run to the threshold
makes the tree DARK, with DARK_CHG and DARK_ON, its CALL being set aside; the second lit one in a row clears it, with
DARK_CHG and DARK_OFF, and a paused round goes on; a neutral cycle changes nothing (R70, R109, R110, R155, R156). The
model's, DEDUCED: SWEEP_FOUND's word holds the lowest 15 bits of a longer distance (log 32), and the layout of the one
field of DARK_ON, DARK_OFF, ROGUE_ON and ROGUE_OFF (log 13). -/
def Obligations.ClosedCycleJudgements : Prop :=
  ∀ (k : TreeId) (c : Cycle) (s : State),
    let resumes (t : State) : Prop := ∀ head rest, (s.tree k).discovery.running = true →
      (s.tree k).discovery.call = none → (s.tree k).discovery.stack = head :: rest →
      (t.tree k).discovery.stack = rest ∧ callAskedFor k head s t
    (∀ stray : Bool, let t := s.rogueClose k c stray
      let recent := ((s.tree k).rogue.history ++ [stray]).drop ((s.tree k).rogue.history.length - 7)
      (t.tree k).counters.strayCycles = (s.tree k).counters.strayCycles + (if stray then 1 else 0)
      ∧ (t.tree k).rogue.history = recent
      ∧ ((s.tree k).rogue.rogue = false →
        (recent.count true < 3 → (t.tree k).rogue.rogue = false ∧ t.eventQueue = s.eventQueue
          ∧ (t.tree k).discovery = (s.tree k).discovery ∧ (t.tree k).calendar = (s.tree k).calendar)
        ∧ (3 ≤ recent.count true → (t.tree k).rogue.rogue = true ∧ (t.tree k).rogue.cleanRun = 0
          ∧ (t.tree k).indications.rogueChg = true ∧ wrote s t .rogueOn k 0 [oneField c.toNat] ∧ callPaused k s t)))
    ∧ ((s.tree k).rogue.rogue = true →
      ((s.rogueClose k c true).tree k).rogue.rogue = true ∧ ((s.rogueClose k c true).tree k).rogue.cleanRun = 0
        ∧ ((s.tree k).rogue.cleanRun + 1 < 16 → ((s.rogueClose k c false).tree k).rogue.rogue = true
          ∧ ((s.rogueClose k c false).tree k).rogue.cleanRun = (s.tree k).rogue.cleanRun + 1)
        ∧ (16 ≤ (s.tree k).rogue.cleanRun + 1 → let t := s.rogueClose k c false
          (t.tree k).rogue.rogue = false ∧ (t.tree k).rogue.cleanRun = 0 ∧ (t.tree k).indications.rogueChg = true
          ∧ ((s.tree k).rogue.sweep = none → wrote s t .rogueOff k 0 [oneField c.toNat])
          ∧ ((s.tree k).state = .active → (s.tree k).upkeep.dark = false → resumes t)))
    ∧ (∀ w : Sweep, (s.tree k).rogue.rogue = true → (s.tree k).rogue.sweep = some w →
      (s.entry w.current).state = .hushed →
      let t := s.rogueClose k c false
      ((s.rogueClose k c true).tree k).rogue.sweep = some w
        ∧ ((s.tree k).rogue.cleanRun + 1 < 16 →
          (t.tree k).rogue.rogue = true ∧ (t.tree k).rogue.sweep = some w ∧ t.eventQueue = s.eventQueue)
        ∧ (16 ≤ (s.tree k).rogue.cleanRun + 1 →
          let found := BitVec.ofNat 32
            (w.stage.code * 2 ^ 31 + w.age (s.tree k).n % 2 ^ 15 * 2 ^ 16 + w.tried % 2 ^ 16)
          (t.tree k).rogue.rogue = false ∧ sweepEnded k t
            ∧ t.entry w.current
              = { s.entry w.current with sweepOwned := (s.entry w.current).sweepOwned.map fun _ => false }
            ∧ (s.eventQueue.length + 4 ≤ 1024 →
              t.eventQueue = s.eventQueue ++ [eventHeader .rogueOff k 0 [oneField c.toNat], oneField c.toNat,
                eventHeader .sweepFound k w.current [found], found]))
        ∧ ∀ (a : Cycle) (h : Nat), 16 ≤ (s.tree k).rogue.cleanRun + 1 → w.stage = .observing → w.hushCycle = some a →
          w.dwell ≤ Cycle.distance a (s.tree k).n → w.cursor = w.current → nextRostered s k w.current h →
          let u := (s.judgeDwell k).rogueClose k c false
          let found := BitVec.ofNat 32 ((w.tried + 1) % 2 ^ 16)
          (u.tree k).rogue.rogue = false ∧ sweepEnded k u ∧ (u.entry w.current).state = .registered
            ∧ (u.entry h).state = .hushed ∧ (u.entry h).sweepOwned = some false
            ∧ (s.eventQueue.length + 8 ≤ 1024 →
              ∃ before, u.eventQueue = before ++ [eventHeader .sweepFound k h [found], found]))
    ∧ let u := (s.tree k).upkeep
      let t := s.upkeepClose k c
      let v := (t.tree k).upkeep
      v.tallies = u.tallies.filter (fun x => x.cycle != c)
      ∧ ((∀ y ∈ u.tallies, y.cycle ≠ c) → v = u ∧ t.eventQueue = s.eventQueue)
      ∧ ∀ y : Tally, u.tallies.find? (fun x => x.cycle == c) = some y →
        (y.lit = false → y.counted = true → u.dark = false →
          (u.darkRun + 1 < (s.tree k).tuning.darkThreshold →
            v.dark = false ∧ v.darkRun = u.darkRun + 1 ∧ t.eventQueue = s.eventQueue)
          ∧ ((s.tree k).tuning.darkThreshold ≤ u.darkRun + 1 → v.dark = true ∧ v.darkRun = 0 ∧ v.litRun = 0
            ∧ (t.tree k).indications.darkChg = true ∧ wrote s t .darkOn k 0 [oneField c.toNat] ∧ callPaused k s t))
        ∧ (y.lit = true → u.dark = false → v.dark = false ∧ v.darkRun = 0 ∧ t.eventQueue = s.eventQueue)
        ∧ (y.lit = false → y.counted = true → u.dark = true → v.dark = true ∧ v.litRun = 0)
        ∧ (y.lit = true → u.dark = true →
          (u.litRun + 1 < 2 → v.dark = true ∧ v.litRun = u.litRun + 1 ∧ t.eventQueue = s.eventQueue)
          ∧ (2 ≤ u.litRun + 1 → v.dark = false ∧ v.darkRun = 0 ∧ v.litRun = 0
            ∧ (t.tree k).indications.darkChg = true ∧ wrote s t .darkOff k 0 [oneField c.toNat]
            ∧ ((s.tree k).state = .active → (s.tree k).rogue.rogue = false → resumes t)))

/-- The choice of a send: first the owed UNHUSHes that the slot's reservations name, in index order, each once, at most 4,
one that is left over coming after 4 taken; then from the head of the queue in its order until 4 are chosen; the rest of
the queue and of the backlog keeps its order (R162). A message joins after all of its kind and of higher ones (R159); the
messages of a send are acted on in bundle order, and places then free are filled from the head of the backlog, oldest
first, as a place is that a removed TRIM frees (R163, R164). What sending one does: a TRIM moves the delay by its amount
and fences it at the bundle's cycle; an owed RELEASE, HUSH or UNHUSH with sends left loses one and joins the queue again;
the last HUSH or UNHUSH ends the obligation; the last RELEASE frees the entry, its mark leaving the Mark Index, its handle
joining the Cool-down Queue at N, RELEASED written; the first HUSH for the sweep's current handle takes the sweep to
OBSERVING from N (R152, R163, R169, R179). -/
def Obligations.SendingAMessageEndsItsDuty : Prop :=
  (∀ (k : TreeId) (rs : List Reservation) (s : State),
    let control := (s.tree k).control
    let wanted (h : Nat) := (∃ r ∈ rs, r.handle = some h) ∧ (s.entry h).owed.map Owed.kind = some .unhush
    let place (h : Nat) := rs.findIdx fun r => r.handle == some h
    ∃ named : List Nat,
      let others := control.queue.filter fun m => !named.any fun h => m == .unhush h
      s.chooseMessages k rs
        = (named.map QueuedMessage.unhush ++ others.take (4 - named.length),
          { queue := others.drop (4 - named.length), backlog := control.backlog.filter fun h => !named.contains h })
      ∧ named.length ≤ 4 ∧ (∀ h ∈ named, wanted h) ∧ named.Pairwise (fun a b => place a < place b)
      ∧ ∀ h, wanted h → h ∈ named ∨ (named.length = 4 ∧ ∀ a ∈ named, place a < place h))
  ∧ (∀ (m : QueuedMessage) (queue : List QueuedMessage), ∃ before after, queue = before ++ after
    ∧ insertMessage m queue = before ++ m :: after ∧ (∀ x ∈ before, x.rank ≤ m.rank) ∧ ∀ x ∈ after.head?, m.rank < x.rank)
  ∧ (∀ (k : TreeId) (c : Cycle) (rs : List Reservation) (s : State),
    s.sendMessages k c rs = ((s.chooseMessages k rs).1.foldl (fun u m => u.messageSent k c m)
      (s.setTree k { s.tree k with control := (s.chooseMessages k rs).2 })).fillBacklog k)
  ∧ (∀ (k : TreeId) (h : Nat) (s : State),
    let q := (s.tree k).control
    let room := 32 - q.queue.length
    s.fillBacklog k = s.setTree k { s.tree k with control := {
        queue := (q.backlog.take room).foldl (fun queue j => match (s.entry j).owed with
          | some o => insertMessage ((s.entry j).copyFor j o.kind) queue
          | none => queue) q.queue
        backlog := q.backlog.drop room } }
    ∧ s.dropTrim k h = (s.setTree k { s.tree k with control :=
        { q with queue := q.queue.filter fun m => !m.isTrimFor h } }).fillBacklog k)
  ∧ ∀ (k : TreeId) (c : Cycle) (h : Nat) (s : State), (s.entry h).state ≠ .free →
    (∀ (amount : Int) (generation : Nat),
      (s.messageSent k c (.trim h amount generation)).entry h = { s.entry h with
          delay := (s.entry h).delay.map fun d => ((d : Int) + amount).toNat,
          generation := some generation, trim := some (.effective c) }
        ∧ ((s.messageSent k c (.trim h amount generation)).tree k).counters.trimsSent
          = (s.tree k).counters.trimsSent + 1)
    ∧ (∀ m : Mark, (s.entry h).mark = some m →
      (∀ n : Nat, 1 < n → (s.entry h).owed = some { kind := .release, sends := n } →
        (s.messageSent k c (.release h m)).entry h
            = { s.entry h with owed := some { kind := .release, sends := n - 1 } }
          ∧ ((s.messageSent k c (.release h m)).tree k).control.queue
            = insertMessage (.release h m) (s.tree k).control.queue)
      ∧ ((s.entry h).owed = some { kind := .release, sends := 1 } →
        (s.messageSent k c (.release h m)).entry h = Entry.free
          ∧ (s.messageSent k c (.release h m)).findMark m = none
          ∧ ((s.messageSent k c (.release h m)).tree k).coolDown
            = (s.tree k).coolDown ++ [{ handle := h, released := (s.tree k).n }]
          ∧ ((s.messageSent k c (.release h m)).tree k).counters.releases
            = (s.tree k).counters.releases + 1
          ∧ wrote s (s.messageSent k c (.release h m)) .released k h
            (markWords m (byteFields (((s.entry h).reason.getD .host).code)
              (yesNo ((s.entry h).reservedByHost.getD false))))))
    ∧ (∀ n : Nat, 1 < n →
      ((s.entry h).owed = some { kind := .hush, sends := n } →
        (s.messageSent k c (.hush h)).entry h = { s.entry h with owed := some { kind := .hush, sends := n - 1 } }
          ∧ ((s.messageSent k c (.hush h)).tree k).control.queue = insertMessage (.hush h) (s.tree k).control.queue)
      ∧ ((s.entry h).owed = some { kind := .unhush, sends := n } →
        (s.messageSent k c (.unhush h)).entry h = { s.entry h with owed := some { kind := .unhush, sends := n - 1 } }
          ∧ ((s.messageSent k c (.unhush h)).tree k).control.queue
            = insertMessage (.unhush h) (s.tree k).control.queue))
    ∧ ((s.entry h).owed = some { kind := .hush, sends := 1 } →
      (s.messageSent k c (.hush h)).entry h = { s.entry h with owed := none }
        ∧ ((s.messageSent k c (.hush h)).tree k).control = (s.tree k).control)
    ∧ ((s.entry h).owed = some { kind := .unhush, sends := 1 } →
      (s.messageSent k c (.unhush h)).entry h = { s.entry h with owed := none }
        ∧ ((s.messageSent k c (.unhush h)).tree k).control = (s.tree k).control)
    ∧ ∀ w : Sweep, (s.tree k).rogue.sweep = some w →
      ((s.entry h).sweepOwned = some true → w.stage = .hushing → w.current = h →
        ((s.messageSent k c (.hush h)).tree k).rogue.sweep
          = some { w with stage := .observing, hushCycle := some (s.tree k).n })
      ∧ ((w.stage = .observing ∨ w.current ≠ h) →
        ((s.messageSent k c (.hush h)).tree k).rogue.sweep = some w)

/-! ## The expiries (R32, R55, R102, R144, R179) -/

/-- The first expiry of the discovery timer arms it; an expiry on a HELD, DARK or ROGUE tree or during a round is ignored
and counted; any other starts a round with a CALL for every mark, which is granted to a slot at once or waits (R66, R102,
R104 to R106; log 6). -/
def Obligations.DiscoveryExpiryOutcome : Prop :=
  ∀ (k : TreeId) (s : State), (s.tree k).discovery.expiryDue = true →
    ((s.tree k).discovery.armed = false →
      exec (.discoveryTimerExpiry k) s
        = .next (s.setTree k { s.tree k with
            discovery := { (s.tree k).discovery with armed := true, expiryDue := false } }))
    ∧ ((s.tree k).discovery.armed = true →
      ((s.tree k).mayCall = false ∨ (s.tree k).discovery.running = true) →
      ∃ t, exec (.discoveryTimerExpiry k) s = .next t
        ∧ (t.tree k).counters.expiriesIgnored = (s.tree k).counters.expiriesIgnored + 1
        ∧ (t.tree k).discovery = { (s.tree k).discovery with expiryDue := false } ∧ t.entries = s.entries)
    ∧ ((s.tree k).discovery.armed = true → (s.tree k).mayCall = true → (s.tree k).discovery.running = false →
      (s.tree k).discovery.call = none → (s.tree k).discovery.stack = [] →
      ∃ t r, exec (.discoveryTimerExpiry k) s = .next t
        ∧ (t.tree k).discovery.running = true ∧ (t.tree k).discovery.stack = []
        ∧ (t.tree k).discovery.call = some r ∧ r.head = { bits := 0, value := 0 } ∧ r.heldIgnored = false
        ∧ callAskedFor k { bits := 0, value := 0 } s t)

/-- The cooled records at the head of the Cool-down Queue leave it, oldest first, each handle pushed on top of the Free
Pool; the record that stops the taking has not cooled (R55; log 30). A TIMED bar of the tree whose remaining hold-off is 0
leaves the Bar List, every other record staying in its order. A bar set with hold-off h stands, after n of its tree's
boundaries have counted, at h less one for every 256, and so reaches 0 at the 256 h-th and not before; PERMANENT bars and
those of other trees do not count (R32). -/
def Obligations.CoolingAndBarExpiries : Prop :=
  (∀ (k : TreeId) (cooled rest : List CoolRecord) (s : State), (s.tree k).coolDown = cooled ++ rest →
    (∀ r ∈ cooled, 32 ≤ Cycle.distance r.released (s.tree k).n) →
    (∀ r, rest.head? = some r → Cycle.distance r.released (s.tree k).n < 32) →
    exec (.coolingExpiry k) s = .next (s.setTree k { s.tree k with
      coolDown := rest, freePool := (cooled.map CoolRecord.handle).reverse ++ (s.tree k).freePool }))
  ∧ (∀ (k : TreeId) (s : State), ∃ bars, exec (.timedBarExpiry k) s = .next { s with bars := bars }
    ∧ bars.Sublist s.bars ∧ ∀ b ∈ s.bars, b ∈ bars ↔ ∀ c, b.kind ≠ .timed k 0 c)
  ∧ (∀ (k : TreeId) (m : Mark) (h n : Nat), n ≤ 256 * h →
    (fun b : BarRecord => b.countBoundary k)^[n] { mark := m, kind := .timed k h 0 }
      = { mark := m, kind := .timed k (h - n / 256) (n % 256) })
  ∧ ∀ (k : TreeId) (b : BarRecord), (∀ h c, b.kind ≠ .timed k h c) → b.countBoundary k = b

/-- The grace step of a boundary, on a tree that is not DARK: every LOST entry's grace count grows by one up to 65,535,
and an entry whose count is then at or above a grace that is not 0 is due; on a DARK tree nothing counts and nothing
becomes due (R144, R157). An entry that a grace step found due and that is still LOST departs at GRACE_EXPIRY, or at the
boundary itself, with owed RELEASE, 3 sends, reason grace, whatever the order in which the entries due are taken and
whatever the dark state has become; one that is REGISTERED again does not (R144; that the departure may be a step of its
own is the model's, log 6; the free order log 24). -/
def Obligations.GraceExpiryDeparts : Prop :=
  (∀ (k : TreeId) (h count : Nat) (s : State), (s.entry h).state = .lost → (s.entry h).graceCount = some count →
    (s.tree k).inWindow h = true → s.canonical →
    let t := s.countGrace k
    ((s.tree k).upkeep.dark = true → t = s)
    ∧ ((s.tree k).upkeep.dark = false →
      t.entry h = { s.entry h with graceCount := some (min (count + 1) 65535) }
        ∧ (h ∈ (t.tree k).upkeep.graceDue ↔
          (s.tree k).tuning.grace ≠ 0 ∧ (s.tree k).tuning.grace ≤ min (count + 1) 65535)))
  ∧ ∀ (k : TreeId) (h count : Nat) (s : State), h ∈ (s.tree k).upkeep.graceDue →
    ((s.entry h).state = .lost → (s.entry h).graceCount = some count →
      (s.tree k).tuning.grace ≠ 0 → (s.tree k).tuning.grace ≤ count →
      (∃ t, exec (.graceExpiry k) s = .next t ∧ (t.tree k).upkeep.graceDue = []
        ∧ (t.entry h).state = .departing ∧ (t.entry h).owed = some { kind := .release, sends := 3 }
        ∧ (t.entry h).reason = some .grace ∧ (t.entry h).mark = (s.entry h).mark)
      ∧ ∀ order : Nat, ((s.judgeGrace k order).entry h).state = .departing)
    ∧ ((s.entry h).state = .registered → ∃ t, exec (.graceExpiry k) s = .next t
      ∧ sameButClaim (s.entry h) (t.entry h))

/-- When the dwell of an OBSERVING sweep has expired, the current handle is REGISTERED again owing one UNHUSH, with its
kept delay, and the sweep steps on: the next rostered handle above is HUSHED, sweep-owned and current, with one more
tried; with none the sweep ends EXHAUSTED; while HUSHING or before the dwell is over nothing changes (R178, R179). A host
UNHUSH or RELEASE that takes the current handle out of HUSHED makes the sweep step on in the same way, the command's own
outcome standing (R166, R171, R181). -/
def Obligations.DwellExpiryUnhushesTheCurrentHandle : Prop :=
  ∀ (k : TreeId) (w : Sweep) (s : State), (s.tree k).rogue.sweep = some w → w.cursor = w.current →
    let steps (t : State) : Prop :=
      (∀ h, nextRostered s k w.current h → sweptOn k h w.dwell (w.tried + 1) t)
        ∧ ((∀ h, ¬ nextRostered s k w.current h) → sweepEnded k t)
    (∀ c : Cycle, w.stage = .observing → w.hushCycle = some c → w.dwell ≤ Cycle.distance c (s.tree k).n →
      ∃ t, exec (.dwellExpiry k) s = .next t
        ∧ (t.entry w.current).state = .registered
        ∧ (t.entry w.current).owed = some { kind := .unhush, sends := 1 }
        ∧ (t.entry w.current).delay = (s.entry w.current).delay
        ∧ (t.entry w.current).sweepOwned = none ∧ steps t)
    ∧ (w.stage = .hushing ∨ (∃ c, w.hushCycle = some c ∧ Cycle.distance c (s.tree k).n < w.dwell) →
      exec (.dwellExpiry k) s = .next s)
    ∧ ∀ handle : Word, s.running = none → handle.toNat ≤ 511 → handle.toNat = w.current →
      s.treeOf w.current = some k → (s.entry w.current).state = .hushed → (s.entry w.current).sweepOwned = some true →
      (∃ t, exec (.unhush handle) s = .next t
        ∧ (t.entry w.current).state = (if (s.entry w.current).delay.isSome then .registered else .reranging)
        ∧ (t.entry w.current).owed = some { kind := .unhush, sends := 1 }
        ∧ (t.entry w.current).sweepOwned = none ∧ steps t)
      ∧ ∃ t, exec (.release handle) s = .next t
        ∧ (t.entry w.current).state = .departing
        ∧ (t.entry w.current).owed = some { kind := .release, sends := 3 } ∧ steps t

/-! ## The scheduler link (R85 to R98) -/

/-- A valid IDLE frame restarts the silence timer on a link that is UP, makes a SILENT link UP with LINK_CHG and LINK_UP,
and does nothing else; the running silence timer expiring makes the link SILENT with LINK_CHG and LINK_SILENT; bytes that
are no valid frame are counted and change nothing else (R85, R86). -/
def Obligations.LinkFollowsItsTraffic : Prop :=
  ∀ s : State,
    (s.linkUp = true → exec .idle s = .next { s with silenceTimer := some 2048 })
    ∧ (s.linkUp = false → s.eventQueue.length < 1024 →
      exec .idle s = .next { s with
        linkUp := true, silenceTimer := some 2048, indications := { s.indications with linkChg := true }
        eventQueue := s.eventQueue ++ [eventHeader .linkUp 0 0 []] })
    ∧ (s.silenceTimer.isSome = true → s.eventQueue.length < 1024 →
      exec .silenceTimerExpiry s = .next { s with
        linkUp := false, silenceTimer := none, indications := { s.indications with linkChg := true }
        eventQueue := s.eventQueue ++ [eventHeader .linkSilent 0 0 []] })
    ∧ (1024 ≤ s.eventQueue.length → ∃ t, exec .idle s = .next t ∧ t.linkUp = true ∧ t.eventQueue = s.eventQueue)
    ∧ (s.silenceTimer.isSome = true → 1024 ≤ s.eventQueue.length →
      ∃ t, exec .silenceTimerExpiry s = .next t ∧ t.linkUp = false ∧ t.indications.linkChg = true
        ∧ t.eventQueue = s.eventQueue)
    ∧ ∀ bytes : List Byte, decodeFrame bytes = none →
      exec (.invalidFrame bytes) s = .next { s with linkCheckErrors := s.linkCheckErrors + 1 }

/-- The bytes of every frame the scheduler may send decode to that frame, with every field at every value (R17, R86). The
bytes of every frame the part sends are those of its layout: type, body length, body and check code (R17, section 1.7). -/
def Obligations.LinkFramesHaveTheirBytes : Prop :=
  (∀ (tree : Byte) (cycle : Word) (grants : List PlanGrant), grants.length ≤ 255 →
      decodeFrame (ReceivedFrame.plan tree cycle grants).bytes = some (.plan tree cycle grants))
    ∧ decodeFrame ReceivedFrame.sync.bytes = some .sync ∧ decodeFrame ReceivedFrame.idle.bytes = some .idle
    ∧ ∀ (k : TreeId) (tree : Byte) (c : Cycle) (start length h termClass : Nat) (struck : List (Nat × StrikeReason)),
      let sealed (body : List Byte) := body ++ bytesOf 2 (checkCode body).toNat
      let t := BitVec.ofNat 8 k.val
      let reasonOf (x : StrikeReason) : Byte := match x with
        | .bounds => 1 | .window => 2 | .roster => 3 | .segment => 4 | .quiet => 5 | .overlap => 6
      (LinkFrame.cycle k c).bytes = sealed ([0x81, 0, 3, t] ++ bytesOf 2 c.toNat)
      ∧ (LinkFrame.quiet k c start length).bytes
        = sealed ([0x82, 0, 7, t] ++ bytesOf 2 c.toNat ++ bytesOf 2 start ++ bytesOf 2 length)
      ∧ (LinkFrame.quietCancel k c).bytes = sealed ([0x83, 0, 3, t] ++ bytesOf 2 c.toNat)
      ∧ (LinkFrame.verdict tree c none struck).bytes
        = sealed ([0x84] ++ bytesOf 2 (6 + 2 * struck.length) ++ [tree] ++ bytesOf 2 c.toNat
          ++ [0, 0, BitVec.ofNat 8 struck.length] ++ struck.flatMap fun x => [BitVec.ofNat 8 x.1, reasonOf x.2])
      ∧ (∀ reason : PlanReason, (LinkFrame.verdict tree c (some reason) []).bytes
        = sealed ([0x84, 0, 6, tree] ++ bytesOf 2 c.toNat
          ++ ([1, match reason with | .tree => 1 | .horizon => 2 | .count => 3, 0] : List Byte)))
      ∧ (∀ r : RosterState, (LinkFrame.roster k h r termClass).bytes
        = sealed ([0x85, 0, 5, t] ++ bytesOf 2 h
          ++ ([match r with | .registered => 1 | .lost => 2 | .removed => 3, BitVec.ofNat 8 termClass] : List Byte)))
      ∧ (LinkFrame.rosterClear k).bytes = sealed [0x86, 0, 1, t] ∧ LinkFrame.syncEnd.bytes = sealed [0x87, 0, 0]

/-- A plan frame is link traffic, and does to the link what an IDLE frame does; the plan is judged after that. A plan for
no live tree, for a cycle outside the horizon, or with more than 64 grants is refused: no slot changes, and one VERDICT
with the first reason that holds is made, which a full queue drops and counts. A plan for a cycle already sent, ARRIVING
or CLOSING counts PLANS_LATE and writes PLAN_LATE (R85, R87, R88, R90). The layout of PLAN_LATE's word is DEDUCED (log
13). -/
def Obligations.PlanRefusedAtPlanLevel : Prop :=
  ∀ (tree : Byte) (cycle : Word) (grants : List PlanGrant) (s u : State), exec .idle s = .next u →
    let answered (reason : PlanReason) : State :=
      if u.outQueue.length < 512 then { u with outQueue := u.outQueue ++ [.verdict tree cycle (some reason) []] }
      else { u with framesDropped := u.framesDropped + 1 }
    ((3 < tree.toNat ∨ ∃ k : TreeId, k.val = tree.toNat ∧ (s.tree k).state = .disabled) →
      exec (.plan tree cycle grants) s = .next (answered .tree))
    ∧ ∀ k : TreeId, k.val = tree.toNat → (s.tree k).inService = true →
      let d := Cycle.distance (s.tree k).n cycle
      ((14 < d ∧ d ≠ 65535) → exec (.plan tree cycle grants) s = .next (answered .horizon))
      ∧ ((d < 7 ∨ d = 65535) →
        ∃ t, exec (.plan tree cycle grants) s = .next t
          ∧ t.outQueue = (answered .horizon).outQueue ∧ t.framesDropped = (answered .horizon).framesDropped
          ∧ (t.tree k).counters.plansLate = (s.tree k).counters.plansLate + 1
          ∧ (t.tree k).calendar = (s.tree k).calendar
          ∧ wrote u t .planLate k 0 [oneField cycle.toNat])
      ∧ (7 ≤ d → d ≤ 14 → 64 < grants.length → exec (.plan tree cycle grants) s = .next (answered .count))

/-- A plan that passes the plan level enters its slot, the link having first done what an IDLE frame makes it do. An OPEN
or PLANNED slot becomes PLANNED and a CLAIMED or FILLED one FILLED; the slot then holds the accepted grants, in place of
those of an earlier plan, and keeps its quiet window. One ACCEPTED VERDICT names the struck grants, each of them counted.
A replacement may leave room for a waiting claim: its QUIET frame follows the VERDICT, and the PLANNED slot is FILLED
where the claim is granted there (R63, R64, R67, R85, R91 to R93). -/
def Obligations.PlanEntersItsSlot : Prop :=
  ∀ (tree : Byte) (cycle : Word) (grants : List PlanGrant) (k : TreeId) (slot : Slot) (s u : State), s.ringsCover →
    exec .idle s = .next u → k.val = tree.toNat → (s.tree k).inService = true →
    7 ≤ Cycle.distance (s.tree k).n cycle → Cycle.distance (s.tree k).n cycle ≤ 14 → grants.length ≤ 64 →
    (s.tree k).calendar.slot? cycle = some slot → slot.state.unsent = true →
    let accepted := (s.judgeGrants k slot 0 [] grants).1
    let struck := (s.judgeGrants k slot 0 [] grants).2
    ∃ t y, exec (.plan tree cycle grants) s = .next t
      ∧ (t.tree k).calendar.slot? cycle = some y
      ∧ (∀ r, r.isQuiet = false → (r ∈ y.reservations ↔ r ∈ accepted))
      ∧ (∀ r ∈ slot.reservations, r.isQuiet = true → r ∈ y.reservations)
      ∧ (slot.state = .opened → y.state = .planned)
      ∧ (slot.state = .claimed ∨ slot.state = .filled → y.state = .filled)
      ∧ (slot.state = .planned → y.state = .planned ∨ y.state = .filled)
      ∧ ((slot.state ≠ .planned ∨ (s.tree k).calendar.claims = []) →
        y.state = slot.state.withPlan ∧ ∀ r ∈ y.reservations, r.isQuiet = true → r ∈ slot.reservations)
      ∧ (u.outQueue.length < 512 → ∃ more, t.outQueue = u.outQueue ++ .verdict tree cycle none struck :: more
        ∧ (∀ f ∈ more, ∃ c start length, f = .quiet k c start length)
        ∧ (slot.state = .opened ∨ slot.state = .claimed → more = []))
      ∧ (512 ≤ u.outQueue.length → t.outQueue = u.outQueue)
      ∧ (t.tree k).counters.grantsStruck
        = (s.tree k).counters.grantsStruck + BitVec.ofNat 32 struck.length

/-- Every grant of a plan is judged by the six checks of R91 in their order, the first that fails giving the reason it is
struck with, and is accepted when none fails; the accepted ones obey the law of R60: at least 32 grains, within the cycle,
for a rostered handle of the window other than the base, in SCHED or SHARED segments alone, clear of the quiet window and
of one another (R60, R91). -/
def Obligations.AcceptedGrantsObeyTheLaw : Prop :=
  (∀ (k : TreeId) (slot : Slot) (accepted : List Reservation) (g : PlanGrant) (s : State),
    let x := s.tree k
    let h := g.handle.toNat
    let start := g.start.toNat
    let length := g.length.toNat
    let judged := s.judgeGrant k slot accepted g
    let bounds := 32 ≤ length ∧ start + length ≤ 16000
    let window := x.inWindow h = true ∧ h ≠ x.config.windowBase
    let rostered := (s.entry h).state = .registered ∨ (s.entry h).state = .lost
    let segments := ∀ n < 16, start < 1000 * (n + 1) → 1000 * n < start + length →
      x.config.segment n = .sched ∨ x.config.segment n = .shared
    let quiet := ∀ q ∈ slot.reservations, q.isQuiet = true → keepsGuard start length q.start q.length = true
    let apart := ∀ a ∈ accepted, keepsGuard start length a.start a.length = true
    (¬ bounds → judged = some .bounds)
    ∧ (bounds → ¬ window → judged = some .window)
    ∧ (bounds → window → ¬ rostered → judged = some .roster)
    ∧ (bounds → window → rostered → ¬ segments → judged = some .segment)
    ∧ (bounds → window → rostered → segments → ¬ quiet → judged = some .quiet)
    ∧ (bounds → window → rostered → segments → quiet → ¬ apart → judged = some .overlap)
    ∧ (bounds → window → rostered → segments → quiet → apart → judged = none))
  ∧ ∀ (k : TreeId) (slot : Slot) (grants : List PlanGrant) (s : State),
    let (accepted, struck) := s.judgeGrants k slot 0 [] grants
    accepted.length + struck.length = grants.length
    ∧ (∀ (i : Nat) (g : PlanGrant), grants[i]? = some g →
      let before := (s.judgeGrants k slot 0 [] (grants.take i)).1
      (∀ reason, s.judgeGrant k slot before g = some reason → (i, reason) ∈ struck)
        ∧ (s.judgeGrant k slot before g = none →
          { Reservation.bare .grant g.start.toNat g.length.toNat with handle := some g.handle.toNat } ∈ accepted))
    ∧ (∀ r ∈ accepted, r.kind = .grant ∧ 32 ≤ r.length ∧ r.start + r.length ≤ 16000
      ∧ (∃ h, r.handle = some h ∧ (s.tree k).inWindow h = true ∧ h ≠ (s.tree k).config.windowBase
        ∧ (s.entry h).inRoster = true)
      ∧ (s.tree k).config.liesIn SegmentUse.admitsGrant r.start r.length = true
      ∧ ∀ q ∈ slot.reservations, q.isQuiet = true → keepsGuard r.start r.length q.start q.length = true)
    ∧ accepted.Pairwise (fun a b => keepsGuard a.start a.length b.start b.length = true)

/-- A frame made joins the end of the queue, or with 512 frames waiting is dropped and counted, a dropped ROSTER or
ROSTER_CLEAR starting a repair dump in mode ALL; the hold ends; after it the transmitter takes the frame at the head, and
during it none (R87, R88; log 8, log 9). A valid SYNC sets the cursor to 0, the mode ROSTERED unless a dump in mode ALL
runs; a dump step in mode ROSTERED sends ROSTER for the lowest rostered handle at or above the cursor, and one in mode ALL
for the lowest handle there of a live window other than its base, REMOVED where the entry is outside the roster; with none
it sends SYNC_END and ends (R98; log 9). -/
def Obligations.OutgoingQueueAndRosterDump : Prop :=
  (∀ (f : LinkFrame) (s : State),
    (s.outQueue.length < 512 → s.makeFrame f = { s with outQueue := s.outQueue ++ [f] })
    ∧ (512 ≤ s.outQueue.length → s.makeFrame f = { s with
        framesDropped := s.framesDropped + 1
        dump := if f.needsRepair then some { cursor := 0, mode := .all } else s.dump })
    ∧ exec .transmitterHoldEnd s = .next { s with transmitterHold := none }
    ∧ (∀ rest, s.transmitterHold = none → s.outQueue = f :: rest →
      exec .frameTransmit s = .next { s with outQueue := rest, sending := some f })
    ∧ (s.transmitterHold.isSome = true → exec .frameTransmit s = .next s))
  ∧ (∀ s : State, ∃ t, exec .sync s = .next t ∧ t.outQueue = s.outQueue
    ∧ ((∀ d, s.dump = some d → d.mode ≠ .all) → t.dump = some { cursor := 0, mode := .rostered })
    ∧ (∀ d, s.dump = some d → d.mode = .all → t.dump = some { cursor := 0, mode := .all }))
  ∧ (∀ (cursor : Nat) (s : State), s.transmitterHold = none → s.outQueue = [] →
    s.dump = some { cursor := cursor, mode := .rostered } →
    (∀ h, cursor ≤ h → h < 512 → (s.entry h).inRoster = true →
      (∀ j, cursor ≤ j → j < h → (s.entry j).inRoster = false) →
      exec .rosterDumpStep s = .next { s with
        sending := some (.roster ((s.treeOf h).getD 0) h
          (if (s.entry h).state = .registered then .registered else .lost) ((s.entry h).termClass.getD 0))
        dump := some { cursor := h + 1, mode := .rostered } })
    ∧ ((∀ h, cursor ≤ h → h < 512 → (s.entry h).inRoster = false) →
      exec .rosterDumpStep s = .next { s with sending := some .syncEnd, dump := none }))
  ∧ ∀ (cursor : Nat) (s : State), s.transmitterHold = none → s.outQueue = [] →
    s.dump = some { cursor := cursor, mode := .all } →
    (∀ h k, cursor ≤ h → h < 512 → s.treeOf h = some k → h ≠ (s.tree k).config.windowBase →
      (∀ j v, cursor ≤ j → j < h → s.treeOf j = some v → j = (s.tree v).config.windowBase) →
      exec .rosterDumpStep s = .next { s with
        sending := some (.roster k h
          (if (s.entry h).state = .registered then .registered else if (s.entry h).state = .lost then .lost else .removed)
          ((s.entry h).termClass.getD 0))
        dump := some { cursor := h + 1, mode := .all } })
    ∧ ((∀ h k, cursor ≤ h → h < 512 → s.treeOf h = some k → h = (s.tree k).config.windowBase) →
      exec .rosterDumpStep s = .next { s with sending := some .syncEnd, dump := none })
end

