-- ==== Sys2Proof/Laws/State.lean ====
section
/-! SUPPORT. One lemma per field per update of State, so that no proof unfolds a record update. -/

namespace Sys2Proof.Machine

/-! ## Four like things -/

@[simp] theorem Quad.get_set {α : Type} (q : Quad α) (t u : TreeId) (x : α) :
    (q.set t x).get u = if u = t then x else q.get u := by
  fin_cases t <;> fin_cases u <;> rfl

@[simp] theorem State.tree_setTree (s : State) (t u : TreeId) (x : Tree) :
    (s.setTree t x).tree u = if u = t then x else s.tree u := Quad.get_set _ _ _ _

@[simp] theorem State.tree_modTree (s : State) (t u : TreeId) (f : Tree → Tree) :
    (s.modTree t f).tree u = if u = t then f (s.tree t) else s.tree u := Quad.get_set _ _ _ _

/-! ## setTree -/

@[simp] theorem State.setTree_partLock (s : State) (t : TreeId) (x : Tree) : (s.setTree t x).partLock = s.partLock := rfl
@[simp] theorem State.setTree_entries (s : State) (t : TreeId) (x : Tree) : (s.setTree t x).entries = s.entries := rfl
@[simp] theorem State.setTree_markIndex (s : State) (t : TreeId) (x : Tree) : (s.setTree t x).markIndex = s.markIndex := rfl
@[simp] theorem State.setTree_bars (s : State) (t : TreeId) (x : Tree) : (s.setTree t x).bars = s.bars := rfl
@[simp] theorem State.setTree_linkUp (s : State) (t : TreeId) (x : Tree) : (s.setTree t x).linkUp = s.linkUp := rfl
@[simp] theorem State.setTree_silenceTimer (s : State) (t : TreeId) (x : Tree) : (s.setTree t x).silenceTimer = s.silenceTimer := rfl
@[simp] theorem State.setTree_outQueue (s : State) (t : TreeId) (x : Tree) : (s.setTree t x).outQueue = s.outQueue := rfl
@[simp] theorem State.setTree_sending (s : State) (t : TreeId) (x : Tree) : (s.setTree t x).sending = s.sending := rfl
@[simp] theorem State.setTree_transmitterHold (s : State) (t : TreeId) (x : Tree) : (s.setTree t x).transmitterHold = s.transmitterHold := rfl
@[simp] theorem State.setTree_dump (s : State) (t : TreeId) (x : Tree) : (s.setTree t x).dump = s.dump := rfl
@[simp] theorem State.setTree_linkCheckErrors (s : State) (t : TreeId) (x : Tree) : (s.setTree t x).linkCheckErrors = s.linkCheckErrors := rfl
@[simp] theorem State.setTree_reportErrors (s : State) (t : TreeId) (x : Tree) : (s.setTree t x).reportErrors = s.reportErrors := rfl
@[simp] theorem State.setTree_framesDropped (s : State) (t : TreeId) (x : Tree) : (s.setTree t x).framesDropped = s.framesDropped := rfl
@[simp] theorem State.setTree_commandCode (s : State) (t : TreeId) (x : Tree) : (s.setTree t x).commandCode = s.commandCode := rfl
@[simp] theorem State.setTree_args (s : State) (t : TreeId) (x : Tree) : (s.setTree t x).args = s.args := rfl
@[simp] theorem State.setTree_running (s : State) (t : TreeId) (x : Tree) : (s.setTree t x).running = s.running := rfl
@[simp] theorem State.setTree_status (s : State) (t : TreeId) (x : Tree) : (s.setTree t x).status = s.status := rfl
@[simp] theorem State.setTree_results (s : State) (t : TreeId) (x : Tree) : (s.setTree t x).results = s.results := rfl
@[simp] theorem State.setTree_indications (s : State) (t : TreeId) (x : Tree) : (s.setTree t x).indications = s.indications := rfl
@[simp] theorem State.setTree_enables (s : State) (t : TreeId) (x : Tree) : (s.setTree t x).enables = s.enables := rfl
@[simp] theorem State.setTree_eventQueue (s : State) (t : TreeId) (x : Tree) : (s.setTree t x).eventQueue = s.eventQueue := rfl
@[simp] theorem State.setTree_half (s : State) (t : TreeId) (x : Tree) : (s.setTree t x).half = s.half := rfl
@[simp] theorem State.setTree_lostRecords (s : State) (t : TreeId) (x : Tree) : (s.setTree t x).lostRecords = s.lostRecords := rfl
@[simp] theorem State.setTree_readData (s : State) (t : TreeId) (x : Tree) : (s.setTree t x).readData = s.readData := rfl
@[simp] theorem State.setTree_choices (s : State) (t : TreeId) (x : Tree) : (s.setTree t x).choices = s.choices := rfl
@[simp] theorem State.setTree_freeCount (s : State) (t : TreeId) (x : Tree) : (s.setTree t x).freeCount = s.freeCount := rfl
@[simp] theorem State.setTree_pending (s : State) (t : TreeId) (x : Tree) : (s.setTree t x).pending = s.pending := rfl

/-! ## modTree -/

@[simp] theorem State.modTree_partLock (s : State) (t : TreeId) (f : Tree → Tree) : (s.modTree t f).partLock = s.partLock := rfl
@[simp] theorem State.modTree_entries (s : State) (t : TreeId) (f : Tree → Tree) : (s.modTree t f).entries = s.entries := rfl
@[simp] theorem State.modTree_markIndex (s : State) (t : TreeId) (f : Tree → Tree) : (s.modTree t f).markIndex = s.markIndex := rfl
@[simp] theorem State.modTree_bars (s : State) (t : TreeId) (f : Tree → Tree) : (s.modTree t f).bars = s.bars := rfl
@[simp] theorem State.modTree_linkUp (s : State) (t : TreeId) (f : Tree → Tree) : (s.modTree t f).linkUp = s.linkUp := rfl
@[simp] theorem State.modTree_silenceTimer (s : State) (t : TreeId) (f : Tree → Tree) : (s.modTree t f).silenceTimer = s.silenceTimer := rfl
@[simp] theorem State.modTree_outQueue (s : State) (t : TreeId) (f : Tree → Tree) : (s.modTree t f).outQueue = s.outQueue := rfl
@[simp] theorem State.modTree_sending (s : State) (t : TreeId) (f : Tree → Tree) : (s.modTree t f).sending = s.sending := rfl
@[simp] theorem State.modTree_transmitterHold (s : State) (t : TreeId) (f : Tree → Tree) : (s.modTree t f).transmitterHold = s.transmitterHold := rfl
@[simp] theorem State.modTree_dump (s : State) (t : TreeId) (f : Tree → Tree) : (s.modTree t f).dump = s.dump := rfl
@[simp] theorem State.modTree_linkCheckErrors (s : State) (t : TreeId) (f : Tree → Tree) : (s.modTree t f).linkCheckErrors = s.linkCheckErrors := rfl
@[simp] theorem State.modTree_reportErrors (s : State) (t : TreeId) (f : Tree → Tree) : (s.modTree t f).reportErrors = s.reportErrors := rfl
@[simp] theorem State.modTree_framesDropped (s : State) (t : TreeId) (f : Tree → Tree) : (s.modTree t f).framesDropped = s.framesDropped := rfl
@[simp] theorem State.modTree_commandCode (s : State) (t : TreeId) (f : Tree → Tree) : (s.modTree t f).commandCode = s.commandCode := rfl
@[simp] theorem State.modTree_args (s : State) (t : TreeId) (f : Tree → Tree) : (s.modTree t f).args = s.args := rfl
@[simp] theorem State.modTree_running (s : State) (t : TreeId) (f : Tree → Tree) : (s.modTree t f).running = s.running := rfl
@[simp] theorem State.modTree_status (s : State) (t : TreeId) (f : Tree → Tree) : (s.modTree t f).status = s.status := rfl
@[simp] theorem State.modTree_results (s : State) (t : TreeId) (f : Tree → Tree) : (s.modTree t f).results = s.results := rfl
@[simp] theorem State.modTree_indications (s : State) (t : TreeId) (f : Tree → Tree) : (s.modTree t f).indications = s.indications := rfl
@[simp] theorem State.modTree_enables (s : State) (t : TreeId) (f : Tree → Tree) : (s.modTree t f).enables = s.enables := rfl
@[simp] theorem State.modTree_eventQueue (s : State) (t : TreeId) (f : Tree → Tree) : (s.modTree t f).eventQueue = s.eventQueue := rfl
@[simp] theorem State.modTree_half (s : State) (t : TreeId) (f : Tree → Tree) : (s.modTree t f).half = s.half := rfl
@[simp] theorem State.modTree_lostRecords (s : State) (t : TreeId) (f : Tree → Tree) : (s.modTree t f).lostRecords = s.lostRecords := rfl
@[simp] theorem State.modTree_readData (s : State) (t : TreeId) (f : Tree → Tree) : (s.modTree t f).readData = s.readData := rfl
@[simp] theorem State.modTree_choices (s : State) (t : TreeId) (f : Tree → Tree) : (s.modTree t f).choices = s.choices := rfl
@[simp] theorem State.modTree_freeCount (s : State) (t : TreeId) (f : Tree → Tree) : (s.modTree t f).freeCount = s.freeCount := rfl
@[simp] theorem State.modTree_pending (s : State) (t : TreeId) (f : Tree → Tree) : (s.modTree t f).pending = s.pending := rfl

/-! ## setEntry -/

@[simp] theorem State.setEntry_trees (s : State) (h : Nat) (e : Entry) : (s.setEntry h e).trees = s.trees := rfl
@[simp] theorem State.setEntry_partLock (s : State) (h : Nat) (e : Entry) : (s.setEntry h e).partLock = s.partLock := rfl
@[simp] theorem State.setEntry_markIndex (s : State) (h : Nat) (e : Entry) : (s.setEntry h e).markIndex = s.markIndex := rfl
@[simp] theorem State.setEntry_bars (s : State) (h : Nat) (e : Entry) : (s.setEntry h e).bars = s.bars := rfl
@[simp] theorem State.setEntry_linkUp (s : State) (h : Nat) (e : Entry) : (s.setEntry h e).linkUp = s.linkUp := rfl
@[simp] theorem State.setEntry_silenceTimer (s : State) (h : Nat) (e : Entry) : (s.setEntry h e).silenceTimer = s.silenceTimer := rfl
@[simp] theorem State.setEntry_outQueue (s : State) (h : Nat) (e : Entry) : (s.setEntry h e).outQueue = s.outQueue := rfl
@[simp] theorem State.setEntry_sending (s : State) (h : Nat) (e : Entry) : (s.setEntry h e).sending = s.sending := rfl
@[simp] theorem State.setEntry_transmitterHold (s : State) (h : Nat) (e : Entry) : (s.setEntry h e).transmitterHold = s.transmitterHold := rfl
@[simp] theorem State.setEntry_dump (s : State) (h : Nat) (e : Entry) : (s.setEntry h e).dump = s.dump := rfl
@[simp] theorem State.setEntry_linkCheckErrors (s : State) (h : Nat) (e : Entry) : (s.setEntry h e).linkCheckErrors = s.linkCheckErrors := rfl
@[simp] theorem State.setEntry_reportErrors (s : State) (h : Nat) (e : Entry) : (s.setEntry h e).reportErrors = s.reportErrors := rfl
@[simp] theorem State.setEntry_framesDropped (s : State) (h : Nat) (e : Entry) : (s.setEntry h e).framesDropped = s.framesDropped := rfl
@[simp] theorem State.setEntry_commandCode (s : State) (h : Nat) (e : Entry) : (s.setEntry h e).commandCode = s.commandCode := rfl
@[simp] theorem State.setEntry_args (s : State) (h : Nat) (e : Entry) : (s.setEntry h e).args = s.args := rfl
@[simp] theorem State.setEntry_running (s : State) (h : Nat) (e : Entry) : (s.setEntry h e).running = s.running := rfl
@[simp] theorem State.setEntry_status (s : State) (h : Nat) (e : Entry) : (s.setEntry h e).status = s.status := rfl
@[simp] theorem State.setEntry_results (s : State) (h : Nat) (e : Entry) : (s.setEntry h e).results = s.results := rfl
@[simp] theorem State.setEntry_indications (s : State) (h : Nat) (e : Entry) : (s.setEntry h e).indications = s.indications := rfl
@[simp] theorem State.setEntry_enables (s : State) (h : Nat) (e : Entry) : (s.setEntry h e).enables = s.enables := rfl
@[simp] theorem State.setEntry_eventQueue (s : State) (h : Nat) (e : Entry) : (s.setEntry h e).eventQueue = s.eventQueue := rfl
@[simp] theorem State.setEntry_half (s : State) (h : Nat) (e : Entry) : (s.setEntry h e).half = s.half := rfl
@[simp] theorem State.setEntry_lostRecords (s : State) (h : Nat) (e : Entry) : (s.setEntry h e).lostRecords = s.lostRecords := rfl
@[simp] theorem State.setEntry_readData (s : State) (h : Nat) (e : Entry) : (s.setEntry h e).readData = s.readData := rfl
@[simp] theorem State.setEntry_choices (s : State) (h : Nat) (e : Entry) : (s.setEntry h e).choices = s.choices := rfl
@[simp] theorem State.setEntry_freeCount (s : State) (h : Nat) (e : Entry) : (s.setEntry h e).freeCount = s.freeCount := rfl
@[simp] theorem State.setEntry_pending (s : State) (h : Nat) (e : Entry) : (s.setEntry h e).pending = s.pending := rfl

/-! ## modEntry -/

@[simp] theorem State.modEntry_trees (s : State) (h : Nat) (f : Entry → Entry) : (s.modEntry h f).trees = s.trees := rfl
@[simp] theorem State.modEntry_partLock (s : State) (h : Nat) (f : Entry → Entry) : (s.modEntry h f).partLock = s.partLock := rfl
@[simp] theorem State.modEntry_markIndex (s : State) (h : Nat) (f : Entry → Entry) : (s.modEntry h f).markIndex = s.markIndex := rfl
@[simp] theorem State.modEntry_bars (s : State) (h : Nat) (f : Entry → Entry) : (s.modEntry h f).bars = s.bars := rfl
@[simp] theorem State.modEntry_linkUp (s : State) (h : Nat) (f : Entry → Entry) : (s.modEntry h f).linkUp = s.linkUp := rfl
@[simp] theorem State.modEntry_silenceTimer (s : State) (h : Nat) (f : Entry → Entry) : (s.modEntry h f).silenceTimer = s.silenceTimer := rfl
@[simp] theorem State.modEntry_outQueue (s : State) (h : Nat) (f : Entry → Entry) : (s.modEntry h f).outQueue = s.outQueue := rfl
@[simp] theorem State.modEntry_sending (s : State) (h : Nat) (f : Entry → Entry) : (s.modEntry h f).sending = s.sending := rfl
@[simp] theorem State.modEntry_transmitterHold (s : State) (h : Nat) (f : Entry → Entry) : (s.modEntry h f).transmitterHold = s.transmitterHold := rfl
@[simp] theorem State.modEntry_dump (s : State) (h : Nat) (f : Entry → Entry) : (s.modEntry h f).dump = s.dump := rfl
@[simp] theorem State.modEntry_linkCheckErrors (s : State) (h : Nat) (f : Entry → Entry) : (s.modEntry h f).linkCheckErrors = s.linkCheckErrors := rfl
@[simp] theorem State.modEntry_reportErrors (s : State) (h : Nat) (f : Entry → Entry) : (s.modEntry h f).reportErrors = s.reportErrors := rfl
@[simp] theorem State.modEntry_framesDropped (s : State) (h : Nat) (f : Entry → Entry) : (s.modEntry h f).framesDropped = s.framesDropped := rfl
@[simp] theorem State.modEntry_commandCode (s : State) (h : Nat) (f : Entry → Entry) : (s.modEntry h f).commandCode = s.commandCode := rfl
@[simp] theorem State.modEntry_args (s : State) (h : Nat) (f : Entry → Entry) : (s.modEntry h f).args = s.args := rfl
@[simp] theorem State.modEntry_running (s : State) (h : Nat) (f : Entry → Entry) : (s.modEntry h f).running = s.running := rfl
@[simp] theorem State.modEntry_status (s : State) (h : Nat) (f : Entry → Entry) : (s.modEntry h f).status = s.status := rfl
@[simp] theorem State.modEntry_results (s : State) (h : Nat) (f : Entry → Entry) : (s.modEntry h f).results = s.results := rfl
@[simp] theorem State.modEntry_indications (s : State) (h : Nat) (f : Entry → Entry) : (s.modEntry h f).indications = s.indications := rfl
@[simp] theorem State.modEntry_enables (s : State) (h : Nat) (f : Entry → Entry) : (s.modEntry h f).enables = s.enables := rfl
@[simp] theorem State.modEntry_eventQueue (s : State) (h : Nat) (f : Entry → Entry) : (s.modEntry h f).eventQueue = s.eventQueue := rfl
@[simp] theorem State.modEntry_half (s : State) (h : Nat) (f : Entry → Entry) : (s.modEntry h f).half = s.half := rfl
@[simp] theorem State.modEntry_lostRecords (s : State) (h : Nat) (f : Entry → Entry) : (s.modEntry h f).lostRecords = s.lostRecords := rfl
@[simp] theorem State.modEntry_readData (s : State) (h : Nat) (f : Entry → Entry) : (s.modEntry h f).readData = s.readData := rfl
@[simp] theorem State.modEntry_choices (s : State) (h : Nat) (f : Entry → Entry) : (s.modEntry h f).choices = s.choices := rfl
@[simp] theorem State.modEntry_freeCount (s : State) (h : Nat) (f : Entry → Entry) : (s.modEntry h f).freeCount = s.freeCount := rfl
@[simp] theorem State.modEntry_pending (s : State) (h : Nat) (f : Entry → Entry) : (s.modEntry h f).pending = s.pending := rfl

/-! ## enterEntry -/

@[simp] theorem State.enterEntry_trees (s : State) (h : Nat) (m : Mark) (e : Entry) : (s.enterEntry h m e).trees = s.trees := rfl
@[simp] theorem State.enterEntry_partLock (s : State) (h : Nat) (m : Mark) (e : Entry) : (s.enterEntry h m e).partLock = s.partLock := rfl
@[simp] theorem State.enterEntry_bars (s : State) (h : Nat) (m : Mark) (e : Entry) : (s.enterEntry h m e).bars = s.bars := rfl
@[simp] theorem State.enterEntry_linkUp (s : State) (h : Nat) (m : Mark) (e : Entry) : (s.enterEntry h m e).linkUp = s.linkUp := rfl
@[simp] theorem State.enterEntry_silenceTimer (s : State) (h : Nat) (m : Mark) (e : Entry) : (s.enterEntry h m e).silenceTimer = s.silenceTimer := rfl
@[simp] theorem State.enterEntry_outQueue (s : State) (h : Nat) (m : Mark) (e : Entry) : (s.enterEntry h m e).outQueue = s.outQueue := rfl
@[simp] theorem State.enterEntry_sending (s : State) (h : Nat) (m : Mark) (e : Entry) : (s.enterEntry h m e).sending = s.sending := rfl
@[simp] theorem State.enterEntry_transmitterHold (s : State) (h : Nat) (m : Mark) (e : Entry) : (s.enterEntry h m e).transmitterHold = s.transmitterHold := rfl
@[simp] theorem State.enterEntry_dump (s : State) (h : Nat) (m : Mark) (e : Entry) : (s.enterEntry h m e).dump = s.dump := rfl
@[simp] theorem State.enterEntry_linkCheckErrors (s : State) (h : Nat) (m : Mark) (e : Entry) : (s.enterEntry h m e).linkCheckErrors = s.linkCheckErrors := rfl
@[simp] theorem State.enterEntry_reportErrors (s : State) (h : Nat) (m : Mark) (e : Entry) : (s.enterEntry h m e).reportErrors = s.reportErrors := rfl
@[simp] theorem State.enterEntry_framesDropped (s : State) (h : Nat) (m : Mark) (e : Entry) : (s.enterEntry h m e).framesDropped = s.framesDropped := rfl
@[simp] theorem State.enterEntry_commandCode (s : State) (h : Nat) (m : Mark) (e : Entry) : (s.enterEntry h m e).commandCode = s.commandCode := rfl
@[simp] theorem State.enterEntry_args (s : State) (h : Nat) (m : Mark) (e : Entry) : (s.enterEntry h m e).args = s.args := rfl
@[simp] theorem State.enterEntry_running (s : State) (h : Nat) (m : Mark) (e : Entry) : (s.enterEntry h m e).running = s.running := rfl
@[simp] theorem State.enterEntry_status (s : State) (h : Nat) (m : Mark) (e : Entry) : (s.enterEntry h m e).status = s.status := rfl
@[simp] theorem State.enterEntry_results (s : State) (h : Nat) (m : Mark) (e : Entry) : (s.enterEntry h m e).results = s.results := rfl
@[simp] theorem State.enterEntry_indications (s : State) (h : Nat) (m : Mark) (e : Entry) : (s.enterEntry h m e).indications = s.indications := rfl
@[simp] theorem State.enterEntry_enables (s : State) (h : Nat) (m : Mark) (e : Entry) : (s.enterEntry h m e).enables = s.enables := rfl
@[simp] theorem State.enterEntry_eventQueue (s : State) (h : Nat) (m : Mark) (e : Entry) : (s.enterEntry h m e).eventQueue = s.eventQueue := rfl
@[simp] theorem State.enterEntry_half (s : State) (h : Nat) (m : Mark) (e : Entry) : (s.enterEntry h m e).half = s.half := rfl
@[simp] theorem State.enterEntry_lostRecords (s : State) (h : Nat) (m : Mark) (e : Entry) : (s.enterEntry h m e).lostRecords = s.lostRecords := rfl
@[simp] theorem State.enterEntry_readData (s : State) (h : Nat) (m : Mark) (e : Entry) : (s.enterEntry h m e).readData = s.readData := rfl
@[simp] theorem State.enterEntry_choices (s : State) (h : Nat) (m : Mark) (e : Entry) : (s.enterEntry h m e).choices = s.choices := rfl
@[simp] theorem State.enterEntry_freeCount (s : State) (h : Nat) (m : Mark) (e : Entry) : (s.enterEntry h m e).freeCount = s.freeCount := rfl
@[simp] theorem State.enterEntry_pending (s : State) (h : Nat) (m : Mark) (e : Entry) : (s.enterEntry h m e).pending = s.pending := rfl

/-! ## freeEntry -/

@[simp] theorem State.freeEntry_trees (s : State) (h : Nat) : (s.freeEntry h).trees = s.trees := rfl
@[simp] theorem State.freeEntry_partLock (s : State) (h : Nat) : (s.freeEntry h).partLock = s.partLock := rfl
@[simp] theorem State.freeEntry_bars (s : State) (h : Nat) : (s.freeEntry h).bars = s.bars := rfl
@[simp] theorem State.freeEntry_linkUp (s : State) (h : Nat) : (s.freeEntry h).linkUp = s.linkUp := rfl
@[simp] theorem State.freeEntry_silenceTimer (s : State) (h : Nat) : (s.freeEntry h).silenceTimer = s.silenceTimer := rfl
@[simp] theorem State.freeEntry_outQueue (s : State) (h : Nat) : (s.freeEntry h).outQueue = s.outQueue := rfl
@[simp] theorem State.freeEntry_sending (s : State) (h : Nat) : (s.freeEntry h).sending = s.sending := rfl
@[simp] theorem State.freeEntry_transmitterHold (s : State) (h : Nat) : (s.freeEntry h).transmitterHold = s.transmitterHold := rfl
@[simp] theorem State.freeEntry_dump (s : State) (h : Nat) : (s.freeEntry h).dump = s.dump := rfl
@[simp] theorem State.freeEntry_linkCheckErrors (s : State) (h : Nat) : (s.freeEntry h).linkCheckErrors = s.linkCheckErrors := rfl
@[simp] theorem State.freeEntry_reportErrors (s : State) (h : Nat) : (s.freeEntry h).reportErrors = s.reportErrors := rfl
@[simp] theorem State.freeEntry_framesDropped (s : State) (h : Nat) : (s.freeEntry h).framesDropped = s.framesDropped := rfl
@[simp] theorem State.freeEntry_commandCode (s : State) (h : Nat) : (s.freeEntry h).commandCode = s.commandCode := rfl
@[simp] theorem State.freeEntry_args (s : State) (h : Nat) : (s.freeEntry h).args = s.args := rfl
@[simp] theorem State.freeEntry_running (s : State) (h : Nat) : (s.freeEntry h).running = s.running := rfl
@[simp] theorem State.freeEntry_status (s : State) (h : Nat) : (s.freeEntry h).status = s.status := rfl
@[simp] theorem State.freeEntry_results (s : State) (h : Nat) : (s.freeEntry h).results = s.results := rfl
@[simp] theorem State.freeEntry_indications (s : State) (h : Nat) : (s.freeEntry h).indications = s.indications := rfl
@[simp] theorem State.freeEntry_enables (s : State) (h : Nat) : (s.freeEntry h).enables = s.enables := rfl
@[simp] theorem State.freeEntry_eventQueue (s : State) (h : Nat) : (s.freeEntry h).eventQueue = s.eventQueue := rfl
@[simp] theorem State.freeEntry_half (s : State) (h : Nat) : (s.freeEntry h).half = s.half := rfl
@[simp] theorem State.freeEntry_lostRecords (s : State) (h : Nat) : (s.freeEntry h).lostRecords = s.lostRecords := rfl
@[simp] theorem State.freeEntry_readData (s : State) (h : Nat) : (s.freeEntry h).readData = s.readData := rfl
@[simp] theorem State.freeEntry_choices (s : State) (h : Nat) : (s.freeEntry h).choices = s.choices := rfl
@[simp] theorem State.freeEntry_freeCount (s : State) (h : Nat) : (s.freeEntry h).freeCount = s.freeCount := rfl
@[simp] theorem State.freeEntry_pending (s : State) (h : Nat) : (s.freeEntry h).pending = s.pending := rfl

/-! ## Trees and entries across the updates -/

@[simp] theorem State.setEntry_tree (s : State) (h : Nat) (e : Entry) (t : TreeId) :
    (s.setEntry h e).tree t = s.tree t := rfl
@[simp] theorem State.modEntry_tree (s : State) (h : Nat) (f : Entry → Entry) (t : TreeId) :
    (s.modEntry h f).tree t = s.tree t := rfl
@[simp] theorem State.enterEntry_tree (s : State) (h : Nat) (m : Mark) (e : Entry) (t : TreeId) :
    (s.enterEntry h m e).tree t = s.tree t := rfl
@[simp] theorem State.freeEntry_tree (s : State) (h : Nat) (t : TreeId) : (s.freeEntry h).tree t = s.tree t := rfl
@[simp] theorem State.setTree_entry (s : State) (t : TreeId) (x : Tree) (h : Nat) :
    (s.setTree t x).entry h = s.entry h := rfl
@[simp] theorem State.modTree_entry (s : State) (t : TreeId) (f : Tree → Tree) (h : Nat) :
    (s.modTree t f).entry h = s.entry h := rfl

/-! ## Numbered maps -/

theorem NumMap.get?_set {α : Type} (m : NumMap α) (k j : Nat) (a : α) :
    NumMap.get? (NumMap.set m k a) j = if j = k then some a else NumMap.get? m j := by
  induction m with
  | nil => simp [NumMap.set, NumMap.get?, eq_comm]
  | cons x rest ih =>
    obtain ⟨i, b⟩ := x
    by_cases hj : j = k
    · subst hj
      by_cases h1 : j < i
      · simp [NumMap.set, NumMap.get?, h1]
      · by_cases h2 : j = i
        · simp [NumMap.set, NumMap.get?, h2]
        · simp [NumMap.set, NumMap.get?, h1, h2, Ne.symm h2, ih]
    · by_cases h1 : k < i
      · simp [NumMap.set, NumMap.get?, h1, hj, Ne.symm hj]
      · by_cases h2 : k = i
        · subst h2; simp [NumMap.set, NumMap.get?, hj, Ne.symm hj]
        · simp only [NumMap.set, if_neg h1, if_neg h2, NumMap.get?, ih, if_neg hj]

theorem NumMap.get?_erase {α : Type} (m : NumMap α) (k j : Nat) :
    NumMap.get? (NumMap.erase m k) j = if j = k then none else NumMap.get? m j := by
  induction m with
  | nil => simp [NumMap.erase, NumMap.get?]
  | cons x rest ih =>
    obtain ⟨i, b⟩ := x
    simp only [NumMap.erase] at ih
    simp only [NumMap.erase, List.filter_cons]
    by_cases h : i = k
    · subst h
      simp only [bne_self_eq_false, Bool.false_eq_true, if_false, ih, NumMap.get?]
      by_cases hj : j = i
      · simp [hj]
      · simp [hj, Ne.symm hj]
    · simp only [bne_iff_ne, ne_eq, h, not_false_eq_true, if_true, NumMap.get?, ih]
      split <;> split <;> simp_all

/-- The entry a setting leaves: a FREE one is unlisted, so it reads as FREE whatever its fields. -/
theorem State.entry_setEntry (s : State) (h k : Nat) (e : Entry) :
    (s.setEntry h e).entry k = if k = h then (if e.state = .free then Entry.free else e) else s.entry k := by
  unfold State.setEntry State.entry
  by_cases hf : e.state = .free
  · simp only [hf, if_true, NumMap.get?_erase]; split <;> rfl
  · simp only [hf, if_false, NumMap.get?_set]; split <;> rfl

@[simp] theorem State.entry_setEntry_ne (s : State) (h k : Nat) (e : Entry) (hk : k ≠ h) :
    (s.setEntry h e).entry k = s.entry k := by rw [State.entry_setEntry, if_neg hk]

@[simp] theorem State.entry_modEntry_ne (s : State) (h k : Nat) (f : Entry → Entry) (hk : k ≠ h) :
    (s.modEntry h f).entry k = s.entry k := State.entry_setEntry_ne _ _ _ _ hk

theorem State.entry_modEntry (s : State) (h : Nat) (f : Entry → Entry) (hf : (f (s.entry h)).state ≠ .free) :
    (s.modEntry h f).entry h = f (s.entry h) := by
  rw [State.modEntry, State.entry_setEntry, if_pos rfl, if_neg hf]

@[simp] theorem State.entry_freeEntry (s : State) (h k : Nat) :
    (s.freeEntry h).entry k = if k = h then Entry.free else s.entry k := by
  have : (s.freeEntry h).entry k = (s.setEntry h Entry.free).entry k := rfl
  rw [this, State.entry_setEntry]; rfl

theorem State.entry_enterEntry (s : State) (h k : Nat) (m : Mark) (e : Entry) (he : e.state ≠ .free) :
    (s.enterEntry h m e).entry k = if k = h then e else s.entry k := by
  have : (s.enterEntry h m e).entry k = (s.setEntry h e).entry k := rfl
  rw [this, State.entry_setEntry, if_neg he]

/-- A map operation keeps the canonical form: rising keys. -/
theorem NumMap.wf_erase {α : Type} (m : NumMap α) (k : Nat) (h : NumMap.wf m = true) :
    NumMap.wf (NumMap.erase m k) = true := by
  simp only [NumMap.wf, decide_eq_true_eq, List.sortedLT_iff_pairwise] at h ⊢
  exact h.sublist (List.filter_sublist.map _)

theorem NumMap.mem_keys_set {α : Type} (m : NumMap α) (k j : Nat) (a : α)
    (h : j ∈ (NumMap.set m k a).map Prod.fst) : j = k ∨ j ∈ m.map Prod.fst := by
  induction m with
  | nil => simpa [NumMap.set] using h
  | cons x rest ih =>
    obtain ⟨i, b⟩ := x
    simp only [NumMap.set] at h
    split at h
    · simpa using h
    · split at h
      · rcases List.mem_cons.1 h with h | h
        · exact Or.inl h
        · exact Or.inr (List.mem_cons_of_mem _ h)
      · rcases List.mem_cons.1 h with h | h
        · exact Or.inr (by simp [h])
        · rcases ih h with h | h
          · exact Or.inl h
          · exact Or.inr (List.mem_cons_of_mem _ h)

theorem NumMap.mem_set {α : Type} (m : NumMap α) (k : Nat) (a : α) (x : Nat × α) (h : x ∈ NumMap.set m k a) :
    x = (k, a) ∨ x ∈ m := by
  induction m with
  | nil => simpa [NumMap.set] using h
  | cons y rest ih =>
    obtain ⟨i, b⟩ := y
    simp only [NumMap.set] at h
    split at h
    · simpa using h
    · split at h
      · exact (List.mem_cons.1 h).imp id (List.mem_cons_of_mem _)
      · rcases List.mem_cons.1 h with h | h
        · exact Or.inr (by simp [h])
        · exact (ih h).imp id (List.mem_cons_of_mem _)

theorem NumMap.wf_set {α : Type} (m : NumMap α) (k : Nat) (a : α) (h : NumMap.wf m = true) :
    NumMap.wf (NumMap.set m k a) = true := by
  simp only [NumMap.wf, decide_eq_true_eq, List.sortedLT_iff_pairwise] at h ⊢
  induction m with
  | nil => simp [NumMap.set]
  | cons x rest ih =>
    obtain ⟨i, b⟩ := x
    simp only [List.map_cons, List.pairwise_cons] at h
    simp only [NumMap.set]
    split
    · simp only [List.map_cons, List.pairwise_cons]
      refine ⟨fun j hj => ?_, h⟩
      rcases List.mem_cons.1 hj with hj | hj
      · omega
      · have := h.1 j hj; omega
    · split
      · rename_i hk; subst hk; simpa [List.pairwise_cons] using h
      · simp only [List.map_cons, List.pairwise_cons]
        refine ⟨fun j hj => ?_, ih h.2⟩
        rcases NumMap.mem_keys_set rest k j a hj with hj | hj
        · omega
        · exact h.1 j hj

end Sys2Proof.Machine
end

