-- ==== Sys2Proof/Laws/Engine.lean ====
section
/-! SUPPORT. What the engines of a tree can do, said once: EngineFrame, and one lemma for each shared operation that it stays
within that frame. A lemma has the form "from s to u within the frame, so from s to the operation on u", so that simp
climbs through any composition. -/

namespace Sys2Proof.Machine

/-- What no engine of a tree changes in the tree itself. -/
structure TreeKept (x y : Tree) : Prop where
  state : y.state = x.state
  config : y.config = x.config
  tuning : y.tuning = x.tuning
  pending : y.pending = x.pending
  n : y.n = x.n
  enables : y.enables = x.enables
  quietPosition : y.calendar.quietPosition = x.calendar.quietPosition

/-- The part of the state that no engine changes. -/
structure PortPart where
  partLock : Bool
  linkUp : Bool
  silenceTimer : Option Nat
  sending : Option LinkFrame
  transmitterHold : Option Nat
  linkCheckErrors : Count
  commandCode : Word
  args : Quad Word
  running : Option Running
  status : Status
  results : Quad Word
  linkChg : Bool
  collide : Bool
  enables : PartEnables
  half : Half
  readData : Word
  choices : List Nat
  freeCount : Nat
  pending : List Instr

/-- The part of a state that no engine changes. -/
def State.portPart (s : State) : PortPart :=
  { partLock := s.partLock, linkUp := s.linkUp, silenceTimer := s.silenceTimer, sending := s.sending,
    transmitterHold := s.transmitterHold, linkCheckErrors := s.linkCheckErrors, commandCode := s.commandCode,
    args := s.args, running := s.running, status := s.status, results := s.results,
    linkChg := s.indications.linkChg, collide := s.indications.collide, enables := s.enables, half := s.half,
    readData := s.readData, choices := s.choices, freeCount := s.freeCount, pending := s.pending }

/-- What the engines of tree t can do to a state. -/
structure EngineFrame (t : TreeId) (s u : State) : Prop where
  port : u.portPart = s.portPart
  tree : TreeKept (s.tree t) (u.tree t)
  others : ∀ v, v ≠ t → u.tree v = s.tree v
  events : ∃ more, u.eventQueue = s.eventQueue ++ more
  eventBound : s.eventQueue.length ≤ Config.eventCapacity → u.eventQueue.length ≤ Config.eventCapacity
  frames : ∃ more, u.outQueue = s.outQueue ++ more
  frameBound : s.outQueue.length ≤ Config.frameCapacity → u.outQueue.length ≤ Config.frameCapacity
  barBound : s.bars.length ≤ Config.barCapacity → u.bars.length ≤ Config.barCapacity
  barsFrom : ∀ b ∈ u.bars, b ∈ s.bars ∨ b.kind = .timed t (s.tree t).tuning.holdOff 0
  entriesWf : NumMap.wf s.entries = true → NumMap.wf u.entries = true
  indexWf : NumMap.wf s.markIndex = true → NumMap.wf u.markIndex = true
  listed : (∀ x ∈ s.entries, x.2.state ≠ .free) → ∀ x ∈ u.entries, x.2.state ≠ .free
  overflow : s.indications.eqOverflow = true → u.indications.eqOverflow = true

variable {t : TreeId} {s u : State}

theorem TreeKept.rfl' (x : Tree) : TreeKept x x := ⟨rfl, rfl, rfl, rfl, rfl, rfl, rfl⟩

theorem TreeKept.trans {x y z : Tree} (h : TreeKept x y) (k : TreeKept y z) : TreeKept x z :=
  ⟨k.state.trans h.state, k.config.trans h.config, k.tuning.trans h.tuning, k.pending.trans h.pending,
    k.n.trans h.n, k.enables.trans h.enables, k.quietPosition.trans h.quietPosition⟩

@[simp] theorem EngineFrame.refl (t : TreeId) (s : State) : EngineFrame t s s :=
  ⟨rfl, TreeKept.rfl' _, fun _ _ => rfl, ⟨[], by simp⟩, id, ⟨[], by simp⟩, id, id, fun _ => Or.inl, id, id, id, id⟩

theorem EngineFrame.trans {w : State} (h : EngineFrame t s u) (k : EngineFrame t u w) : EngineFrame t s w where
  port := k.port.trans h.port
  tree := h.tree.trans k.tree
  others v hv := (k.others v hv).trans (h.others v hv)
  events := by
    obtain ⟨a, ha⟩ := h.events
    obtain ⟨b, hb⟩ := k.events
    exact ⟨a ++ b, by rw [hb, ha, List.append_assoc]⟩
  eventBound := k.eventBound ∘ h.eventBound
  frames := by
    obtain ⟨a, ha⟩ := h.frames
    obtain ⟨b, hb⟩ := k.frames
    exact ⟨a ++ b, by rw [hb, ha, List.append_assoc]⟩
  frameBound := k.frameBound ∘ h.frameBound
  barBound := k.barBound ∘ h.barBound
  barsFrom b hb := (k.barsFrom b hb).elim (h.barsFrom b) fun hk => Or.inr (by rw [hk, h.tree.tuning])
  entriesWf := k.entriesWf ∘ h.entriesWf
  indexWf := k.indexWf ∘ h.indexWf
  listed := k.listed ∘ h.listed
  overflow := k.overflow ∘ h.overflow

/-- A fold of operations each within the frame stays within it. -/
theorem EngineFrame.foldl {α : Type} (f : State → α → State) (hf : ∀ u a, EngineFrame t u (f u a)) (l : List α)
    (h : EngineFrame t s u) : EngineFrame t s (l.foldl f u) := by
  induction l generalizing u with
  | nil => exact h
  | cons a l ih => exact ih (h.trans (hf u a))

/-! ## The updates -/

theorem EngineFrame.of_modTree (f : Tree → Tree) (hf : ∀ x, TreeKept x (f x)) (h : EngineFrame t s u) :
    EngineFrame t s (u.modTree t f) :=
  h.trans
    { port := rfl
      tree := by rw [State.tree_modTree, if_pos rfl]; exact hf _
      others := fun v hv => by rw [State.tree_modTree, if_neg hv]
      events := ⟨[], by simp⟩, eventBound := id, frames := ⟨[], by simp⟩, frameBound := id, barBound := id, barsFrom := fun _ => Or.inl,
      entriesWf := id, indexWf := id, listed := id, overflow := id }

@[simp] theorem EngineFrame.modCalendar (f : Calendar → Calendar) (hf : ∀ w, (f w).quietPosition = w.quietPosition)
    (h : EngineFrame t s u) : EngineFrame t s (u.modCalendar t f) :=
  h.of_modTree _ fun x => ⟨rfl, rfl, rfl, rfl, rfl, rfl, hf x.calendar⟩

@[simp] theorem EngineFrame.modDiscovery (f : Discovery → Discovery) (h : EngineFrame t s u) :
    EngineFrame t s (u.modDiscovery t f) := h.of_modTree _ fun _ => ⟨rfl, rfl, rfl, rfl, rfl, rfl, rfl⟩

@[simp] theorem EngineFrame.modUpkeep (f : Upkeep → Upkeep) (h : EngineFrame t s u) :
    EngineFrame t s (u.modUpkeep t f) := h.of_modTree _ fun _ => ⟨rfl, rfl, rfl, rfl, rfl, rfl, rfl⟩

@[simp] theorem EngineFrame.modControl (f : ControlQueue → ControlQueue) (h : EngineFrame t s u) :
    EngineFrame t s (u.modControl t f) := h.of_modTree _ fun _ => ⟨rfl, rfl, rfl, rfl, rfl, rfl, rfl⟩

@[simp] theorem EngineFrame.modRogue (f : RogueMonitor → RogueMonitor) (h : EngineFrame t s u) :
    EngineFrame t s (u.modRogue t f) := h.of_modTree _ fun _ => ⟨rfl, rfl, rfl, rfl, rfl, rfl, rfl⟩

@[simp] theorem EngineFrame.countBy (k : TreeCounter) (n : Nat) (h : EngineFrame t s u) :
    EngineFrame t s (u.countBy t k n) := h.of_modTree _ fun _ => ⟨rfl, rfl, rfl, rfl, rfl, rfl, rfl⟩

@[simp] theorem EngineFrame.count (k : TreeCounter) (h : EngineFrame t s u) : EngineFrame t s (u.count t k) :=
  h.countBy k 1

@[simp] theorem EngineFrame.setDarkChg (h : EngineFrame t s u) : EngineFrame t s (u.setDarkChg t) :=
  h.of_modTree _ fun _ => ⟨rfl, rfl, rfl, rfl, rfl, rfl, rfl⟩

@[simp] theorem EngineFrame.setRogueChg (h : EngineFrame t s u) : EngineFrame t s (u.setRogueChg t) :=
  h.of_modTree _ fun _ => ⟨rfl, rfl, rfl, rfl, rfl, rfl, rfl⟩

@[simp] theorem EngineFrame.setSweepEnd (h : EngineFrame t s u) : EngineFrame t s (u.setSweepEnd t) :=
  h.of_modTree _ fun _ => ⟨rfl, rfl, rfl, rfl, rfl, rfl, rfl⟩

@[simp] theorem EngineFrame.setTableFull (h : EngineFrame t s u) : EngineFrame t s (u.setTableFull t) :=
  h.of_modTree _ fun _ => ⟨rfl, rfl, rfl, rfl, rfl, rfl, rfl⟩

theorem State.setEntry_wf (u : State) (j : Nat) (e : Entry) (h : NumMap.wf u.entries = true) :
    NumMap.wf (u.setEntry j e).entries = true := by
  unfold State.setEntry
  split
  · exact NumMap.wf_erase _ _ h
  · exact NumMap.wf_set _ _ _ h

theorem State.setEntry_listed (u : State) (j : Nat) (e : Entry) (h : ∀ x ∈ u.entries, x.2.state ≠ .free) :
    ∀ x ∈ (u.setEntry j e).entries, x.2.state ≠ .free := by
  unfold State.setEntry
  dsimp only
  split
  · exact fun x hx => h x (List.mem_filter.1 hx).1
  · rename_i he
    exact fun x hx => (NumMap.mem_set _ _ _ _ hx).elim (fun hx => by rw [hx]; exact he) (h x)

@[simp] theorem EngineFrame.setEntry (j : Nat) (e : Entry) (h : EngineFrame t s u) :
    EngineFrame t s (u.setEntry j e) :=
  h.trans
    { port := rfl, tree := TreeKept.rfl' _, others := fun _ _ => rfl, events := ⟨[], by simp⟩, eventBound := id,
      frames := ⟨[], by simp⟩, frameBound := id, barBound := id, barsFrom := fun _ => Or.inl, entriesWf := u.setEntry_wf j e, indexWf := id,
      listed := u.setEntry_listed j e, overflow := id }

@[simp] theorem EngineFrame.modEntry (j : Nat) (f : Entry → Entry) (h : EngineFrame t s u) :
    EngineFrame t s (u.modEntry j f) := h.setEntry j _

@[simp] theorem EngineFrame.enterEntry (j : Nat) (m : Mark) (e : Entry) (h : EngineFrame t s u) :
    EngineFrame t s (u.enterEntry j m e) :=
  h.trans
    { port := rfl, tree := TreeKept.rfl' _, others := fun _ _ => rfl, events := ⟨[], by simp⟩, eventBound := id,
      frames := ⟨[], by simp⟩, frameBound := id, barBound := id, barsFrom := fun _ => Or.inl, entriesWf := u.setEntry_wf j e,
      indexWf := NumMap.wf_set _ _ _, listed := u.setEntry_listed j e, overflow := id }

@[simp] theorem EngineFrame.freeEntry (j : Nat) (h : EngineFrame t s u) : EngineFrame t s (u.freeEntry j) :=
  h.trans
    { port := rfl, tree := TreeKept.rfl' _, others := fun _ _ => rfl, events := ⟨[], by simp⟩, eventBound := id,
      frames := ⟨[], by simp⟩, frameBound := id, barBound := id, barsFrom := fun _ => Or.inl, entriesWf := u.setEntry_wf j Entry.free
      indexWf := fun hw => by
        show NumMap.wf (match (u.entry j).mark with
          | some m => NumMap.erase u.markIndex m.toNat
          | none => u.markIndex) = true
        split
        · exact NumMap.wf_erase _ _ hw
        · exact hw
      listed := u.setEntry_listed j Entry.free, overflow := id }

/-- A record written joins the Event Queue whole, or changes only the lost-record count and EQ_OVERFLOW (R190). -/
@[simp] theorem EngineFrame.writeEvent (kind : EventKind) (v : TreeId) (j : Nat) (extra : List EventWord)
    (h : EngineFrame t s u) : EngineFrame t s (u.writeEvent kind v j extra) := by
  refine h.trans ?_
  unfold State.writeEvent
  split
  · rename_i hfit
    exact
      { port := rfl, tree := TreeKept.rfl' _, others := fun _ _ => rfl, events := ⟨_, rfl⟩
        eventBound := fun _ => by simp only [List.length_append, List.length_cons]; omega
        frames := ⟨[], by simp⟩, frameBound := id, barBound := id, barsFrom := fun _ => Or.inl, entriesWf := id, indexWf := id, listed := id, overflow := id }
  · exact
      { port := rfl, tree := TreeKept.rfl' _, others := fun _ _ => rfl, events := ⟨[], by simp⟩, eventBound := id,
        frames := ⟨[], by simp⟩, frameBound := id, barBound := id, barsFrom := fun _ => Or.inl, entriesWf := id, indexWf := id,
        listed := id, overflow := fun _ => rfl }

/-- A frame made joins the outgoing queue, or is dropped and counted (R87, R88). -/
@[simp] theorem EngineFrame.makeFrame (f : LinkFrame) (h : EngineFrame t s u) : EngineFrame t s (u.makeFrame f) := by
  refine h.trans ?_
  unfold State.makeFrame
  split
  · rename_i hfit
    exact
      { port := rfl, tree := TreeKept.rfl' _, others := fun _ _ => rfl, events := ⟨[], by simp⟩, eventBound := id
        frames := ⟨_, rfl⟩
        frameBound := fun _ => by simp only [List.length_append, List.length_singleton]; omega
        barBound := id, barsFrom := fun _ => Or.inl, entriesWf := id, indexWf := id, listed := id, overflow := id }
  · exact
      { port := rfl, tree := TreeKept.rfl' _, others := fun _ _ => rfl, events := ⟨[], by simp⟩, eventBound := id,
        frames := ⟨[], by simp⟩, frameBound := id, barBound := id, barsFrom := fun _ => Or.inl, entriesWf := id, indexWf := id, listed := id, overflow := id }

@[simp] theorem EngineFrame.rosterNotice (v : TreeId) (j : Nat) (r : RosterState) (h : EngineFrame t s u) :
    EngineFrame t s (u.rosterNotice v j r) := h.makeFrame _

@[simp] theorem EngineFrame.countReportError (h : EngineFrame t s u) : EngineFrame t s u.countReportError :=
  h.trans
    { port := rfl, tree := TreeKept.rfl' _, others := fun _ _ => rfl, events := ⟨[], (List.append_nil _).symm⟩,
      eventBound := id, frames := ⟨[], (List.append_nil _).symm⟩, frameBound := id, barBound := id, barsFrom := fun _ => Or.inl, entriesWf := id,
      indexWf := id, listed := id, overflow := id }

/-- The Bar List replaced by one no longer than its capacity, each record an old one or a bar the tree has just set. -/
theorem EngineFrame.setBars (bars : List BarRecord)
    (hb : u.bars.length ≤ Config.barCapacity → bars.length ≤ Config.barCapacity)
    (hf : ∀ b ∈ bars, b ∈ u.bars ∨ b.kind = .timed t (u.tree t).tuning.holdOff 0) (h : EngineFrame t s u) :
    EngineFrame t s { u with bars := bars } :=
  h.trans
    { port := rfl, tree := TreeKept.rfl' _, others := fun _ _ => rfl, events := ⟨[], by simp⟩, eventBound := id,
      frames := ⟨[], by simp⟩, frameBound := id, barBound := hb, barsFrom := hf, entriesWf := id, indexWf := id, listed := id, overflow := id }

/-! ## The calendar -/

@[simp] theorem EngineFrame.modSlot (c : Cycle) (f : Slot → Slot) (h : EngineFrame t s u) :
    EngineFrame t s (u.modSlot t c f) := h.modCalendar _ fun _ => rfl

@[simp] theorem EngineFrame.grantClaim (q : Claim) (c : Cycle) (h : EngineFrame t s u) :
    EngineFrame t s (u.grantClaim t q c) := by
  unfold State.grantClaim
  dsimp only
  split <;> simp (maxDischargeDepth := 100) [h, Calendar.modSlot]

theorem EngineFrame.tryClaim (q : Claim) (h : EngineFrame t s u) : EngineFrame t s ((u.tryClaim t q).getD u) := by
  unfold State.tryClaim
  cases (u.tree t).eligibleSlot q with
  | none => exact h
  | some k => exact h.grantClaim q k.cycle

@[simp] theorem EngineFrame.arbitrate (h : EngineFrame t s u) : EngineFrame t s (u.arbitrate t) := by
  unfold State.arbitrate
  exact EngineFrame.foldl _ (fun u q => (EngineFrame.refl t u).tryClaim q) _ h

@[simp] theorem EngineFrame.requestClaim (q : Claim) (h : EngineFrame t s u) :
    EngineFrame t s (u.requestClaim t q) := by
  unfold State.requestClaim State.tryClaim
  split
  · cases (u.tree t).eligibleSlot q with
    | none => exact h.modCalendar (fun w => { w with claims := insertClaim q w.claims }) fun _ => rfl
    | some k => exact h.grantClaim q k.cycle
  · exact h

@[simp] theorem EngineFrame.cancelWindow (c : Cycle) (h : EngineFrame t s u) :
    EngineFrame t s (u.cancelWindow t c) := by
  unfold State.cancelWindow
  simp (maxDischargeDepth := 100) [h]

@[simp] theorem EngineFrame.dropClaim (j : Nat) (h : EngineFrame t s u) :
    EngineFrame t s (u.dropClaim t j) := by
  unfold State.dropClaim
  try dsimp only
  repeat' split
  all_goals simp (maxDischargeDepth := 100) [h]

@[simp] theorem EngineFrame.dropSettleDue (j : Nat) (h : EngineFrame t s u) :
    EngineFrame t s (u.dropSettleDue t j) := by
  unfold State.dropSettleDue
  simp (maxDischargeDepth := 100) [h]

@[simp] theorem EngineFrame.joinSettleDue (j : Nat) (h : EngineFrame t s u) :
    EngineFrame t s (u.joinSettleDue t j) := by
  unfold State.joinSettleDue
  simp (maxDischargeDepth := 100) [h]

@[simp] theorem EngineFrame.strike (j : Nat) (h : EngineFrame t s u) :
    EngineFrame t s (u.strike t j) := by
  unfold State.strike
  try dsimp only
  repeat' split
  all_goals simp (maxDischargeDepth := 100) [h]

@[simp] theorem EngineFrame.placeEcho (c : Cycle) (p : EchoPurpose) (j start : Nat) (h : EngineFrame t s u) :
    EngineFrame t s (u.placeEcho t c p j start) := by
  unfold State.placeEcho
  try dsimp only
  repeat' split
  all_goals simp (maxDischargeDepth := 100) [h]

@[simp] theorem EngineFrame.placeEchoes (c : Cycle) (l : List (EchoPurpose × Nat)) (h : EngineFrame t s u) :
    EngineFrame t s (u.placeEchoes t c l) := by
  induction l generalizing u with
  | nil => exact h
  | cons x l ih =>
    obtain ⟨p, j⟩ := x
    unfold State.placeEchoes
    split
    · exact h
    · exact ih (h.placeEcho c p j _)

/-! ## The Control Queue -/

@[simp] theorem EngineFrame.joinCopy (j : Nat) (h : EngineFrame t s u) :
    EngineFrame t s (u.joinCopy t j) := by
  unfold State.joinCopy
  try dsimp only
  repeat' split
  all_goals simp (maxDischargeDepth := 100) [h]

@[simp] theorem EngineFrame.fillBacklog (h : EngineFrame t s u) : EngineFrame t s (u.fillBacklog t) := by
  unfold State.fillBacklog
  exact EngineFrame.foldl _ (fun u j => (EngineFrame.refl t u).joinCopy j) _ (h.modControl _)

@[simp] theorem EngineFrame.recordOwed (j : Nat) (kind : OwedKind) (sends : Nat) (h : EngineFrame t s u) :
    EngineFrame t s (u.recordOwed t j kind sends) := by
  unfold State.recordOwed
  try dsimp only
  repeat' split
  all_goals simp (maxDischargeDepth := 100) [h]

@[simp] theorem EngineFrame.dropTrim (j : Nat) (h : EngineFrame t s u) :
    EngineFrame t s (u.dropTrim t j) := by
  unfold State.dropTrim
  simp (maxDischargeDepth := 100) [h]

@[simp] theorem EngineFrame.offerTrim (j : Nat) (amount : Int) (g : Nat) (h : EngineFrame t s u) :
    EngineFrame t s (u.offerTrim t j amount g) := by
  unfold State.offerTrim
  try dsimp only
  repeat' split
  all_goals simp (maxDischargeDepth := 100) [h]

@[simp] theorem EngineFrame.noteHushSent (j : Nat) (h : EngineFrame t s u) :
    EngineFrame t s (u.noteHushSent t j) := by
  unfold State.noteHushSent
  try dsimp only
  repeat' split
  all_goals simp (maxDischargeDepth := 100) [h]

@[simp] theorem EngineFrame.setPool (pool : List Nat) (h : EngineFrame t s u) :
    EngineFrame t s (u.modTree t fun x => { x with freePool := pool }) :=
  h.of_modTree _ fun _ => ⟨rfl, rfl, rfl, rfl, rfl, rfl, rfl⟩

@[simp] theorem EngineFrame.joinCoolDown (j : Nat) (h : EngineFrame t s u) :
    EngineFrame t s (u.modTree t fun x => { x with coolDown := x.coolDown ++ [{ handle := j, released := x.n }] }) :=
  h.of_modTree _ fun _ => ⟨rfl, rfl, rfl, rfl, rfl, rfl, rfl⟩

@[simp] theorem EngineFrame.endDeparture (j : Nat) (h : EngineFrame t s u) :
    EngineFrame t s (u.endDeparture t j) := by
  unfold State.endDeparture
  simp (maxDischargeDepth := 100) [h]

@[simp] theorem EngineFrame.owedSent (j : Nat) (h : EngineFrame t s u) :
    EngineFrame t s (u.owedSent t j) := by
  unfold State.owedSent
  try dsimp only
  repeat' split
  all_goals simp (maxDischargeDepth := 100) [h]

@[simp] theorem EngineFrame.trimSent (c : Cycle) (j : Nat) (amount : Int) (g : Nat) (h : EngineFrame t s u) :
    EngineFrame t s (u.trimSent t c j amount g) := by
  unfold State.trimSent
  simp (maxDischargeDepth := 100) [h]

@[simp] theorem EngineFrame.messageSent (c : Cycle) (m : QueuedMessage) (h : EngineFrame t s u) :
    EngineFrame t s (u.messageSent t c m) := by
  unfold State.messageSent
  split <;> simp (maxDischargeDepth := 100) [h]

@[simp] theorem EngineFrame.sendMessages (c : Cycle) (rs : List Reservation) (h : EngineFrame t s u) :
    EngineFrame t s (u.sendMessages t c rs) := by
  unfold State.sendMessages
  exact (EngineFrame.foldl _ (fun u m => (EngineFrame.refl t u).messageSent c m) _ (h.modControl _)).fillBacklog

/-! ## The passages of an entry -/

@[simp] theorem EngineFrame.rosterLeft (j : Nat) (h : EngineFrame t s u) :
    EngineFrame t s (u.rosterLeft t j) := by
  unfold State.rosterLeft
  simp (maxDischargeDepth := 100) [h]

@[simp] theorem EngineFrame.leftNotices (j : Nat) (left : EntryState) (h : EngineFrame t s u) :
    EngineFrame t s (u.leftNotices t j left) := by
  unfold State.leftNotices
  split <;> simp (maxDischargeDepth := 100) [h]

@[simp] theorem EngineFrame.dropTrimAfter (j : Nat) (left : EntryState) (h : EngineFrame t s u) :
    EngineFrame t s (u.dropTrimAfter t j left) := by
  unfold State.dropTrimAfter
  split <;> simp (maxDischargeDepth := 100) [h]

@[simp] theorem EngineFrame.hushEntry (j : Nat) (bySweep : Bool) (h : EngineFrame t s u) :
    EngineFrame t s (u.hushEntry t j bySweep) := by
  unfold State.hushEntry
  simp (maxDischargeDepth := 100) [h]

@[simp] theorem EngineFrame.departEntry (j : Nat) (r : DepartureReason) (sends : Nat) (h : EngineFrame t s u) :
    EngineFrame t s (u.departEntry t j r sends) := by
  unfold State.departEntry
  simp (maxDischargeDepth := 100) [h]

@[simp] theorem EngineFrame.unhushToRegistered (j : Nat) (h : EngineFrame t s u) :
    EngineFrame t s (u.unhushToRegistered t j) := by
  unfold State.unhushToRegistered
  simp (maxDischargeDepth := 100) [h]

@[simp] theorem EngineFrame.requestRanging (j : Nat) (h : EngineFrame t s u) :
    EngineFrame t s (u.requestRanging t j) := by
  unfold State.requestRanging
  try dsimp only
  repeat' split
  all_goals simp (maxDischargeDepth := 100) [h]

@[simp] theorem EngineFrame.unhushToReranging (j : Nat) (h : EngineFrame t s u) :
    EngineFrame t s (u.unhushToReranging t j) := by
  unfold State.unhushToReranging
  simp (maxDischargeDepth := 100) [h]

@[simp] theorem EngineFrame.rerange (j : Nat) (origin : RangingOrigin) (reason : Nat) (h : EngineFrame t s u) :
    EngineFrame t s (u.rerange t j origin reason) := by
  unfold State.rerange
  simp (maxDischargeDepth := 100) [h]

theorem replaceBar_length (bars : List BarRecord) (m : Mark) (kind : BarKind) :
    (replaceBar bars m kind).length = bars.length := by simp [replaceBar]

/-- A record that joins leaves the Bar List no longer than its capacity (R28). -/
theorem joinBar_length {bars joined : List BarRecord} {b : BarRecord} (hj : joinBar bars b = some joined)
    (hb : bars.length ≤ Config.barCapacity) : joined.length ≤ Config.barCapacity := by
  unfold joinBar at hj
  split at hj
  · simp only [Option.some.injEq] at hj
    subst hj
    simp only [List.length_append, List.length_singleton]
    omega
  · unfold evictTimed at hj
    split at hj
    · simp at hj
    · rename_i least hl
      simp only [Option.map_some, Option.some.injEq] at hj
      subst hj
      have hmem := List.min?_mem hl
      obtain ⟨a, ha, hal⟩ := List.mem_filterMap.1 hmem
      have := List.length_eraseP_of_mem (p := fun b => b.holdOff? == some least) ha (by simp [hal])
      have hpos : 0 < bars.length := List.length_pos_of_mem ha
      simp only [List.length_append, List.length_singleton, this]
      omega

/-- A record of the list with one mark's kind replaced is an old one or has that kind. -/
theorem replaceBar_from (bars : List BarRecord) (m : Mark) (kind : BarKind) :
    ∀ b ∈ replaceBar bars m kind, b ∈ bars ∨ b.kind = kind := by
  intro b hb
  obtain ⟨a, ha, rfl⟩ := List.mem_map.1 hb
  split
  · exact Or.inr rfl
  · exact Or.inl ha

/-- A record of the list a new one joined is an old one or the new one. -/
theorem joinBar_from {bars joined : List BarRecord} {n : BarRecord} (hj : joinBar bars n = some joined) :
    ∀ b ∈ joined, b ∈ bars ∨ b = n := by
  intro b hb
  unfold joinBar at hj
  split at hj
  · rw [Option.some.injEq] at hj
    subst hj
    simpa using hb
  · obtain ⟨rest, hr, rfl⟩ := Option.map_eq_some_iff.1 hj
    rcases List.mem_append.1 hb with hb | hb
    · unfold evictTimed at hr
      split at hr
      · exact absurd hr (by simp)
      · rw [Option.some.injEq] at hr
        subst hr
        exact Or.inl (List.mem_of_mem_eraseP hb)
    · exact Or.inr (by simpa using hb)

@[simp] theorem EngineFrame.makeTimedBar (j : Nat) (m : Mark) (h : EngineFrame t s u) :
    EngineFrame t s (u.makeTimedBar t j m) := by
  unfold State.makeTimedBar
  dsimp only
  split
  · split
    · exact h
    · exact h.setBars _ (by rw [replaceBar_length]; exact id) (replaceBar_from _ _ _)
  · split
    · rename_i hj
      exact h.setBars _ (joinBar_length hj) fun b hb => (joinBar_from hj b hb).imp_right fun e => by rw [e]
    · exact h.writeEvent _ _ _ _

@[simp] theorem EngineFrame.failRanging (j cause : Nat) (h : EngineFrame t s u) :
    EngineFrame t s (u.failRanging t j cause) := by
  unfold State.failRanging
  try dsimp only
  repeat' split
  all_goals simp (maxDischargeDepth := 100) [h]

/-! ## Ranging -/

@[simp] theorem EngineFrame.judgeAttempts (j : Nat) (h : EngineFrame t s u) :
    EngineFrame t s (u.judgeAttempts t j) := by
  unfold State.judgeAttempts
  try dsimp only
  repeat' split
  all_goals simp (maxDischargeDepth := 100) [h]

@[simp] theorem EngineFrame.settle (j : Nat) (a b : Int) (h : EngineFrame t s u) :
    EngineFrame t s (u.settle t j a b) := by
  unfold State.settle
  simp (maxDischargeDepth := 100) [h]

@[simp] theorem EngineFrame.pairSample (j : Nat) (a : Int) (h : EngineFrame t s u) :
    EngineFrame t s (u.pairSample t j a) := by
  unfold State.pairSample
  try dsimp only
  repeat' split
  all_goals simp (maxDischargeDepth := 100) [h]

@[simp] theorem EngineFrame.measureResult (j : Nat) (c : Cycle) (p : Nat) (bursts : List Burst) (h : EngineFrame t s u) :
    EngineFrame t s (u.measureResult t j c p bursts) := by
  unfold State.measureResult
  try dsimp only
  repeat' split
  all_goals simp (maxDischargeDepth := 100) [h]

@[simp] theorem EngineFrame.registerEntry (j : Nat) (c : Cycle) (h : EngineFrame t s u) :
    EngineFrame t s (u.registerEntry t j c) := by
  unfold State.registerEntry
  simp (maxDischargeDepth := 100) [h]

@[simp] theorem EngineFrame.settleDeviated (j : Nat) (h : EngineFrame t s u) :
    EngineFrame t s (u.settleDeviated t j) := by
  unfold State.settleDeviated
  simp (maxDischargeDepth := 100) [h]

@[simp] theorem EngineFrame.settleFailed (j : Nat) (h : EngineFrame t s u) :
    EngineFrame t s (u.settleFailed t j) := by
  unfold State.settleFailed
  try dsimp only
  repeat' split
  all_goals simp (maxDischargeDepth := 100) [h]

@[simp] theorem EngineFrame.settleOutcome (j : Nat) (c : Cycle) (start : Nat) (b : Burst) (h : EngineFrame t s u) :
    EngineFrame t s (u.settleOutcome t j c start b) := by
  unfold State.settleOutcome
  try dsimp only
  repeat' split
  all_goals simp (maxDischargeDepth := 100) [h]

/-! ## Discovery -/

@[simp] theorem EngineFrame.tryCall (h : EngineFrame t s u) :
    EngineFrame t s (u.tryCall t) := by
  unfold State.tryCall
  try dsimp only
  repeat' split
  all_goals simp (maxDischargeDepth := 100) [h]

@[simp] theorem EngineFrame.pushBack (head : MarkHead) (h : EngineFrame t s u) :
    EngineFrame t s (u.pushBack t head) := by
  unfold State.pushBack
  simp (maxDischargeDepth := 100) [h]

@[simp] theorem EngineFrame.pauseCall (h : EngineFrame t s u) :
    EngineFrame t s (u.pauseCall t) := by
  unfold State.pauseCall
  try dsimp only
  repeat' split
  all_goals simp (maxDischargeDepth := 100) [h]

@[simp] theorem EngineFrame.callSent (c : Cycle) (h : EngineFrame t s u) :
    EngineFrame t s (u.callSent t c) := by
  unfold State.callSent
  simp (maxDischargeDepth := 100) [h]

@[simp] theorem EngineFrame.judgeExpiry (h : EngineFrame t s u) :
    EngineFrame t s (u.judgeExpiry t) := by
  unfold State.judgeExpiry
  try dsimp only
  repeat' split
  all_goals simp (maxDischargeDepth := 100) [h]

@[simp] theorem EngineFrame.splitHead (head : MarkHead) (c : Cycle) (h : EngineFrame t s u) :
    EngineFrame t s (u.splitHead t head c) := by
  unfold State.splitHead
  try dsimp only
  repeat' split
  all_goals simp (maxDischargeDepth := 100) [h]

@[simp] theorem EngineFrame.endCall (h : EngineFrame t s u) :
    EngineFrame t s (u.endCall t) := by
  unfold State.endCall
  simp (maxDischargeDepth := 100) [h]

@[simp] theorem EngineFrame.callResult (c : Cycle) (bursts : List Burst) (h : EngineFrame t s u) :
    EngineFrame t s (u.callResult t c bursts) := by
  unfold State.callResult
  try dsimp only
  repeat' split
  all_goals simp (maxDischargeDepth := 100) [h]

@[simp] theorem EngineFrame.discardHello (h : EngineFrame t s u) :
    EngineFrame t s (u.discardHello t) := by
  unfold State.discardHello
  simp (maxDischargeDepth := 100) [h]

@[simp] theorem EngineFrame.dropForSlots (h : EngineFrame t s u) :
    EngineFrame t s (u.dropForSlots t) := by
  unfold State.dropForSlots
  simp (maxDischargeDepth := 100) [h]

@[simp] theorem EngineFrame.rejoin (j : Nat) (hello : Hello) (h : EngineFrame t s u) :
    EngineFrame t s (u.rejoin t j hello) := by
  unfold State.rejoin
  try dsimp only
  repeat' split
  all_goals simp (maxDischargeDepth := 100) [h]

@[simp] theorem EngineFrame.refresh (j : Nat) (hello : Hello) (h : EngineFrame t s u) :
    EngineFrame t s (u.refresh t j hello) := by
  unfold State.refresh
  try dsimp only
  repeat' split
  all_goals simp (maxDischargeDepth := 100) [h]

@[simp] theorem EngineFrame.discovered (j : Nat) (hello : Hello) (h : EngineFrame t s u) :
    EngineFrame t s (u.discovered t j hello) := by
  unfold State.discovered
  simp (maxDischargeDepth := 100) [h]

@[simp] theorem EngineFrame.enrollReserved (j : Nat) (hello : Hello) (h : EngineFrame t s u) :
    EngineFrame t s (u.enrollReserved t j hello) := by
  unfold State.enrollReserved
  try dsimp only
  repeat' split
  all_goals simp (maxDischargeDepth := 100) [h]

@[simp] theorem EngineFrame.followEntry (j : Nat) (hello : Hello) (h : EngineFrame t s u) :
    EngineFrame t s (u.followEntry t j hello) := by
  unfold State.followEntry
  try dsimp only
  repeat' split
  all_goals simp (maxDischargeDepth := 100) [h]

@[simp] theorem EngineFrame.admitHello (hello : Hello) (h : EngineFrame t s u) :
    EngineFrame t s (u.admitHello t hello) := by
  unfold State.admitHello
  repeat' split
  · simp [h]
  · simp [h]
  · simp (maxDischargeDepth := 100) [h]
  · simp (maxDischargeDepth := 100) [h]

@[simp] theorem EngineFrame.judgeHello (hello : Hello) (h : EngineFrame t s u) :
    EngineFrame t s (u.judgeHello t hello) := by
  unfold State.judgeHello
  try dsimp only
  repeat' split
  all_goals simp (maxDischargeDepth := 100) [h]

@[simp] theorem EngineFrame.intake (head : MarkHead) (p : Nat) (b : Burst) (h : EngineFrame t s u) :
    EngineFrame t s (u.intake t head p b) := by
  unfold State.intake
  try dsimp only
  repeat' split
  all_goals simp (maxDischargeDepth := 100) [h]

/-! ## Upkeep -/

@[simp] theorem EngineFrame.hitPresence (j : Nat) (c : Cycle) (h : EngineFrame t s u) :
    EngineFrame t s (u.hitPresence t j c) := by
  unfold State.hitPresence
  try dsimp only
  repeat' split
  all_goals simp (maxDischargeDepth := 100) [h]

@[simp] theorem EngineFrame.missPresence (j : Nat) (h : EngineFrame t s u) :
    EngineFrame t s (u.missPresence t j) := by
  unfold State.missPresence
  try dsimp only
  repeat' split
  all_goals simp (maxDischargeDepth := 100) [h]

@[simp] theorem EngineFrame.formTrim (j : Nat) (p d : Int) (h : EngineFrame t s u) :
    EngineFrame t s (u.formTrim t j p d) := by
  unfold State.formTrim
  try dsimp only
  repeat' split
  all_goals simp (maxDischargeDepth := 100) [h]

@[simp] theorem EngineFrame.judgeDeviation (j : Nat) (d : Int) (h : EngineFrame t s u) :
    EngineFrame t s (u.judgeDeviation t j d) := by
  unfold State.judgeDeviation
  try dsimp only
  repeat' split
  all_goals simp (maxDischargeDepth := 100) [h]

@[simp] theorem EngineFrame.offerDeviation (o : Observation) (h : EngineFrame t s u) :
    EngineFrame t s (u.offerDeviation t o) := by
  unfold State.offerDeviation
  try dsimp only
  repeat' split
  all_goals simp (maxDischargeDepth := 100) [h]

@[simp] theorem EngineFrame.leave (j : Nat) (h : EngineFrame t s u) :
    EngineFrame t s (u.leave t j) := by
  unfold State.leave
  simp (maxDischargeDepth := 100) [h]

@[simp] theorem EngineFrame.judgeStatus (j : Nat) (status : Option EchoStatus) (h : EngineFrame t s u) :
    EngineFrame t s (u.judgeStatus t j status) := by
  unfold State.judgeStatus
  try dsimp only
  repeat' split
  all_goals simp (maxDischargeDepth := 100) [h]

@[simp] theorem EngineFrame.takeHit (o : Observation) (h : EngineFrame t s u) :
    EngineFrame t s (u.takeHit t o) := by
  unfold State.takeHit
  try dsimp only
  repeat' split
  all_goals simp (maxDischargeDepth := 100) [h]

@[simp] theorem EngineFrame.takeMiss (o : Observation) (h : EngineFrame t s u) :
    EngineFrame t s (u.takeMiss t o) := by
  unfold State.takeMiss
  simp (maxDischargeDepth := 100) [h]

@[simp] theorem EngineFrame.observe (o : Observation) (h : EngineFrame t s u) :
    EngineFrame t s (u.observe t o) := by
  unfold State.observe
  try dsimp only
  repeat' split
  all_goals simp (maxDischargeDepth := 100) [h]

@[simp] theorem EngineFrame.testProbe (j : Nat) (h : EngineFrame t s u) :
    EngineFrame t s (u.testProbe t j) := by
  unfold State.testProbe
  try dsimp only
  repeat' split
  all_goals simp (maxDischargeDepth := 100) [h]

@[simp] theorem EngineFrame.testProbes (h : EngineFrame t s u) : EngineFrame t s (u.testProbes t) := by
  unfold State.testProbes
  exact EngineFrame.foldl _ (fun u j => (EngineFrame.refl t u).testProbe j) _ h

@[simp] theorem EngineFrame.countGrace (h : EngineFrame t s u) : EngineFrame t s (u.countGrace t) := by
  unfold State.countGrace
  split
  · exact h
  · have fold := EngineFrame.foldl (fun s j => s.modEntry j Entry.countGrace)
      (fun u j => (EngineFrame.refl t u).modEntry j Entry.countGrace) (u.treeHandles t) h
    simp [fold]

@[simp] theorem EngineFrame.judgeGrace (order : Nat) (h : EngineFrame t s u) :
    EngineFrame t s (u.judgeGrace t order) := by
  unfold State.judgeGrace
  have fold := EngineFrame.foldl (fun s j => s.departEntry t j .grace 3) (fun u j => (EngineFrame.refl t u).departEntry j .grace 3)
    (arrange order (u.graceDue t)) h
  simp [fold]

@[simp] theorem EngineFrame.becomeDark (c : Cycle) (h : EngineFrame t s u) :
    EngineFrame t s (u.becomeDark t c) := by
  unfold State.becomeDark
  simp (maxDischargeDepth := 100) [h]

@[simp] theorem EngineFrame.clearDark (c : Cycle) (h : EngineFrame t s u) :
    EngineFrame t s (u.clearDark t c) := by
  unfold State.clearDark
  simp (maxDischargeDepth := 100) [h]

@[simp] theorem EngineFrame.closeWhileLit (c : Cycle) (j : CycleLight) (h : EngineFrame t s u) :
    EngineFrame t s (u.closeWhileLit t c j) := by
  unfold State.closeWhileLit
  try dsimp only
  repeat' split
  all_goals simp (maxDischargeDepth := 100) [h]

@[simp] theorem EngineFrame.closeWhileDark (c : Cycle) (j : CycleLight) (h : EngineFrame t s u) :
    EngineFrame t s (u.closeWhileDark t c j) := by
  unfold State.closeWhileDark
  try dsimp only
  repeat' split
  all_goals simp (maxDischargeDepth := 100) [h]

@[simp] theorem EngineFrame.upkeepClose (c : Cycle) (h : EngineFrame t s u) :
    EngineFrame t s (u.upkeepClose t c) := by
  unfold State.upkeepClose
  try dsimp only
  repeat' split
  all_goals simp (maxDischargeDepth := 100) [h]

/-! ## The Rogue Monitor -/

@[simp] theorem EngineFrame.sweepStep (cursor dwell tried : Nat) (h : EngineFrame t s u) :
    EngineFrame t s (u.sweepStep t cursor dwell tried) := by
  unfold State.sweepStep
  try dsimp only
  repeat' split
  all_goals simp (maxDischargeDepth := 100) [h]

@[simp] theorem EngineFrame.judgeDwell (h : EngineFrame t s u) :
    EngineFrame t s (u.judgeDwell t) := by
  unfold State.judgeDwell
  try dsimp only
  repeat' split
  all_goals simp (maxDischargeDepth := 100) [h]

@[simp] theorem EngineFrame.sweepOverride (j : Nat) (h : EngineFrame t s u) :
    EngineFrame t s (u.sweepOverride t j) := by
  unfold State.sweepOverride
  try dsimp only
  repeat' split
  all_goals simp (maxDischargeDepth := 100) [h]

@[simp] theorem EngineFrame.sweepFound (h : EngineFrame t s u) :
    EngineFrame t s (u.sweepFound t) := by
  unfold State.sweepFound
  try dsimp only
  repeat' split
  all_goals simp (maxDischargeDepth := 100) [h]

@[simp] theorem EngineFrame.sweepAbort (w : Sweep) (h : EngineFrame t s u) :
    EngineFrame t s (u.sweepAbort t w) := by
  unfold State.sweepAbort
  simp (maxDischargeDepth := 100) [h]

@[simp] theorem EngineFrame.becomeRogue (c : Cycle) (h : EngineFrame t s u) :
    EngineFrame t s (u.becomeRogue t c) := by
  unfold State.becomeRogue
  simp (maxDischargeDepth := 100) [h]

@[simp] theorem EngineFrame.clearRogue (c : Cycle) (h : EngineFrame t s u) :
    EngineFrame t s (u.clearRogue t c) := by
  unfold State.clearRogue
  simp (maxDischargeDepth := 100) [h]

@[simp] theorem EngineFrame.moveCleanRun (c : Cycle) (stray : Bool) (h : EngineFrame t s u) :
    EngineFrame t s (u.moveCleanRun t c stray) := by
  unfold State.moveCleanRun
  try dsimp only
  repeat' split
  all_goals simp (maxDischargeDepth := 100) [h]

@[simp] theorem EngineFrame.rogueClose (c : Cycle) (stray : Bool) (h : EngineFrame t s u) :
    EngineFrame t s (u.rogueClose t c stray) := by
  unfold State.rogueClose
  try dsimp only
  repeat' split
  all_goals simp (maxDischargeDepth := 100) [h]

/-! ## Slots, the boundary and reports -/

@[simp] theorem EngineFrame.markStray (c : Cycle) (h : EngineFrame t s u) :
    EngineFrame t s (u.markStray t c) := by
  unfold State.markStray
  simp (maxDischargeDepth := 100) [h]

@[simp] theorem EngineFrame.modReservation (c : Cycle) (i : Nat) (f : Reservation → Reservation) (h : EngineFrame t s u) :
    EngineFrame t s (u.modReservation t c i f) := by
  unfold State.modReservation
  simp (maxDischargeDepth := 100) [h]

@[simp] theorem EngineFrame.handOutcome (c : Cycle) (r : Reservation) (b : Burst) (h : EngineFrame t s u) :
    EngineFrame t s (u.handOutcome t c r b) := by
  unfold State.handOutcome
  try dsimp only
  repeat' split
  all_goals simp (maxDischargeDepth := 100) [h]

@[simp] theorem EngineFrame.takeOutcome (c : Cycle) (i : Nat) (r : Reservation) (b : Burst) (h : EngineFrame t s u) :
    EngineFrame t s (u.takeOutcome t c i r b) := by
  unfold State.takeOutcome
  try dsimp only
  repeat' split
  all_goals simp (maxDischargeDepth := 100) [h]

@[simp] theorem EngineFrame.takeBurst (c : Cycle) (i : Nat) (r : Reservation) (b : Burst) (h : EngineFrame t s u) :
    EngineFrame t s (u.takeBurst t c i r b) := by
  unfold State.takeBurst
  try dsimp only
  repeat' split
  all_goals simp (maxDischargeDepth := 100) [h]

@[simp] theorem EngineFrame.endWindow (c : Cycle) (i : Nat) (r : Reservation) (h : EngineFrame t s u) :
    EngineFrame t s (u.endWindow t c i r) := by
  unfold State.endWindow
  try dsimp only
  repeat' split
  all_goals simp (maxDischargeDepth := 100) [h]

@[simp] theorem EngineFrame.setHandover (bytes : List Byte) (h : EngineFrame t s u) :
    EngineFrame t s (u.modTree t fun x => { x with handover := bytes }) :=
  h.of_modTree _ fun _ => ⟨rfl, rfl, rfl, rfl, rfl, rfl, rfl⟩

@[simp] theorem EngineFrame.sendSlot (h : EngineFrame t s u) :
    EngineFrame t s (u.sendSlot t) := by
  unfold State.sendSlot
  try dsimp only
  repeat' split
  all_goals simp (maxDischargeDepth := 100) [h]

@[simp] theorem EngineFrame.passSlots (h : EngineFrame t s u) : EngineFrame t s (u.passSlots t) := by
  unfold State.passSlots
  exact EngineFrame.foldl _ (fun u x => (EngineFrame.refl t u).takeOutcome _ _ _ _) _ (by simp [h])

@[simp] theorem EngineFrame.closeNotices (c : Cycle) (stray : Bool) (order : Nat) (h : EngineFrame t s u) :
    EngineFrame t s (u.closeNotices t c stray order) := by
  unfold State.closeNotices
  try dsimp only
  repeat' split
  all_goals simp (maxDischargeDepth := 100) [h]

@[simp] theorem EngineFrame.closeSlot (order : Nat) (h : EngineFrame t s u) :
    EngineFrame t s (u.closeSlot t order) := by
  unfold State.closeSlot
  try dsimp only
  repeat' split
  all_goals simp (maxDischargeDepth := 100) [h]

@[simp] theorem EngineFrame.joinSlot (h : EngineFrame t s u) :
    EngineFrame t s (u.joinSlot t) := by
  unfold State.joinSlot
  simp (maxDischargeDepth := 100) [h]

@[simp] theorem EngineFrame.takeTimerExpiry (h : EngineFrame t s u) :
    EngineFrame t s (u.takeTimerExpiry t) := by
  unfold State.takeTimerExpiry
  try dsimp only
  repeat' split
  all_goals simp (maxDischargeDepth := 100) [h]

@[simp] theorem EngineFrame.takeCooled (h : EngineFrame t s u) : EngineFrame t s (u.takeCooled t) :=
  h.of_modTree _ fun _ => ⟨rfl, rfl, rfl, rfl, rfl, rfl, rfl⟩

@[simp] theorem EngineFrame.takeEndedBars (h : EngineFrame t s u) : EngineFrame t s (u.takeEndedBars t) :=
  h.setBars _ (fun hb => (List.length_filter_le _ _).trans hb) fun _ hb => Or.inl (List.mem_filter.1 hb).1

@[simp] theorem EngineFrame.takeExpiry (order : Nat) (e : Expiry) (h : EngineFrame t s u) :
    EngineFrame t s (u.takeExpiry t order e) := by
  unfold State.takeExpiry
  split <;> simp [h]

@[simp] theorem EngineFrame.countFor (e : Expiry) (h : EngineFrame t s u) : EngineFrame t s (u.countFor t e) := by
  unfold State.countFor
  split <;> simp [h]

@[simp] theorem EngineFrame.react (o : BoundaryOrder) (a : BoundaryAct) (h : EngineFrame t s u) :
    EngineFrame t s (u.react t o a) := by
  unfold State.react
  split
  all_goals try split
  all_goals simp (maxDischargeDepth := 100) [h]

@[simp] theorem EngineFrame.takeReport (c : Cycle) (i : Nat) (r : Reservation) (b : Burst) (count : Nat) (h : EngineFrame t s u) :
    EngineFrame t s (u.takeReport t c i r b count) := by
  unfold State.takeReport
  try dsimp only
  repeat' split
  all_goals simp (maxDischargeDepth := 100) [h]

@[simp] theorem EngineFrame.reportOnSlot (c : Cycle) (record : ReportRecord) (h : EngineFrame t s u) :
    EngineFrame t s (u.reportOnSlot t c record) := by
  unfold State.reportOnSlot
  try dsimp only
  repeat' split
  all_goals simp (maxDischargeDepth := 100) [h]

end Sys2Proof.Machine
end

