-- ==== Sys2Proof/Laws/Entries.lean ====
section
/-! SUPPORT. What the notices, the claims and the copies of owed messages can do to the entries: no more than move a measure
cycle. The passages of an entry follow from it (R23, R65 to R71, R161 to R164). -/

namespace Sys2Proof.Machine

/-- Nothing of the Terminal Register changed but measure cycles, and no event was written. -/
structure ClaimsOnly (s u : State) : Prop where
  entries : ∀ j, entryKept (s.entry j) (u.entry j)
  markIndex : u.markIndex = s.markIndex
  bars : u.bars = s.bars
  eventQueue : u.eventQueue = s.eventQueue

variable {t : TreeId} {s u : State}

theorem entryKept.rfl' (e : Entry) : entryKept e e := ⟨rfl, fun _ => rfl⟩

theorem sameButClaim.trans {e f g : Entry} (h : sameButClaim e f) (k : sameButClaim f g) : sameButClaim e g := by
  unfold sameButClaim at *
  rw [k, h]

theorem entryKept.trans {e f g : Entry} (h : entryKept e f) (k : entryKept f g) : entryKept e g :=
  ⟨k.1.trans h.1, fun he => (h.2 he).trans (k.2 (by rw [h.1]; exact he))⟩

@[simp] theorem ClaimsOnly.refl (s : State) : ClaimsOnly s s := ⟨fun _ => entryKept.rfl' _, rfl, rfl, rfl⟩

theorem ClaimsOnly.trans {w : State} (h : ClaimsOnly s u) (k : ClaimsOnly u w) : ClaimsOnly s w :=
  ⟨fun j => (h.entries j).trans (k.entries j), k.markIndex.trans h.markIndex, k.bars.trans h.bars,
    k.eventQueue.trans h.eventQueue⟩

theorem ClaimsOnly.foldl {α : Type} (f : State → α → State) (hf : ∀ u a, ClaimsOnly u (f u a)) (l : List α)
    (h : ClaimsOnly s u) : ClaimsOnly s (l.foldl f u) := by
  induction l generalizing u with
  | nil => exact h
  | cons a l ih => exact ih (h.trans (hf u a))

/-- What keeps an entry that is not FREE outside its measure cycle: its claim-free reading is the same. -/
theorem ClaimsOnly.entry_eq (h : ClaimsOnly s u) {j : Nat} (hj : (s.entry j).state ≠ .free) :
    sameButClaim (s.entry j) (u.entry j) := (h.entries j).2 hj

/-- A measure cycle set or cleared. -/
@[simp] theorem ClaimsOnly.setMeasureCycle (j : Nat) (c : Option Cycle) (h : ClaimsOnly s u) :
    ClaimsOnly s (u.modEntry j fun e => { e with measureCycle := c }) := by
  refine h.trans ⟨fun k => ?_, rfl, rfl, rfl⟩
  unfold State.modEntry
  rw [State.entry_setEntry]
  split
  · rename_i hk
    subst hk
    by_cases hf : (u.entry k).state = .free
    · rw [if_pos hf]
      exact ⟨hf.symm, fun hn => absurd hf hn⟩
    · rw [if_neg hf]
      exact ⟨rfl, fun _ => rfl⟩
  · exact entryKept.rfl' _

@[simp] theorem ClaimsOnly.modTree (v : TreeId) (f : Tree → Tree) (h : ClaimsOnly s u) :
    ClaimsOnly s (u.modTree v f) := h.trans ⟨fun _ => entryKept.rfl' _, rfl, rfl, rfl⟩

@[simp] theorem ClaimsOnly.makeFrame (f : LinkFrame) (h : ClaimsOnly s u) : ClaimsOnly s (u.makeFrame f) := by
  refine h.trans ?_
  unfold State.makeFrame
  split <;> exact ⟨fun _ => entryKept.rfl' _, rfl, rfl, rfl⟩

@[simp] theorem ClaimsOnly.modCalendar (v : TreeId) (f : Calendar → Calendar) (h : ClaimsOnly s u) :
    ClaimsOnly s (u.modCalendar v f) := h.modTree v _

@[simp] theorem ClaimsOnly.modDiscovery (v : TreeId) (f : Discovery → Discovery) (h : ClaimsOnly s u) :
    ClaimsOnly s (u.modDiscovery v f) := h.modTree v _

@[simp] theorem ClaimsOnly.modUpkeep (v : TreeId) (f : Upkeep → Upkeep) (h : ClaimsOnly s u) :
    ClaimsOnly s (u.modUpkeep v f) := h.modTree v _

@[simp] theorem ClaimsOnly.modControl (v : TreeId) (f : ControlQueue → ControlQueue) (h : ClaimsOnly s u) :
    ClaimsOnly s (u.modControl v f) := h.modTree v _

@[simp] theorem ClaimsOnly.countBy (v : TreeId) (k : TreeCounter) (n : Nat) (h : ClaimsOnly s u) :
    ClaimsOnly s (u.countBy v k n) := h.modTree v _

@[simp] theorem ClaimsOnly.modSlot (v : TreeId) (c : Cycle) (f : Slot → Slot) (h : ClaimsOnly s u) :
    ClaimsOnly s (u.modSlot v c f) := h.modCalendar v _

@[simp] theorem ClaimsOnly.count (v : TreeId) (k : TreeCounter) (h : ClaimsOnly s u) :
    ClaimsOnly s (u.count v k) := h.countBy v k 1

@[simp] theorem ClaimsOnly.rosterNotice (v : TreeId) (j : Nat) (r : RosterState) (h : ClaimsOnly s u) :
    ClaimsOnly s (u.rosterNotice v j r) := h.makeFrame _

@[simp] theorem ClaimsOnly.grantClaim (q : Claim) (c : Cycle) (h : ClaimsOnly s u) :
    ClaimsOnly s (u.grantClaim t q c) := by
  unfold State.grantClaim
  dsimp only
  split <;> simp (maxDischargeDepth := 100) [h]

theorem ClaimsOnly.tryClaim (q : Claim) (h : ClaimsOnly s u) : ClaimsOnly s ((u.tryClaim t q).getD u) := by
  unfold State.tryClaim
  cases (u.tree t).eligibleSlot q with
  | none => exact h
  | some k => exact h.grantClaim q k.cycle

@[simp] theorem ClaimsOnly.arbitrate (h : ClaimsOnly s u) : ClaimsOnly s (u.arbitrate t) := by
  unfold State.arbitrate
  exact ClaimsOnly.foldl _ (fun u q => (ClaimsOnly.refl u).tryClaim q) _ h

@[simp] theorem ClaimsOnly.requestClaim (q : Claim) (h : ClaimsOnly s u) : ClaimsOnly s (u.requestClaim t q) := by
  unfold State.requestClaim State.tryClaim
  split
  · cases (u.tree t).eligibleSlot q with
    | none => exact h.modCalendar t fun w => { w with claims := insertClaim q w.claims }
    | some k => exact h.grantClaim q k.cycle
  · exact h

@[simp] theorem ClaimsOnly.cancelWindow (c : Cycle) (h : ClaimsOnly s u) : ClaimsOnly s (u.cancelWindow t c) := by
  unfold State.cancelWindow
  simp (maxDischargeDepth := 100) [h]

@[simp] theorem ClaimsOnly.dropClaim (j : Nat) (h : ClaimsOnly s u) : ClaimsOnly s (u.dropClaim t j) := by
  unfold State.dropClaim
  try dsimp only
  repeat' split
  all_goals simp (maxDischargeDepth := 100) [h]

@[simp] theorem ClaimsOnly.dropSettleDue (j : Nat) (h : ClaimsOnly s u) : ClaimsOnly s (u.dropSettleDue t j) := by
  unfold State.dropSettleDue
  simp (maxDischargeDepth := 100) [h]

@[simp] theorem ClaimsOnly.joinSettleDue (j : Nat) (h : ClaimsOnly s u) : ClaimsOnly s (u.joinSettleDue t j) := by
  unfold State.joinSettleDue
  simp (maxDischargeDepth := 100) [h]

@[simp] theorem ClaimsOnly.strike (j : Nat) (h : ClaimsOnly s u) : ClaimsOnly s (u.strike t j) := by
  unfold State.strike
  try dsimp only
  repeat' split
  all_goals simp (maxDischargeDepth := 100) [h]

@[simp] theorem ClaimsOnly.joinCopy (j : Nat) (h : ClaimsOnly s u) : ClaimsOnly s (u.joinCopy t j) := by
  unfold State.joinCopy
  try dsimp only
  repeat' split
  all_goals simp (maxDischargeDepth := 100) [h]

@[simp] theorem ClaimsOnly.fillBacklog (h : ClaimsOnly s u) : ClaimsOnly s (u.fillBacklog t) := by
  unfold State.fillBacklog
  exact ClaimsOnly.foldl _ (fun u j => (ClaimsOnly.refl u).joinCopy j) _ (h.modControl _ _)

@[simp] theorem ClaimsOnly.dropTrim (j : Nat) (h : ClaimsOnly s u) : ClaimsOnly s (u.dropTrim t j) := by
  unfold State.dropTrim
  simp (maxDischargeDepth := 100) [h]

@[simp] theorem ClaimsOnly.rosterLeft (j : Nat) (h : ClaimsOnly s u) : ClaimsOnly s (u.rosterLeft t j) := by
  unfold State.rosterLeft
  simp (maxDischargeDepth := 100) [h]

@[simp] theorem ClaimsOnly.leftNotices (j : Nat) (left : EntryState) (h : ClaimsOnly s u) : ClaimsOnly s (u.leftNotices t j left) := by
  unfold State.leftNotices
  try dsimp only
  repeat' split
  all_goals simp (maxDischargeDepth := 100) [h]

@[simp] theorem ClaimsOnly.dropTrimAfter (j : Nat) (left : EntryState) (h : ClaimsOnly s u) : ClaimsOnly s (u.dropTrimAfter t j left) := by
  unfold State.dropTrimAfter
  try dsimp only
  repeat' split
  all_goals simp (maxDischargeDepth := 100) [h]

@[simp] theorem ClaimsOnly.requestRanging (j : Nat) (h : ClaimsOnly s u) : ClaimsOnly s (u.requestRanging t j) := by
  unfold State.requestRanging
  try dsimp only
  repeat' split
  all_goals simp (maxDischargeDepth := 100) [h]

@[simp] theorem ClaimsOnly.tryCall (h : ClaimsOnly s u) : ClaimsOnly s (u.tryCall t) := by
  unfold State.tryCall
  try dsimp only
  repeat' split
  all_goals simp (maxDischargeDepth := 100) [h]

@[simp] theorem ClaimsOnly.pushBack (head : MarkHead) (h : ClaimsOnly s u) : ClaimsOnly s (u.pushBack t head) := by
  unfold State.pushBack
  simp (maxDischargeDepth := 100) [h]

@[simp] theorem ClaimsOnly.pauseCall (h : ClaimsOnly s u) : ClaimsOnly s (u.pauseCall t) := by
  unfold State.pauseCall
  try dsimp only
  repeat' split
  all_goals simp (maxDischargeDepth := 100) [h]

@[simp] theorem ClaimsOnly.judgeExpiry (h : ClaimsOnly s u) : ClaimsOnly s (u.judgeExpiry t) := by
  unfold State.judgeExpiry
  try dsimp only
  repeat' split
  all_goals simp (maxDischargeDepth := 100) [h]

@[simp] theorem ClaimsOnly.callSent (c : Cycle) (h : ClaimsOnly s u) : ClaimsOnly s (u.callSent t c) := by
  unfold State.callSent
  simp (maxDischargeDepth := 100) [h]

/-! ## The passages -/

/-- An event record touches nothing of the Terminal Register (R190). -/
@[simp] theorem State.entry_writeEvent (s : State) (kind : EventKind) (v : TreeId) (j : Nat) (extra : List EventWord)
    (k : Nat) : (s.writeEvent kind v j extra).entry k = s.entry k := by
  unfold State.writeEvent
  split <;> rfl

@[simp] theorem State.markIndex_writeEvent (s : State) (kind : EventKind) (v : TreeId) (j : Nat)
    (extra : List EventWord) : (s.writeEvent kind v j extra).markIndex = s.markIndex := by
  unfold State.writeEvent
  split <;> rfl

@[simp] theorem State.bars_writeEvent (s : State) (kind : EventKind) (v : TreeId) (j : Nat) (extra : List EventWord) :
    (s.writeEvent kind v j extra).bars = s.bars := by
  unfold State.writeEvent
  split <;> rfl

@[simp] theorem State.tree_writeEvent (s : State) (kind : EventKind) (v : TreeId) (j : Nat) (extra : List EventWord)
    (k : TreeId) : (s.writeEvent kind v j extra).tree k = s.tree k := by
  unfold State.writeEvent
  split <;> rfl

/-- A record that fits joins the end of the Event Queue (R190). -/
theorem State.eventQueue_writeEvent (s : State) (kind : EventKind) (v : TreeId) (j : Nat) (extra : List EventWord)
    (h : s.eventQueue.length + (1 + extra.length) ≤ Config.eventCapacity) :
    (s.writeEvent kind v j extra).eventQueue = s.eventQueue ++ eventHeader kind v j extra :: extra := by
  unfold State.writeEvent
  rw [if_pos h]

/-- An owed message recorded: the entry holds it, and nothing else of the Terminal Register changes (R161). -/
theorem State.recordOwed_entry (s : State) (t : TreeId) (h : Nat) (kind : OwedKind) (sends : Nat)
    (hs : (s.entry h).state ≠ .free) :
    (s.recordOwed t h kind sends).entry h = { s.entry h with owed := some { kind := kind, sends := sends } }
      ∧ (∀ j, j ≠ h → (s.recordOwed t h kind sends).entry j = s.entry j)
      ∧ (s.recordOwed t h kind sends).markIndex = s.markIndex
      ∧ (s.recordOwed t h kind sends).bars = s.bars
      ∧ (s.recordOwed t h kind sends).eventQueue = s.eventQueue := by
  have key : ∀ u : State, u.entries = (s.modEntry h fun e => { e with owed := some { kind := kind, sends := sends } }).entries →
      u.entry h = { s.entry h with owed := some { kind := kind, sends := sends } } ∧ ∀ j, j ≠ h → u.entry j = s.entry j := by
    intro u hu
    have hu' : ∀ j, u.entry j = (s.modEntry h fun e => { e with owed := some { kind := kind, sends := sends } }).entry j :=
      fun j => by unfold State.entry; rw [hu]
    refine ⟨?_, fun j hj => ?_⟩
    · rw [hu' h, State.entry_modEntry _ _ _ (by exact hs)]
    · rw [hu' j, State.entry_modEntry_ne _ _ _ _ hj]
  unfold State.recordOwed
  dsimp only
  repeat' split
  · unfold State.joinCopy
    split
    · exact ⟨(key _ rfl).1, (key _ rfl).2, rfl, rfl, rfl⟩
    · exact ⟨(key _ rfl).1, (key _ rfl).2, rfl, rfl, rfl⟩
  · exact ⟨(key _ rfl).1, (key _ rfl).2, rfl, rfl, rfl⟩

/-- An entry that changes state, records an owed message and gives its notices: the new record, but for a measure cycle, and
the other entries kept (R23, R161, R165). -/
theorem State.passage (s : State) (t : TreeId) (h : Nat) (f : Entry → Entry) (kind : OwedKind) (sends : Nat)
    (hf : (f (s.entry h)).state ≠ .free) {u : State}
    (hu : ClaimsOnly ((s.modEntry h f).recordOwed t h kind sends) u) :
    sameButClaim { f (s.entry h) with owed := some { kind := kind, sends := sends } } (u.entry h)
      ∧ othersKept h s u ∧ u.markIndex = s.markIndex ∧ u.bars = s.bars ∧ u.eventQueue = s.eventQueue := by
  have he := State.entry_modEntry s h f hf
  have hn : ((s.modEntry h f).entry h).state ≠ .free := by rw [he]; exact hf
  obtain ⟨r1, r2, r3, r4, r5⟩ := State.recordOwed_entry (s.modEntry h f) t h kind sends hn
  refine ⟨?_, fun j hj => ?_, hu.markIndex.trans r3, hu.bars.trans r4, hu.eventQueue.trans r5⟩
  · have := hu.entry_eq (j := h) (by rw [r1]; exact hn)
    rw [r1, he] at this
    exact this
  · have := hu.entries j
    rw [r2 j hj, State.entry_modEntry_ne _ _ _ _ hj] at this
    exact this

/-- A departure: DEPARTING with its reason and its owed RELEASE, no event, the other entries kept (R165, R167). -/
theorem State.departEntry_outcome (s : State) (t : TreeId) (h : Nat) (reason : DepartureReason) (sends : Nat) :
    sameButClaim { (s.entry h).toDeparting reason with owed := some { kind := .release, sends := sends } }
        ((s.departEntry t h reason sends).entry h)
      ∧ othersKept h s (s.departEntry t h reason sends)
      ∧ (s.departEntry t h reason sends).markIndex = s.markIndex
      ∧ (s.departEntry t h reason sends).bars = s.bars
      ∧ (s.departEntry t h reason sends).eventQueue = s.eventQueue :=
  State.passage s t h (fun e => e.toDeparting reason) .release sends (by simp [Entry.toDeparting])
    (by unfold State.departEntry; simp (maxDischargeDepth := 100))

/-- A hush: HUSHED with its owed HUSH, the other entries kept, HUSHED written where it fits (R165, R170, R178). -/
theorem State.hushEntry_outcome (s : State) (t : TreeId) (h : Nat) (bySweep : Bool) :
    sameButClaim { (s.entry h).toHushed bySweep with owed := some { kind := .hush, sends := 3 } }
        ((s.hushEntry t h bySweep).entry h)
      ∧ othersKept h s (s.hushEntry t h bySweep)
      ∧ (s.hushEntry t h bySweep).markIndex = s.markIndex
      ∧ (s.hushEntry t h bySweep).bars = s.bars
      ∧ (s.eventQueue.length + 2 ≤ 1024 →
        (s.hushEntry t h bySweep).eventQueue = s.eventQueue
          ++ [eventHeader .hushed t h [halves (s.entry h).state.code (yesNo bySweep)],
            halves (s.entry h).state.code (yesNo bySweep)]) := by
  have base := State.passage s t h (fun e => e.toHushed bySweep) .hush 3 (by simp [Entry.toHushed])
    (u := ((((s.modEntry h fun e => e.toHushed bySweep).recordOwed t h .hush 3).leftNotices t h (s.entry h).state).dropTrimAfter
      t h (s.entry h).state)) (by simp (maxDischargeDepth := 100))
  obtain ⟨b1, b2, b3, b4, b5⟩ := base
  unfold State.hushEntry
  dsimp only
  refine ⟨by simpa using b1, fun j hj => by simpa using b2 j hj, by simpa using b3, by simpa using b4, fun hfit => ?_⟩
  rw [State.eventQueue_writeEvent _ _ _ _ _ (by rw [b5]; simpa [Config.eventCapacity] using hfit), b5]

end Sys2Proof.Machine
end

