-- ==== Sys2Proof/Laws/Bars.lean ====
section
/-! SUPPORT. The Bar List under the operations: what leaves it alone, and what a boundary does to it (R31, R32). -/

namespace Sys2Proof.Machine

variable (s : State) (t : TreeId) (h : Nat)

/-! ## Operations that leave the Bar List alone -/

theorem State.bars_foldl {α : Type} (f : State → α → State) (hf : ∀ u a, (f u a).bars = u.bars) (l : List α) (u : State) :
    (l.foldl f u).bars = u.bars := by
  induction l generalizing u with
  | nil => rfl
  | cons a l ih => exact (ih _).trans (hf u a)

@[simp] theorem State.bars_modTree (f : Tree → Tree) : (s.modTree t f).bars = s.bars := rfl
@[simp] theorem State.bars_modCalendar (f : Calendar → Calendar) : (s.modCalendar t f).bars = s.bars := rfl
@[simp] theorem State.bars_modSlot (c : Cycle) (f : Slot → Slot) : (s.modSlot t c f).bars = s.bars := rfl
@[simp] theorem State.bars_modDiscovery (f : Discovery → Discovery) : (s.modDiscovery t f).bars = s.bars := rfl
@[simp] theorem State.bars_modUpkeep (f : Upkeep → Upkeep) : (s.modUpkeep t f).bars = s.bars := rfl
@[simp] theorem State.bars_modControl (f : ControlQueue → ControlQueue) : (s.modControl t f).bars = s.bars := rfl
@[simp] theorem State.bars_modRogue (f : RogueMonitor → RogueMonitor) : (s.modRogue t f).bars = s.bars := rfl
@[simp] theorem State.bars_modEntry (f : Entry → Entry) : (s.modEntry h f).bars = s.bars := rfl
@[simp] theorem State.bars_count (c : TreeCounter) : (s.count t c).bars = s.bars := rfl
@[simp] theorem State.bars_countBy (c : TreeCounter) (n : Nat) : (s.countBy t c n).bars = s.bars := rfl
@[simp] theorem State.bars_setSweepEnd : (s.setSweepEnd t).bars = s.bars := rfl

@[simp] theorem State.bars_makeFrame (f : LinkFrame) : (s.makeFrame f).bars = s.bars := by
  unfold State.makeFrame
  split <;> rfl

@[simp] theorem State.bars_rosterNotice (r : RosterState) : (s.rosterNotice t h r).bars = s.bars := by
  unfold State.rosterNotice
  simp

@[simp] theorem State.bars_grantClaim (q : Claim) (c : Cycle) : (s.grantClaim t q c).bars = s.bars := by
  unfold State.grantClaim
  dsimp only
  split <;> simp

theorem State.bars_tryClaim (q : Claim) : ((s.tryClaim t q).getD s).bars = s.bars := by
  unfold State.tryClaim
  cases (s.tree t).eligibleSlot q <;> simp

@[simp] theorem State.bars_arbitrate : (s.arbitrate t).bars = s.bars :=
  State.bars_foldl _ (fun u q => u.bars_tryClaim t q) _ s

@[simp] theorem State.bars_requestClaim (q : Claim) : (s.requestClaim t q).bars = s.bars := by
  unfold State.requestClaim State.tryClaim
  split
  · cases (s.tree t).eligibleSlot q <;> simp
  · rfl

@[simp] theorem State.bars_requestRanging : (s.requestRanging t h).bars = s.bars := by
  unfold State.requestRanging
  split <;> simp

@[simp] theorem State.bars_tryCall : (s.tryCall t).bars = s.bars := by
  unfold State.tryCall
  dsimp only
  repeat' split
  all_goals simp

@[simp] theorem State.bars_cancelWindow (c : Cycle) : (s.cancelWindow t c).bars = s.bars := by
  unfold State.cancelWindow
  simp

@[simp] theorem State.bars_dropClaim : (s.dropClaim t h).bars = s.bars := by
  unfold State.dropClaim
  dsimp only
  split <;> simp

@[simp] theorem State.bars_dropSettleDue : (s.dropSettleDue t h).bars = s.bars := rfl

@[simp] theorem State.bars_strike : (s.strike t h).bars = s.bars := by
  unfold State.strike
  dsimp only
  split <;> simp

@[simp] theorem State.bars_rosterLeft : (s.rosterLeft t h).bars = s.bars := by
  unfold State.rosterLeft
  simp

@[simp] theorem State.bars_leftNotices (left : EntryState) : (s.leftNotices t h left).bars = s.bars := by
  unfold State.leftNotices
  split <;> simp

@[simp] theorem State.bars_joinCopy : (s.joinCopy t h).bars = s.bars := by
  unfold State.joinCopy
  split <;> simp

@[simp] theorem State.bars_fillBacklog : (s.fillBacklog t).bars = s.bars :=
  State.bars_foldl _ (fun u j => u.bars_joinCopy t j) _ _

@[simp] theorem State.bars_dropTrim : (s.dropTrim t h).bars = s.bars := by
  unfold State.dropTrim
  simp

@[simp] theorem State.bars_dropTrimAfter (left : EntryState) : (s.dropTrimAfter t h left).bars = s.bars := by
  unfold State.dropTrimAfter
  split <;> simp

@[simp] theorem State.bars_recordOwed (kind : OwedKind) (sends : Nat) : (s.recordOwed t h kind sends).bars = s.bars := by
  unfold State.recordOwed
  dsimp only
  split <;> simp

@[simp] theorem State.bars_hushEntry (bySweep : Bool) : (s.hushEntry t h bySweep).bars = s.bars := by
  unfold State.hushEntry
  simp

@[simp] theorem State.bars_departEntry (reason : DepartureReason) (sends : Nat) :
    (s.departEntry t h reason sends).bars = s.bars := by
  unfold State.departEntry
  simp

@[simp] theorem State.bars_unhushToRegistered : (s.unhushToRegistered t h).bars = s.bars := by
  unfold State.unhushToRegistered
  simp

@[simp] theorem State.bars_unhushToReranging : (s.unhushToReranging t h).bars = s.bars := by
  unfold State.unhushToReranging
  simp

@[simp] theorem State.bars_rerange (origin : RangingOrigin) (reason : Nat) :
    (s.rerange t h origin reason).bars = s.bars := by
  unfold State.rerange
  simp

@[simp] theorem State.bars_sweepStep (cursor dwell tried : Nat) : (s.sweepStep t cursor dwell tried).bars = s.bars := by
  unfold State.sweepStep
  split <;> simp

@[simp] theorem State.bars_sweepOverride : (s.sweepOverride t h).bars = s.bars := by
  unfold State.sweepOverride
  split
  · split <;> simp
  · rfl

@[simp] theorem State.bars_sweepAbort (w : Sweep) : (s.sweepAbort t w).bars = s.bars := by
  unfold State.sweepAbort
  simp

@[simp] theorem State.bars_judgeExpiry : (s.judgeExpiry t).bars = s.bars := by
  unfold State.judgeExpiry
  dsimp only
  repeat' split
  all_goals simp

@[simp] theorem State.bars_judgeGrace (order : Nat) : (s.judgeGrace t order).bars = s.bars :=
  State.bars_foldl _ (fun u j => u.bars_departEntry t j .grace 3) _ s

@[simp] theorem State.bars_judgeDwell : (s.judgeDwell t).bars = s.bars := by
  unfold State.judgeDwell
  split
  · split <;> simp
  · rfl

/-! ## The Bar List at a boundary -/

/-- An expiry taken brings no bar into the list (R32). -/
theorem State.takeExpiry_bars (order : Nat) (e : Expiry) : ∀ b ∈ (s.takeExpiry t order e).bars, b ∈ s.bars := by
  intro b hb
  unfold State.takeExpiry at hb
  split at hb
  · unfold State.takeTimerExpiry at hb
    split at hb
    · simpa using hb
    · exact hb
  · exact hb
  · exact (List.mem_filter.1 hb).1
  · simpa using hb
  · simpa using hb

/-- A boundary: every bar it leaves stood before and has counted it once, or was set at it and has counted none
(R31, R32). -/
theorem State.boundaryUnder_bars (o : BoundaryOrder) :
    ∀ b ∈ (s.boundaryUnder t o).bars, (∃ a ∈ s.bars, b = a.countBoundary t)
      ∨ b.kind = .timed t ((s.boundaryUnder t o).tree t).tuning.holdOff 0 := by
  intro b hb
  have leftovers : ∀ (l : List Expiry) (u : State),
      ∀ a ∈ (l.foldl (fun s e => s.takeExpiry t o.grace e) u).bars, a ∈ u.bars := by
    intro l
    induction l with
    | nil => exact fun u a ha => ha
    | cons e l ih => exact fun u a ha => u.takeExpiry_bars t o.grace e a (ih _ a ha)
  have frame := EngineFrame.foldl (t := t) (fun (u : State) a => u.react t o a)
    (fun u _ => (EngineFrame.refl t u).react _ _) o.sequence
    (EngineFrame.refl t ((((arrange o.leftovers allExpiries).foldl (fun s e => s.takeExpiry t o.grace e) s).advance t).countBars t))
  obtain hmem | hkind := frame.barsFrom b hb
  · obtain ⟨a, ha, rfl⟩ := List.mem_map.1 hmem
    exact Or.inl ⟨a, leftovers _ s a ha, rfl⟩
  · exact Or.inr (hkind.trans (congrArg (fun x : TuneTable Nat => BarKind.timed t x.holdOff 0) frame.tree.tuning.symm))

end Sys2Proof.Machine
end

