-- ==== Sys2Proof/Laws/Commands.lean ====
section
/-! SUPPORT. What each command's meaning can do, over the frame of the engines: one lemma per shared operation. -/

namespace Sys2Proof.Machine

/-- Nothing happened, or the engines of one tree in service acted. -/
def engineOnly (s u : State) : Prop := u = s ∨ ∃ t, (s.tree t).inService = true ∧ EngineFrame t s u

theorem engineOnly.refl (s : State) : engineOnly s s := Or.inl rfl

theorem State.treeOf_some {s : State} {h : Nat} {t : TreeId} (ht : s.treeOf h = some t) :
    (s.tree t).inService = true ∧ (s.tree t).inWindow h = true := by
  have := List.find?_some ht
  simpa using this

/-- What a GO does: the command is judged, or COLLIDE is set (R185, R186). -/
theorem State.goWith_free {s : State} (judge : Quad Word → State → Judged) (h : s.running = none) :
    s.goWith judge = s.runCommand judge := by simp [State.goWith, State.busy, h]

theorem State.goWith_busy {s : State} (judge : Quad Word → State → Judged) (h : s.running.isSome = true) :
    s.goWith judge = s.setCollide := by simp [State.goWith, State.busy, h]

/-- A judgement of a tree keeps to a property that a refusal and every tree's judgement keep to. -/
theorem forTree_state {P : State → Prop} {w : Word} {s : State} {judge : TreeId → Judged} (h0 : P s)
    (h : ∀ t, P (judge t).state) : P (forTree w s judge).state := by
  unfold forTree
  split
  · exact h _
  · exact h0

theorem forHandle_state {P : State → Prop} {w : Word} {s : State} {judge : Nat → Judged} (h0 : P s)
    (h : ∀ j, P (judge j).state) : P (forHandle w s judge).state := by
  unfold forHandle
  split
  · exact h _
  · exact h0

theorem onEntry_state {w : Word} {s : State} {takes : EntryState → Bool} {act : TreeId → Nat → State}
    (h : ∀ t j, EngineFrame t s (act t j)) : engineOnly s (onEntry w s takes act).state := by
  refine forHandle_state (P := engineOnly s) (engineOnly.refl s) fun j => ?_
  split
  · rename_i ht
    exact Or.inr ⟨_, (State.treeOf_some ht).1, h _ _⟩
  · exact engineOnly.refl s

@[simp] theorem EngineFrame.tellMonitor {t : TreeId} {s u : State} (j : Nat) (was : Entry) (h : EngineFrame t s u) :
    EngineFrame t s (u.tellMonitor t j was) := by
  unfold State.tellMonitor
  split <;> simp [h]

@[simp] theorem EngineFrame.unhushEntry {t : TreeId} {s u : State} (j : Nat) (h : EngineFrame t s u) :
    EngineFrame t s (u.unhushEntry t j) := by
  unfold State.unhushEntry
  split <;> simp [h]

/-! ## The host commands on handles, marks and the sweep -/

theorem judgeReserve_frame (a : Quad Word) (s : State) : engineOnly s (judgeReserve a s).state := by
  unfold judgeReserve
  dsimp only
  split
  · exact engineOnly.refl s
  · split
    · exact engineOnly.refl s
    · rename_i ht
      repeat' split
      all_goals first
        | exact engineOnly.refl s
        | exact Or.inr ⟨_, (State.treeOf_some ht).1,
            EngineFrame.enterEntry _ _ _
              ((EngineFrame.refl _ s).of_modTree _ fun _ => ⟨rfl, rfl, rfl, rfl, rfl, rfl, rfl⟩)⟩

theorem judgeUnreserve_frame (a : Quad Word) (s : State) : engineOnly s (judgeUnreserve a s).state := by
  refine forHandle_state (P := engineOnly s) (engineOnly.refl s) fun j => ?_
  split
  · rename_i t _ ht
    exact Or.inr ⟨t, (State.treeOf_some ht).1,
      EngineFrame.of_modTree (fun x => { x with freePool := j :: x.freePool })
        (fun _ => ⟨rfl, rfl, rfl, rfl, rfl, rfl, rfl⟩) ((EngineFrame.refl t s).freeEntry j)⟩
  · exact engineOnly.refl s

theorem judgeRelease_frame (a : Quad Word) (s : State) : engineOnly s (judgeRelease a s).state :=
  onEntry_state fun t j => by simp

theorem judgeHush_frame (a : Quad Word) (s : State) : engineOnly s (judgeHush a s).state :=
  onEntry_state fun t j => by simp

theorem judgeForceRange_frame (a : Quad Word) (s : State) : engineOnly s (judgeForceRange a s).state :=
  onEntry_state fun t j => by simp

theorem judgeUnhush_frame (a : Quad Word) (s : State) : engineOnly s (judgeUnhush a s).state := by
  refine forHandle_state (P := engineOnly s) (engineOnly.refl s) fun j => ?_
  split
  · rename_i ht
    exact Or.inr ⟨_, (State.treeOf_some ht).1, by simp [doneWith]⟩
  · exact engineOnly.refl s

theorem judgeSweepStart_frame (a : Quad Word) (s : State) : engineOnly s (judgeSweepStart a s).state := by
  unfold judgeSweepStart
  dsimp only
  split
  · exact engineOnly.refl s
  · refine forTree_state (P := engineOnly s) (engineOnly.refl s) fun t => ?_
    by_cases hs : (s.tree t).inService = true
    · repeat' split
      all_goals first
        | exact engineOnly.refl s
        | exact Or.inr ⟨t, hs, by simp [doneWith]⟩
    · simp only [hs, Bool.not_false, if_true]
      exact engineOnly.refl s

/-- SWEEP_ABORT changes a tree only where a sweep runs on it (R182). -/
theorem judgeSweepAbort_frame (a : Quad Word) (s : State) :
    (judgeSweepAbort a s).state = s
      ∨ ∃ t, (s.tree t).rogue.sweep.isSome = true ∧ EngineFrame t s (judgeSweepAbort a s).state := by
  unfold judgeSweepAbort forTree
  split
  · dsimp only
    split
    · rename_i w hw
      exact Or.inr ⟨_, by rw [hw]; rfl, (EngineFrame.refl _ s).sweepAbort w⟩
    · exact Or.inl rfl
  · exact Or.inl rfl

/-- BAR and UNBAR change the Bar List alone (R29, R30). -/
theorem judgeBar_frame (a : Quad Word) (s : State) :
    ∃ bars, (judgeBar a s).state = { s with bars := bars }
      ∧ (s.bars.length ≤ Config.barCapacity → bars.length ≤ Config.barCapacity) := by
  unfold judgeBar
  dsimp only
  split
  · exact ⟨s.bars, rfl, id⟩
  · split
    · split
      · exact ⟨s.bars, rfl, id⟩
      · exact ⟨_, rfl, by rw [replaceBar_length]; exact id⟩
    · split
      · rename_i hj
        exact ⟨_, rfl, joinBar_length hj⟩
      · exact ⟨s.bars, rfl, id⟩

theorem judgeUnbar_frame (a : Quad Word) (s : State) :
    ∃ bars, (judgeUnbar a s).state = { s with bars := bars }
      ∧ (s.bars.length ≤ Config.barCapacity → bars.length ≤ Config.barCapacity) := by
  unfold judgeUnbar
  dsimp only
  split
  · exact ⟨s.bars, rfl, id⟩
  · exact ⟨_, rfl, (List.length_filter_le _ _).trans⟩

/-! ## The reading commands change nothing, but for a counter cleared -/

theorem judgeReadEntry_state (a : Quad Word) (s : State) : (judgeReadEntry a s).state = s := by
  refine forHandle_state (P := fun u => u = s) rfl fun j => ?_
  dsimp only
  split <;> rfl

theorem judgeFindMark_state (a : Quad Word) (s : State) : (judgeFindMark a s).state = s := by
  unfold judgeFindMark
  dsimp only
  split <;> rfl

theorem judgeReadSlot_state (a : Quad Word) (s : State) : (judgeReadSlot a s).state = s := by
  unfold judgeReadSlot
  split
  · rfl
  · refine forTree_state (P := fun u => u = s) rfl fun t => ?_
    split <;> rfl

/-- READ_COUNTERS changes counters alone (R188). -/
theorem judgeReadCounters_state (a : Quad Word) (s : State) :
    (∃ (t : TreeId) (f : Tree → TreeCounters), (judgeReadCounters a s).state = s.modTree t fun x => { x with counters := f x })
      ∨ ∃ a' b c, (judgeReadCounters a s).state = { s with linkCheckErrors := a', reportErrors := b, framesDropped := c } := by
  have keep : ∃ a' b c, s = { s with linkCheckErrors := a', reportErrors := b, framesDropped := c } :=
    ⟨s.linkCheckErrors, s.reportErrors, s.framesDropped, rfl⟩
  unfold judgeReadCounters
  split
  · exact Or.inr keep
  · split
    · right
      unfold readPartCounter doneWith refusedWith
      split
      · exact ⟨if (a.q2 == 1) = true then 0 else s.linkCheckErrors, s.reportErrors, s.framesDropped, by
          dsimp only; split <;> rfl⟩
      · exact ⟨s.linkCheckErrors, if (a.q2 == 1) = true then 0 else s.reportErrors, s.framesDropped, by
          dsimp only; split <;> rfl⟩
      · exact ⟨s.linkCheckErrors, s.reportErrors, if (a.q2 == 1) = true then 0 else s.framesDropped, by
          dsimp only; split <;> rfl⟩
      · exact keep
    · unfold forTree
      split
      · rename_i t _
        unfold readTreeCounter doneWith refusedWith
        dsimp only
        split
        · rename_i k _
          by_cases hc : (a.q2 == 1) = true
          · exact Or.inl ⟨t, fun x => x.counters.put k 0, by rw [if_pos hc]⟩
          · exact Or.inr (by rw [if_neg hc]; exact keep)
        · split
          · exact Or.inr keep
          · split
            · exact Or.inr keep
            · exact Or.inr keep
      · exact Or.inr keep

/-! ## Boundaries, reports and expiries -/

/-- The free orders are drawn from the model's own fields alone (log 4). -/
theorem State.takeChoices_frame (n : Nat) (s : State) :
    ∃ c k, (s.takeChoices n).2 = { s with choices := c, freeCount := k } := by
  induction n generalizing s with
  | zero => exact ⟨s.choices, s.freeCount, rfl⟩
  | succ n ih =>
    obtain ⟨c, k, h⟩ := ih s.dropChoice
    refine ⟨c, k, ?_⟩
    show (s.dropChoice.takeChoices n).2 = _
    rw [h]
    unfold State.dropChoice
    split <;> rfl

theorem State.boundaryOrder_frame (s : State) :
    ∃ c k, s.boundaryOrder.2 = { s with choices := c, freeCount := k } := s.takeChoices_frame 5

/-- A boundary: engines act before and after N advances, the tuning comes into force and the bars count (R3, R32, R40). -/
theorem State.boundaryUnder_frame (s : State) (t : TreeId) (o : BoundaryOrder) :
    ∃ u, EngineFrame t s u ∧ EngineFrame t ((u.advance t).countBars t) (s.boundaryUnder t o) :=
  ⟨_, EngineFrame.foldl _ (fun u _ => (EngineFrame.refl t u).takeExpiry _ _) _ (EngineFrame.refl t s),
    EngineFrame.foldl _ (fun u _ => (EngineFrame.refl t u).react _ _) _ (EngineFrame.refl t _)⟩

end Sys2Proof.Machine
end

