-- ==== Sys2Proof/Laws/Rings.lean ====
section
/-! SUPPORT. The cycles of a tree's ring: every operation of the engines keeps them, but for the close of the slot of cycle
N − 2 and the joining of the slot of cycle N + 14, which a boundary makes once each (R57, R59). -/

namespace Sys2Proof.Machine

/-- The cycles of the ring of tree t are the same, in the same order. -/
def RingKept (t : TreeId) (s u : State) : Prop :=
  (u.tree t).calendar.ring.map Slot.cycle = (s.tree t).calendar.ring.map Slot.cycle

variable {t : TreeId} {s u : State}

@[simp] theorem RingKept.refl (t : TreeId) (s : State) : RingKept t s s := rfl

theorem RingKept.trans {w : State} (h : RingKept t s u) (k : RingKept t u w) : RingKept t s w := Eq.trans k h

theorem RingKept.foldl {α : Type} (f : State → α → State) (hf : ∀ u a, RingKept t u (f u a)) (l : List α)
    (h : RingKept t s u) : RingKept t s (l.foldl f u) := by
  induction l generalizing u with
  | nil => exact h
  | cons a l ih => exact ih (h.trans (hf u a))

/-- A change of slots that keeps each slot's cycle keeps the cycles of the ring. -/
theorem map_cycle_ite {p : Slot → Prop} [DecidablePred p] (f : Slot → Slot) (hf : ∀ k, (f k).cycle = k.cycle)
    (ring : List Slot) : (ring.map fun k => if p k then f k else k).map Slot.cycle = ring.map Slot.cycle := by
  rw [List.map_map]
  refine List.map_congr_left fun k _ => ?_
  by_cases h : p k <;> simp [h, hf]

theorem RingKept.of_modTree (f : Tree → Tree) (hf : ∀ x, (f x).calendar.ring = x.calendar.ring) (h : RingKept t s u) :
    RingKept t s (u.modTree t f) := by
  unfold RingKept at h ⊢
  rw [State.tree_modTree, if_pos rfl, hf, h]

theorem RingKept.of_modCalendar (f : Calendar → Calendar)
    (hf : ∀ w, (f w).ring.map Slot.cycle = w.ring.map Slot.cycle) (h : RingKept t s u) :
    RingKept t s (u.modCalendar t f) := by
  unfold RingKept State.modCalendar at *
  rw [State.tree_modTree, if_pos rfl]
  exact (hf _).trans h

/-- A change of the calendar that leaves the ring alone. -/
@[simp] theorem RingKept.modCalendar (f : Calendar → Calendar) (hf : ∀ w, (f w).ring = w.ring)
    (h : RingKept t s u) : RingKept t s (u.modCalendar t f) := h.of_modCalendar f fun w => by rw [hf]

@[simp] theorem RingKept.modDiscovery (f : Discovery → Discovery) (h : RingKept t s u) : RingKept t s (u.modDiscovery t f) :=
  h.of_modTree _ fun _ => rfl

@[simp] theorem RingKept.modUpkeep (f : Upkeep → Upkeep) (h : RingKept t s u) : RingKept t s (u.modUpkeep t f) :=
  h.of_modTree _ fun _ => rfl

@[simp] theorem RingKept.modControl (f : ControlQueue → ControlQueue) (h : RingKept t s u) : RingKept t s (u.modControl t f) :=
  h.of_modTree _ fun _ => rfl

@[simp] theorem RingKept.modRogue (f : RogueMonitor → RogueMonitor) (h : RingKept t s u) : RingKept t s (u.modRogue t f) :=
  h.of_modTree _ fun _ => rfl

@[simp] theorem RingKept.countBy (k : TreeCounter) (n : Nat) (h : RingKept t s u) : RingKept t s (u.countBy t k n) :=
  h.of_modTree _ fun _ => rfl

@[simp] theorem RingKept.count (k : TreeCounter) (h : RingKept t s u) : RingKept t s (u.count t k) :=
  h.of_modTree _ fun _ => rfl

@[simp] theorem RingKept.setDarkChg (h : RingKept t s u) : RingKept t s (u.setDarkChg t) :=
  h.of_modTree _ fun _ => rfl

@[simp] theorem RingKept.setRogueChg (h : RingKept t s u) : RingKept t s (u.setRogueChg t) :=
  h.of_modTree _ fun _ => rfl

@[simp] theorem RingKept.setSweepEnd (h : RingKept t s u) : RingKept t s (u.setSweepEnd t) :=
  h.of_modTree _ fun _ => rfl

@[simp] theorem RingKept.setTableFull (h : RingKept t s u) : RingKept t s (u.setTableFull t) :=
  h.of_modTree _ fun _ => rfl

@[simp] theorem RingKept.setEntry (j : Nat) (e : Entry) (h : RingKept t s u) : RingKept t s (u.setEntry j e) := h

@[simp] theorem RingKept.modEntry (j : Nat) (f : Entry → Entry) (h : RingKept t s u) : RingKept t s (u.modEntry j f) := h

@[simp] theorem RingKept.enterEntry (j : Nat) (m : Mark) (e : Entry) (h : RingKept t s u) : RingKept t s (u.enterEntry j m e) := h

@[simp] theorem RingKept.freeEntry (j : Nat) (h : RingKept t s u) : RingKept t s (u.freeEntry j) := h

@[simp] theorem RingKept.countReportError (h : RingKept t s u) : RingKept t s u.countReportError := h

@[simp] theorem RingKept.writeEvent (kind : EventKind) (v : TreeId) (j : Nat) (extra : List EventWord)
    (h : RingKept t s u) : RingKept t s (u.writeEvent kind v j extra) := by
  unfold State.writeEvent
  split <;> exact h

@[simp] theorem RingKept.makeFrame (f : LinkFrame) (h : RingKept t s u) : RingKept t s (u.makeFrame f) := by
  unfold State.makeFrame
  split <;> exact h

@[simp] theorem RingKept.rosterNotice (v : TreeId) (j : Nat) (r : RosterState) (h : RingKept t s u) :
    RingKept t s (u.rosterNotice v j r) := h.makeFrame _

@[simp] theorem RingKept.setBars (bars : List BarRecord) (h : RingKept t s u) :
    RingKept t s { u with bars := bars } := h

/-! ## The calendar -/

@[simp] theorem RingKept.modSlot (c : Cycle) (f : Slot → Slot) (hf : ∀ k, (f k).cycle = k.cycle)
    (h : RingKept t s u) : RingKept t s (u.modSlot t c f) :=
  h.of_modCalendar (fun w => w.modSlot c f) fun w => map_cycle_ite f hf w.ring

@[simp] theorem RingKept.grantClaim (q : Claim) (c : Cycle) (h : RingKept t s u) :
    RingKept t s (u.grantClaim t q c) := by
  have base : RingKept t s (u.modCalendar t fun w =>
      { w.modSlot c fun k =>
          { k with
            state := k.state.withQuiet
            reservations := insertReservation ((u.tree t).windowFor q) k.reservations } with
        claims := w.claims.erase q }) :=
    h.of_modCalendar _ fun w => map_cycle_ite (p := fun k => k.cycle = c)
      (fun k => { k with
        state := k.state.withQuiet
        reservations := insertReservation ((u.tree t).windowFor q) k.reservations })
      (fun _ => rfl) w.ring
  unfold State.grantClaim
  dsimp only
  split
  · exact (base.makeFrame _).modEntry _ _
  · exact (base.makeFrame _).modDiscovery _

theorem RingKept.tryClaim (q : Claim) (h : RingKept t s u) : RingKept t s ((u.tryClaim t q).getD u) := by
  unfold State.tryClaim
  cases (u.tree t).eligibleSlot q with
  | none => exact h
  | some k => exact h.grantClaim q k.cycle

@[simp] theorem RingKept.arbitrate (h : RingKept t s u) : RingKept t s (u.arbitrate t) := by
  unfold State.arbitrate
  exact RingKept.foldl _ (fun u q => (RingKept.refl t u).tryClaim q) _ h

@[simp] theorem RingKept.requestClaim (q : Claim) (h : RingKept t s u) :
    RingKept t s (u.requestClaim t q) := by
  unfold State.requestClaim State.tryClaim
  split
  · cases (u.tree t).eligibleSlot q with
    | none => exact h.modCalendar (fun w => { w with claims := insertClaim q w.claims }) fun _ => rfl
    | some k => exact h.grantClaim q k.cycle
  · exact h

@[simp] theorem RingKept.cancelWindow (c : Cycle) (h : RingKept t s u) :
    RingKept t s (u.cancelWindow t c) := by
  unfold State.cancelWindow
  simp (maxDischargeDepth := 100) [h]

@[simp] theorem RingKept.dropClaim (j : Nat) (h : RingKept t s u) :
    RingKept t s (u.dropClaim t j) := by
  unfold State.dropClaim
  try dsimp only
  repeat' split
  all_goals simp (maxDischargeDepth := 100) [h]

@[simp] theorem RingKept.dropSettleDue (j : Nat) (h : RingKept t s u) :
    RingKept t s (u.dropSettleDue t j) := by
  unfold State.dropSettleDue
  simp (maxDischargeDepth := 100) [h]

@[simp] theorem RingKept.joinSettleDue (j : Nat) (h : RingKept t s u) :
    RingKept t s (u.joinSettleDue t j) := by
  unfold State.joinSettleDue
  simp (maxDischargeDepth := 100) [h]

@[simp] theorem RingKept.strike (j : Nat) (h : RingKept t s u) : RingKept t s (u.strike t j) := by
  have base : RingKept t s (u.modCalendar t fun w =>
      { w with ring := w.ring.map fun k =>
          if k.state.unsent then { k with reservations := k.reservations.filter fun r => !r.struckBy j } else k }) :=
    h.of_modCalendar _ fun w => map_cycle_ite (p := fun k => k.state.unsent = true)
      (fun k => { k with reservations := k.reservations.filter fun r => !r.struckBy j }) (fun _ => rfl) w.ring
  unfold State.strike
  dsimp only
  split
  · exact base.countBy _ _
  · exact (base.countBy _ _).arbitrate

@[simp] theorem RingKept.placeEcho (c : Cycle) (p : EchoPurpose) (j start : Nat) (h : RingKept t s u) :
    RingKept t s (u.placeEcho t c p j start) := by
  unfold State.placeEcho
  try dsimp only
  repeat' split
  all_goals simp (maxDischargeDepth := 100) [h]

@[simp] theorem RingKept.placeEchoes (c : Cycle) (l : List (EchoPurpose × Nat)) (h : RingKept t s u) :
    RingKept t s (u.placeEchoes t c l) := by
  induction l generalizing u with
  | nil => exact h
  | cons x l ih =>
    obtain ⟨p, j⟩ := x
    unfold State.placeEchoes
    split
    · exact h
    · exact ih (h.placeEcho c p j _)

/-! ## The Control Queue -/

@[simp] theorem RingKept.joinCopy (j : Nat) (h : RingKept t s u) :
    RingKept t s (u.joinCopy t j) := by
  unfold State.joinCopy
  try dsimp only
  repeat' split
  all_goals simp (maxDischargeDepth := 100) [h]

@[simp] theorem RingKept.fillBacklog (h : RingKept t s u) : RingKept t s (u.fillBacklog t) := by
  unfold State.fillBacklog
  exact RingKept.foldl _ (fun u j => (RingKept.refl t u).joinCopy j) _ (h.modControl _)

@[simp] theorem RingKept.recordOwed (j : Nat) (kind : OwedKind) (sends : Nat) (h : RingKept t s u) :
    RingKept t s (u.recordOwed t j kind sends) := by
  unfold State.recordOwed
  try dsimp only
  repeat' split
  all_goals simp (maxDischargeDepth := 100) [h]

@[simp] theorem RingKept.dropTrim (j : Nat) (h : RingKept t s u) :
    RingKept t s (u.dropTrim t j) := by
  unfold State.dropTrim
  simp (maxDischargeDepth := 100) [h]

@[simp] theorem RingKept.offerTrim (j : Nat) (amount : Int) (g : Nat) (h : RingKept t s u) :
    RingKept t s (u.offerTrim t j amount g) := by
  unfold State.offerTrim
  try dsimp only
  repeat' split
  all_goals simp (maxDischargeDepth := 100) [h]

@[simp] theorem RingKept.noteHushSent (j : Nat) (h : RingKept t s u) :
    RingKept t s (u.noteHushSent t j) := by
  unfold State.noteHushSent
  try dsimp only
  repeat' split
  all_goals simp (maxDischargeDepth := 100) [h]

@[simp] theorem RingKept.setPool (pool : List Nat) (h : RingKept t s u) :
    RingKept t s (u.modTree t fun x => { x with freePool := pool }) := h.of_modTree _ fun _ => rfl

@[simp] theorem RingKept.joinCoolDown (j : Nat) (h : RingKept t s u) :
    RingKept t s (u.modTree t fun x => { x with coolDown := x.coolDown ++ [{ handle := j, released := x.n }] }) :=
  h.of_modTree _ fun _ => rfl

@[simp] theorem RingKept.endDeparture (j : Nat) (h : RingKept t s u) :
    RingKept t s (u.endDeparture t j) := by
  unfold State.endDeparture
  simp (maxDischargeDepth := 100) [h]

@[simp] theorem RingKept.owedSent (j : Nat) (h : RingKept t s u) :
    RingKept t s (u.owedSent t j) := by
  unfold State.owedSent
  try dsimp only
  repeat' split
  all_goals simp (maxDischargeDepth := 100) [h]

@[simp] theorem RingKept.trimSent (c : Cycle) (j : Nat) (amount : Int) (g : Nat) (h : RingKept t s u) :
    RingKept t s (u.trimSent t c j amount g) := by
  unfold State.trimSent
  simp (maxDischargeDepth := 100) [h]

@[simp] theorem RingKept.messageSent (c : Cycle) (m : QueuedMessage) (h : RingKept t s u) :
    RingKept t s (u.messageSent t c m) := by
  unfold State.messageSent
  split <;> simp (maxDischargeDepth := 100) [h]

@[simp] theorem RingKept.sendMessages (c : Cycle) (rs : List Reservation) (h : RingKept t s u) :
    RingKept t s (u.sendMessages t c rs) := by
  unfold State.sendMessages
  exact (RingKept.foldl _ (fun u m => (RingKept.refl t u).messageSent c m) _ (h.modControl _)).fillBacklog

/-! ## The passages of an entry -/

@[simp] theorem RingKept.rosterLeft (j : Nat) (h : RingKept t s u) :
    RingKept t s (u.rosterLeft t j) := by
  unfold State.rosterLeft
  simp (maxDischargeDepth := 100) [h]

@[simp] theorem RingKept.leftNotices (j : Nat) (left : EntryState) (h : RingKept t s u) :
    RingKept t s (u.leftNotices t j left) := by
  unfold State.leftNotices
  split <;> simp (maxDischargeDepth := 100) [h]

@[simp] theorem RingKept.dropTrimAfter (j : Nat) (left : EntryState) (h : RingKept t s u) :
    RingKept t s (u.dropTrimAfter t j left) := by
  unfold State.dropTrimAfter
  split <;> simp (maxDischargeDepth := 100) [h]

@[simp] theorem RingKept.hushEntry (j : Nat) (bySweep : Bool) (h : RingKept t s u) :
    RingKept t s (u.hushEntry t j bySweep) := by
  unfold State.hushEntry
  simp (maxDischargeDepth := 100) [h]

@[simp] theorem RingKept.departEntry (j : Nat) (r : DepartureReason) (sends : Nat) (h : RingKept t s u) :
    RingKept t s (u.departEntry t j r sends) := by
  unfold State.departEntry
  simp (maxDischargeDepth := 100) [h]

@[simp] theorem RingKept.unhushToRegistered (j : Nat) (h : RingKept t s u) :
    RingKept t s (u.unhushToRegistered t j) := by
  unfold State.unhushToRegistered
  simp (maxDischargeDepth := 100) [h]

@[simp] theorem RingKept.requestRanging (j : Nat) (h : RingKept t s u) :
    RingKept t s (u.requestRanging t j) := by
  unfold State.requestRanging
  try dsimp only
  repeat' split
  all_goals simp (maxDischargeDepth := 100) [h]

@[simp] theorem RingKept.unhushToReranging (j : Nat) (h : RingKept t s u) :
    RingKept t s (u.unhushToReranging t j) := by
  unfold State.unhushToReranging
  simp (maxDischargeDepth := 100) [h]

@[simp] theorem RingKept.rerange (j : Nat) (origin : RangingOrigin) (reason : Nat) (h : RingKept t s u) :
    RingKept t s (u.rerange t j origin reason) := by
  unfold State.rerange
  simp (maxDischargeDepth := 100) [h]

@[simp] theorem RingKept.makeTimedBar (j : Nat) (m : Mark) (h : RingKept t s u) :
    RingKept t s (u.makeTimedBar t j m) := by
  unfold State.makeTimedBar
  dsimp only
  repeat' split
  all_goals simp (maxDischargeDepth := 100) [h]

@[simp] theorem RingKept.failRanging (j cause : Nat) (h : RingKept t s u) :
    RingKept t s (u.failRanging t j cause) := by
  unfold State.failRanging
  try dsimp only
  repeat' split
  all_goals simp (maxDischargeDepth := 100) [h]

/-! ## Ranging -/

@[simp] theorem RingKept.judgeAttempts (j : Nat) (h : RingKept t s u) :
    RingKept t s (u.judgeAttempts t j) := by
  unfold State.judgeAttempts
  try dsimp only
  repeat' split
  all_goals simp (maxDischargeDepth := 100) [h]

@[simp] theorem RingKept.settle (j : Nat) (a b : Int) (h : RingKept t s u) :
    RingKept t s (u.settle t j a b) := by
  unfold State.settle
  simp (maxDischargeDepth := 100) [h]

@[simp] theorem RingKept.pairSample (j : Nat) (a : Int) (h : RingKept t s u) :
    RingKept t s (u.pairSample t j a) := by
  unfold State.pairSample
  try dsimp only
  repeat' split
  all_goals simp (maxDischargeDepth := 100) [h]

@[simp] theorem RingKept.measureResult (j : Nat) (c : Cycle) (p : Nat) (bursts : List Burst) (h : RingKept t s u) :
    RingKept t s (u.measureResult t j c p bursts) := by
  unfold State.measureResult
  try dsimp only
  repeat' split
  all_goals simp (maxDischargeDepth := 100) [h]

@[simp] theorem RingKept.registerEntry (j : Nat) (c : Cycle) (h : RingKept t s u) :
    RingKept t s (u.registerEntry t j c) := by
  unfold State.registerEntry
  simp (maxDischargeDepth := 100) [h]

@[simp] theorem RingKept.settleDeviated (j : Nat) (h : RingKept t s u) :
    RingKept t s (u.settleDeviated t j) := by
  unfold State.settleDeviated
  simp (maxDischargeDepth := 100) [h]

@[simp] theorem RingKept.settleFailed (j : Nat) (h : RingKept t s u) :
    RingKept t s (u.settleFailed t j) := by
  unfold State.settleFailed
  try dsimp only
  repeat' split
  all_goals simp (maxDischargeDepth := 100) [h]

@[simp] theorem RingKept.settleOutcome (j : Nat) (c : Cycle) (start : Nat) (b : Burst) (h : RingKept t s u) :
    RingKept t s (u.settleOutcome t j c start b) := by
  unfold State.settleOutcome
  try dsimp only
  repeat' split
  all_goals simp (maxDischargeDepth := 100) [h]

/-! ## Discovery -/

@[simp] theorem RingKept.tryCall (h : RingKept t s u) :
    RingKept t s (u.tryCall t) := by
  unfold State.tryCall
  try dsimp only
  repeat' split
  all_goals simp (maxDischargeDepth := 100) [h]

@[simp] theorem RingKept.pushBack (head : MarkHead) (h : RingKept t s u) :
    RingKept t s (u.pushBack t head) := by
  unfold State.pushBack
  simp (maxDischargeDepth := 100) [h]

@[simp] theorem RingKept.pauseCall (h : RingKept t s u) :
    RingKept t s (u.pauseCall t) := by
  unfold State.pauseCall
  try dsimp only
  repeat' split
  all_goals simp (maxDischargeDepth := 100) [h]

@[simp] theorem RingKept.callSent (c : Cycle) (h : RingKept t s u) :
    RingKept t s (u.callSent t c) := by
  unfold State.callSent
  simp (maxDischargeDepth := 100) [h]

@[simp] theorem RingKept.judgeExpiry (h : RingKept t s u) :
    RingKept t s (u.judgeExpiry t) := by
  unfold State.judgeExpiry
  try dsimp only
  repeat' split
  all_goals simp (maxDischargeDepth := 100) [h]

@[simp] theorem RingKept.splitHead (head : MarkHead) (c : Cycle) (h : RingKept t s u) :
    RingKept t s (u.splitHead t head c) := by
  unfold State.splitHead
  try dsimp only
  repeat' split
  all_goals simp (maxDischargeDepth := 100) [h]

@[simp] theorem RingKept.endCall (h : RingKept t s u) :
    RingKept t s (u.endCall t) := by
  unfold State.endCall
  simp (maxDischargeDepth := 100) [h]

@[simp] theorem RingKept.callResult (c : Cycle) (bursts : List Burst) (h : RingKept t s u) :
    RingKept t s (u.callResult t c bursts) := by
  unfold State.callResult
  try dsimp only
  repeat' split
  all_goals simp (maxDischargeDepth := 100) [h]

@[simp] theorem RingKept.discardHello (h : RingKept t s u) :
    RingKept t s (u.discardHello t) := by
  unfold State.discardHello
  simp (maxDischargeDepth := 100) [h]

@[simp] theorem RingKept.dropForSlots (h : RingKept t s u) :
    RingKept t s (u.dropForSlots t) := by
  unfold State.dropForSlots
  simp (maxDischargeDepth := 100) [h]

@[simp] theorem RingKept.rejoin (j : Nat) (hello : Hello) (h : RingKept t s u) :
    RingKept t s (u.rejoin t j hello) := by
  unfold State.rejoin
  try dsimp only
  repeat' split
  all_goals simp (maxDischargeDepth := 100) [h]

@[simp] theorem RingKept.refresh (j : Nat) (hello : Hello) (h : RingKept t s u) :
    RingKept t s (u.refresh t j hello) := by
  unfold State.refresh
  try dsimp only
  repeat' split
  all_goals simp (maxDischargeDepth := 100) [h]

@[simp] theorem RingKept.discovered (j : Nat) (hello : Hello) (h : RingKept t s u) :
    RingKept t s (u.discovered t j hello) := by
  unfold State.discovered
  simp (maxDischargeDepth := 100) [h]

@[simp] theorem RingKept.enrollReserved (j : Nat) (hello : Hello) (h : RingKept t s u) :
    RingKept t s (u.enrollReserved t j hello) := by
  unfold State.enrollReserved
  try dsimp only
  repeat' split
  all_goals simp (maxDischargeDepth := 100) [h]

@[simp] theorem RingKept.followEntry (j : Nat) (hello : Hello) (h : RingKept t s u) :
    RingKept t s (u.followEntry t j hello) := by
  unfold State.followEntry
  try dsimp only
  repeat' split
  all_goals simp (maxDischargeDepth := 100) [h]

@[simp] theorem RingKept.admitHello (hello : Hello) (h : RingKept t s u) :
    RingKept t s (u.admitHello t hello) := by
  unfold State.admitHello
  repeat' split
  · simp [h]
  · simp [h]
  · simp (maxDischargeDepth := 100) [h]
  · simp (maxDischargeDepth := 100) [h]

@[simp] theorem RingKept.judgeHello (hello : Hello) (h : RingKept t s u) :
    RingKept t s (u.judgeHello t hello) := by
  unfold State.judgeHello
  try dsimp only
  repeat' split
  all_goals simp (maxDischargeDepth := 100) [h]

@[simp] theorem RingKept.intake (head : MarkHead) (p : Nat) (b : Burst) (h : RingKept t s u) :
    RingKept t s (u.intake t head p b) := by
  unfold State.intake
  try dsimp only
  repeat' split
  all_goals simp (maxDischargeDepth := 100) [h]

/-! ## Upkeep -/

@[simp] theorem RingKept.hitPresence (j : Nat) (c : Cycle) (h : RingKept t s u) :
    RingKept t s (u.hitPresence t j c) := by
  unfold State.hitPresence
  try dsimp only
  repeat' split
  all_goals simp (maxDischargeDepth := 100) [h]

@[simp] theorem RingKept.missPresence (j : Nat) (h : RingKept t s u) :
    RingKept t s (u.missPresence t j) := by
  unfold State.missPresence
  try dsimp only
  repeat' split
  all_goals simp (maxDischargeDepth := 100) [h]

@[simp] theorem RingKept.formTrim (j : Nat) (p d : Int) (h : RingKept t s u) :
    RingKept t s (u.formTrim t j p d) := by
  unfold State.formTrim
  try dsimp only
  repeat' split
  all_goals simp (maxDischargeDepth := 100) [h]

@[simp] theorem RingKept.judgeDeviation (j : Nat) (d : Int) (h : RingKept t s u) :
    RingKept t s (u.judgeDeviation t j d) := by
  unfold State.judgeDeviation
  try dsimp only
  repeat' split
  all_goals simp (maxDischargeDepth := 100) [h]

@[simp] theorem RingKept.offerDeviation (o : Observation) (h : RingKept t s u) :
    RingKept t s (u.offerDeviation t o) := by
  unfold State.offerDeviation
  try dsimp only
  repeat' split
  all_goals simp (maxDischargeDepth := 100) [h]

@[simp] theorem RingKept.leave (j : Nat) (h : RingKept t s u) :
    RingKept t s (u.leave t j) := by
  unfold State.leave
  simp (maxDischargeDepth := 100) [h]

@[simp] theorem RingKept.judgeStatus (j : Nat) (status : Option EchoStatus) (h : RingKept t s u) :
    RingKept t s (u.judgeStatus t j status) := by
  unfold State.judgeStatus
  try dsimp only
  repeat' split
  all_goals simp (maxDischargeDepth := 100) [h]

@[simp] theorem RingKept.takeHit (o : Observation) (h : RingKept t s u) :
    RingKept t s (u.takeHit t o) := by
  unfold State.takeHit
  try dsimp only
  repeat' split
  all_goals simp (maxDischargeDepth := 100) [h]

@[simp] theorem RingKept.takeMiss (o : Observation) (h : RingKept t s u) :
    RingKept t s (u.takeMiss t o) := by
  unfold State.takeMiss
  simp (maxDischargeDepth := 100) [h]

@[simp] theorem RingKept.observe (o : Observation) (h : RingKept t s u) :
    RingKept t s (u.observe t o) := by
  unfold State.observe
  try dsimp only
  repeat' split
  all_goals simp (maxDischargeDepth := 100) [h]

@[simp] theorem RingKept.testProbe (j : Nat) (h : RingKept t s u) :
    RingKept t s (u.testProbe t j) := by
  unfold State.testProbe
  try dsimp only
  repeat' split
  all_goals simp (maxDischargeDepth := 100) [h]

@[simp] theorem RingKept.testProbes (h : RingKept t s u) : RingKept t s (u.testProbes t) := by
  unfold State.testProbes
  exact RingKept.foldl _ (fun u j => (RingKept.refl t u).testProbe j) _ h

@[simp] theorem RingKept.countGrace (h : RingKept t s u) : RingKept t s (u.countGrace t) := by
  unfold State.countGrace
  split
  · exact h
  · have fold := RingKept.foldl (fun s j => s.modEntry j Entry.countGrace)
      (fun u j => (RingKept.refl t u).modEntry j Entry.countGrace) (u.treeHandles t) h
    simp [fold]

@[simp] theorem RingKept.judgeGrace (order : Nat) (h : RingKept t s u) :
    RingKept t s (u.judgeGrace t order) := by
  unfold State.judgeGrace
  have fold := RingKept.foldl (fun s j => s.departEntry t j .grace 3) (fun u j => (RingKept.refl t u).departEntry j .grace 3)
    (arrange order (u.graceDue t)) h
  simp [fold]

@[simp] theorem RingKept.becomeDark (c : Cycle) (h : RingKept t s u) :
    RingKept t s (u.becomeDark t c) := by
  unfold State.becomeDark
  simp (maxDischargeDepth := 100) [h]

@[simp] theorem RingKept.clearDark (c : Cycle) (h : RingKept t s u) :
    RingKept t s (u.clearDark t c) := by
  unfold State.clearDark
  simp (maxDischargeDepth := 100) [h]

@[simp] theorem RingKept.closeWhileLit (c : Cycle) (j : CycleLight) (h : RingKept t s u) :
    RingKept t s (u.closeWhileLit t c j) := by
  unfold State.closeWhileLit
  try dsimp only
  repeat' split
  all_goals simp (maxDischargeDepth := 100) [h]

@[simp] theorem RingKept.closeWhileDark (c : Cycle) (j : CycleLight) (h : RingKept t s u) :
    RingKept t s (u.closeWhileDark t c j) := by
  unfold State.closeWhileDark
  try dsimp only
  repeat' split
  all_goals simp (maxDischargeDepth := 100) [h]

@[simp] theorem RingKept.upkeepClose (c : Cycle) (h : RingKept t s u) :
    RingKept t s (u.upkeepClose t c) := by
  unfold State.upkeepClose
  try dsimp only
  repeat' split
  all_goals simp (maxDischargeDepth := 100) [h]

/-! ## The Rogue Monitor -/

@[simp] theorem RingKept.sweepStep (cursor dwell tried : Nat) (h : RingKept t s u) :
    RingKept t s (u.sweepStep t cursor dwell tried) := by
  unfold State.sweepStep
  try dsimp only
  repeat' split
  all_goals simp (maxDischargeDepth := 100) [h]

@[simp] theorem RingKept.judgeDwell (h : RingKept t s u) :
    RingKept t s (u.judgeDwell t) := by
  unfold State.judgeDwell
  try dsimp only
  repeat' split
  all_goals simp (maxDischargeDepth := 100) [h]

@[simp] theorem RingKept.sweepOverride (j : Nat) (h : RingKept t s u) :
    RingKept t s (u.sweepOverride t j) := by
  unfold State.sweepOverride
  try dsimp only
  repeat' split
  all_goals simp (maxDischargeDepth := 100) [h]

@[simp] theorem RingKept.sweepFound (h : RingKept t s u) :
    RingKept t s (u.sweepFound t) := by
  unfold State.sweepFound
  try dsimp only
  repeat' split
  all_goals simp (maxDischargeDepth := 100) [h]

@[simp] theorem RingKept.sweepAbort (w : Sweep) (h : RingKept t s u) :
    RingKept t s (u.sweepAbort t w) := by
  unfold State.sweepAbort
  simp (maxDischargeDepth := 100) [h]

@[simp] theorem RingKept.becomeRogue (c : Cycle) (h : RingKept t s u) :
    RingKept t s (u.becomeRogue t c) := by
  unfold State.becomeRogue
  simp (maxDischargeDepth := 100) [h]

@[simp] theorem RingKept.clearRogue (c : Cycle) (h : RingKept t s u) :
    RingKept t s (u.clearRogue t c) := by
  unfold State.clearRogue
  simp (maxDischargeDepth := 100) [h]

@[simp] theorem RingKept.moveCleanRun (c : Cycle) (stray : Bool) (h : RingKept t s u) :
    RingKept t s (u.moveCleanRun t c stray) := by
  unfold State.moveCleanRun
  try dsimp only
  repeat' split
  all_goals simp (maxDischargeDepth := 100) [h]

@[simp] theorem RingKept.rogueClose (c : Cycle) (stray : Bool) (h : RingKept t s u) :
    RingKept t s (u.rogueClose t c stray) := by
  unfold State.rogueClose
  try dsimp only
  repeat' split
  all_goals simp (maxDischargeDepth := 100) [h]

/-! ## Slots, the boundary and reports -/

@[simp] theorem RingKept.markStray (c : Cycle) (h : RingKept t s u) : RingKept t s (u.markStray t c) :=
  h.modSlot c _ fun _ => rfl

@[simp] theorem RingKept.modReservation (c : Cycle) (i : Nat) (f : Reservation → Reservation) (h : RingKept t s u) :
    RingKept t s (u.modReservation t c i f) := by
  unfold State.modReservation
  simp (maxDischargeDepth := 100) [h]

@[simp] theorem RingKept.handOutcome (c : Cycle) (r : Reservation) (b : Burst) (h : RingKept t s u) :
    RingKept t s (u.handOutcome t c r b) := by
  unfold State.handOutcome
  try dsimp only
  repeat' split
  all_goals simp (maxDischargeDepth := 100) [h]

@[simp] theorem RingKept.takeOutcome (c : Cycle) (i : Nat) (r : Reservation) (b : Burst) (h : RingKept t s u) :
    RingKept t s (u.takeOutcome t c i r b) := by
  unfold State.takeOutcome
  try dsimp only
  repeat' split
  all_goals simp (maxDischargeDepth := 100) [h]

@[simp] theorem RingKept.takeBurst (c : Cycle) (i : Nat) (r : Reservation) (b : Burst) (h : RingKept t s u) :
    RingKept t s (u.takeBurst t c i r b) := by
  unfold State.takeBurst
  try dsimp only
  repeat' split
  all_goals simp (maxDischargeDepth := 100) [h]

@[simp] theorem RingKept.endWindow (c : Cycle) (i : Nat) (r : Reservation) (h : RingKept t s u) :
    RingKept t s (u.endWindow t c i r) := by
  unfold State.endWindow
  try dsimp only
  repeat' split
  all_goals simp (maxDischargeDepth := 100) [h]

@[simp] theorem RingKept.setHandover (bytes : List Byte) (h : RingKept t s u) :
    RingKept t s (u.modTree t fun x => { x with handover := bytes }) := h.of_modTree _ fun _ => rfl

@[simp] theorem RingKept.sendSlot (h : RingKept t s u) :
    RingKept t s (u.sendSlot t) := by
  unfold State.sendSlot
  try dsimp only
  repeat' split
  all_goals simp (maxDischargeDepth := 100) [h]

@[simp] theorem RingKept.passSlots (h : RingKept t s u) : RingKept t s (u.passSlots t) := by
  unfold State.passSlots
  exact RingKept.foldl _ (fun u x => (RingKept.refl t u).takeOutcome _ _ _ _) _ (by simp [h])

@[simp] theorem RingKept.closeNotices (c : Cycle) (stray : Bool) (order : Nat) (h : RingKept t s u) :
    RingKept t s (u.closeNotices t c stray order) := by
  unfold State.closeNotices
  try dsimp only
  repeat' split
  all_goals simp (maxDischargeDepth := 100) [h]

@[simp] theorem RingKept.takeTimerExpiry (h : RingKept t s u) :
    RingKept t s (u.takeTimerExpiry t) := by
  unfold State.takeTimerExpiry
  try dsimp only
  repeat' split
  all_goals simp (maxDischargeDepth := 100) [h]

@[simp] theorem RingKept.takeCooled (h : RingKept t s u) : RingKept t s (u.takeCooled t) :=
  h.of_modTree _ fun _ => rfl

@[simp] theorem RingKept.takeEndedBars (h : RingKept t s u) : RingKept t s (u.takeEndedBars t) := h

@[simp] theorem RingKept.countBars (h : RingKept t s u) : RingKept t s (u.countBars t) := h

@[simp] theorem RingKept.takeExpiry (order : Nat) (e : Expiry) (h : RingKept t s u) :
    RingKept t s (u.takeExpiry t order e) := by
  unfold State.takeExpiry
  split <;> simp [h]

@[simp] theorem RingKept.countFor (e : Expiry) (h : RingKept t s u) : RingKept t s (u.countFor t e) := by
  unfold State.countFor
  split <;> simp [h]

@[simp] theorem RingKept.takeReport (c : Cycle) (i : Nat) (r : Reservation) (b : Burst) (count : Nat) (h : RingKept t s u) :
    RingKept t s (u.takeReport t c i r b count) := by
  unfold State.takeReport
  try dsimp only
  repeat' split
  all_goals simp (maxDischargeDepth := 100) [h]

@[simp] theorem RingKept.reportOnSlot (c : Cycle) (record : ReportRecord) (h : RingKept t s u) :
    RingKept t s (u.reportOnSlot t c record) := by
  unfold State.reportOnSlot
  try dsimp only
  repeat' split
  all_goals simp (maxDischargeDepth := 100) [h]

/-! ## The boundary -/

/-- The arrangement a number picks holds the same items (log 4). -/
theorem arrangeFuel_perm {α : Type} (fuel c : Nat) (l : List α) : (arrangeFuel fuel c l).Perm l := by
  induction fuel generalizing c l with
  | zero => exact List.Perm.refl _
  | succ fuel ih =>
    unfold arrangeFuel
    split
    · rename_i a ha
      obtain ⟨hi, rfl⟩ := List.getElem?_eq_some_iff.1 ha
      exact ((ih _ _).cons _).trans (List.getElem_cons_eraseIdx_perm hi)
    · exact List.Perm.refl _

theorem arrange_perm {α : Type} (c : Nat) (l : List α) : (arrange c l).Perm l := arrangeFuel_perm _ _ _

/-- A boundary takes every reaction once (R59; log 5). -/
theorem BoundaryOrder.sequence_perm (o : BoundaryOrder) : o.sequence.Perm boundaryActs := by
  have perm := arrange_perm o.acts boundaryActs
  unfold BoundaryOrder.sequence sendAfterClose
  split
  · exact (perm.map _).trans (by decide)
  · exact perm

/-- The cycles of the ring of tree t. -/
def State.cycles (s : State) (t : TreeId) : List Cycle := (s.tree t).calendar.ring.map Slot.cycle

/-- The slot of cycle N − 2 leaves the ring, where there is one; the other cycles stay in order (R59). -/
theorem State.cycles_closeSlot (s : State) (t : TreeId) (order : Nat) :
    (s.closeSlot t order).cycles t = (s.cycles t).filter (· != (s.tree t).n - 2#16) := by
  have filt : ∀ ring : List Slot, (ring.filter fun k => k.cycle != (s.tree t).n - 2#16).map Slot.cycle
      = (ring.map Slot.cycle).filter (· != (s.tree t).n - 2#16) := fun ring => by
    rw [List.filter_map]; rfl
  unfold State.closeSlot
  dsimp only
  split
  · rename_i hnone
    unfold State.cycles
    refine (List.filter_eq_self.2 fun c hc => ?_).symm
    obtain ⟨k, hk, rfl⟩ := List.mem_map.1 hc
    have := List.find?_eq_none.1 hnone k hk
    simpa using this
  · rename_i k hk
    unfold State.cycles State.modCalendar
    rw [State.tree_modTree, if_pos rfl]
    dsimp only
    rw [filt]
    refine congrArg (List.filter _) (RingKept.closeNotices _ _ _ ?_)
    split <;> simp

/-- The slot of cycle N + 14 joins the end of the ring (R59). -/
theorem State.cycles_joinSlot (s : State) (t : TreeId) :
    (s.joinSlot t).cycles t = s.cycles t ++ [(s.tree t).n + 14#16] := by
  unfold State.joinSlot
  have kept := RingKept.arbitrate (RingKept.refl t (s.modCalendar t fun w =>
    { w with ring := w.ring ++ [Slot.fresh ((s.tree t).n + BitVec.ofNat 16 Config.horizonLast)] }))
  unfold State.cycles
  rw [kept]
  unfold State.modCalendar
  rw [State.tree_modTree, if_pos rfl]
  simp [Slot.fresh, Config.horizonLast]

/-- A reaction other than the close and the join keeps the cycles of the ring. -/
theorem RingKept.react (o : BoundaryOrder) (a : BoundaryAct) (hc : a ≠ .close) (hj : a ≠ .join) (h : RingKept t s u) :
    RingKept t s (u.react t o a) := by
  unfold State.react
  split
  · exact absurd rfl hc
  · simp [h]
  · simp [h]
  · exact absurd rfl hj
  · simp [h]
  · simp [h]
  · split <;> simp [h]

/-- What distinct reactions do to the ring, in any order: the close and the join commute (R59; log 5). -/
theorem State.cycles_reactions (t : TreeId) (o : BoundaryOrder) (acts : List BoundaryAct) (hn : acts.Nodup) (s : State) :
    (acts.foldl (fun s a => s.react t o a) s).cycles t
      = (if .close ∈ acts then (s.cycles t).filter (· != (s.tree t).n - 2#16) else s.cycles t)
        ++ (if .join ∈ acts then [(s.tree t).n + 14#16] else []) := by
  induction acts generalizing s with
  | nil => simp
  | cons a acts ih =>
    obtain ⟨ha, hn⟩ := List.nodup_cons.1 hn
    have hN : ((s.react t o a).tree t).n = (s.tree t).n := ((EngineFrame.refl t s).react o a).tree.n
    have apart : (s.tree t).n + 14#16 ≠ (s.tree t).n - 2#16 := by
      intro h
      have := congrArg (· - (s.tree t).n) h
      bv_omega
    rw [List.foldl_cons, ih hn, hN]
    by_cases hc : a = .close
    · subst hc
      have : (s.react t o .close).cycles t = _ := s.cycles_closeSlot t o.notices
      simp [this, ha]
    · by_cases hj : a = .join
      · subst hj
        have : (s.react t o .join).cycles t = _ := s.cycles_joinSlot t
        rw [this]
        by_cases hm : BoundaryAct.close ∈ acts <;> simp [hm, ha, List.filter_append, apart]
      · have : (s.react t o a).cycles t = s.cycles t := (RingKept.refl t s).react o a hc hj
        rw [this]
        simp [Ne.symm hc, Ne.symm hj]

/-- A ring on the cycles from N − 1 to N + 14 stands, after the boundary into N + 1, on those from N to N + 15 (R57, R59). -/
theorem ringCycles_advance (n : Cycle) :
    (ringCycles n).filter (· != n + 1 - 2#16) ++ [n + 1 + 14#16] = ringCycles (n + 1) := by
  have h0 : n + 1 - 2#16 = n - 1 := by bv_omega
  have hk : ∀ k : BitVec 16, (n - 1 + k != n - 1) = (k != 0) := fun k => by
    rw [Bool.eq_iff_iff, bne_iff_ne, bne_iff_ne, not_iff_not]
    constructor <;> intro h <;> bv_omega
  have hs : ∀ k : BitVec 16, n + 1 - 1 + k = n - 1 + (k + 1) := fun k => by bv_omega
  have he : n + 1 + 14#16 = n - 1 + 16#16 := by bv_omega
  unfold ringCycles Config.ringSlots
  rw [h0, List.filter_map]
  simp only [Function.comp_def, hk, he, hs]
  rw [show [n - 1 + 16#16] = [(16 : BitVec 16)].map (n - 1 + ·) from rfl]
  have l1 : (List.range 16).filter (fun k => BitVec.ofNat 16 k != 0) = [1, 2, 3, 4, 5, 6, 7, 8, 9, 10, 11, 12, 13, 14, 15] := by
    decide
  rw [l1]
  rfl

/-- A boundary of a tree whose ring stands on the cycles from N − 1 to N + 14 leaves it so, about the new N (R57, R59). -/
theorem State.cycles_boundaryUnder (s : State) (t : TreeId) (o : BoundaryOrder)
    (h : s.cycles t = ringCycles (s.tree t).n) :
    (s.boundaryUnder t o).cycles t = ringCycles ((s.boundaryUnder t o).tree t).n := by
  unfold State.boundaryUnder
  have k1 : ∀ l : List Expiry, RingKept t s (l.foldl (fun s e => s.takeExpiry t o.grace e) s) := fun l =>
    RingKept.foldl _ (fun u e => (RingKept.refl t u).takeExpiry _ e) _ (RingKept.refl t s)
  have e1 : ∀ l : List Expiry, EngineFrame t s (l.foldl (fun s e => s.takeExpiry t o.grace e) s) := fun l =>
    EngineFrame.foldl _ (fun u e => (EngineFrame.refl t u).takeExpiry _ e) _ (EngineFrame.refl t s)
  generalize hu : (arrange o.leftovers allExpiries).foldl (fun s e => s.takeExpiry t o.grace e) s = u
  have ku : u.cycles t = ringCycles (s.tree t).n := by rw [← hu]; exact Eq.trans (k1 _) h
  have nu : (u.tree t).n = (s.tree t).n := by rw [← hu]; exact (e1 _).tree.n
  have ha : ((u.advance t).countBars t).cycles t = ringCycles (s.tree t).n := by
    rw [← ku]
    show (u.advance t).cycles t = _
    unfold State.advance State.cycles
    rw [State.tree_modTree, if_pos rfl]
    rfl
  have na : (((u.advance t).countBars t).tree t).n = (s.tree t).n + 1 := by
    rw [← nu]
    show ((u.advance t).tree t).n = _
    unfold State.advance
    rw [State.tree_modTree, if_pos rfl]
    rfl
  have perm := o.sequence_perm
  have nodup : o.sequence.Nodup := perm.nodup_iff.2 (by decide)
  have hc : BoundaryAct.close ∈ o.sequence := perm.mem_iff.2 (by decide)
  have hj : BoundaryAct.join ∈ o.sequence := perm.mem_iff.2 (by decide)
  have nf : ((List.foldl (fun s a => s.react t o a) ((u.advance t).countBars t) o.sequence).tree t).n
      = (((u.advance t).countBars t).tree t).n :=
    (EngineFrame.foldl _ (fun u a => (EngineFrame.refl t u).react o a) _ (EngineFrame.refl t _)).tree.n
  rw [State.cycles_reactions t o _ nodup, nf, if_pos hc, if_pos hj, ha, na]
  exact ringCycles_advance _

end Sys2Proof.Machine
end

