-- ==== Sys2Proof/Laws/Trees.lean ====
section
/-! SUPPORT. What one command can do to one tree, said once: five ways, and a lemma for every command. -/

namespace Sys2Proof.Machine

/-- The cycles of a tree's ring. -/
def Tree.cycles (x : Tree) : List Cycle := x.calendar.ring.map Slot.cycle

/-- What one command can do to one tree. -/
inductive TreeStep : Tree → Tree → Prop where
  /-- A DISABLED tree stays so, and stays empty if it was. -/
  | off {x y : Tree} : x.state = .disabled → y.state = .disabled → (x.idle → y.idle) → TreeStep x y
  /-- A tree leaves service, or is reset (R46, R193). -/
  | down {x y : Tree} : y.state = .disabled → y.idle → y.config = x.config → TreeStep x y
  /-- A tree enters service (R44). -/
  | up {x : Tree} : x.state = .disabled → TreeStep x x.enable
  /-- A tree in service works within a cycle. -/
  | run {x y : Tree} : x.inService = true → y.inService = true → y.config = x.config → y.n = x.n →
      y.cycles = x.cycles → TreeStep x y
  /-- A tree in service takes a boundary (R3). -/
  | tick {x y : Tree} : x.inService = true → y.state = x.state → y.config = x.config → y.n = x.n + 1 →
      (x.cycles = ringCycles x.n → y.cycles = ringCycles y.n) → TreeStep x y

theorem Tree.inService_iff (x : Tree) : x.inService = true ↔ x.state ≠ .disabled := by simp [Tree.inService]

theorem TreeStep.refl (x : Tree) : TreeStep x x := by
  by_cases h : x.state = .disabled
  · exact .off h h id
  · exact .run ((Tree.inService_iff x).2 h) ((Tree.inService_iff x).2 h) rfl rfl rfl

theorem TreeStep.of_eq {x y : Tree} (h : y = x) : TreeStep x y := by rw [h]; exact TreeStep.refl x

/-- The step of every tree. -/
def TreesStep (s u : State) : Prop := ∀ k, TreeStep (s.tree k) (u.tree k)

theorem TreesStep.of_trees {s u : State} (h : u.trees = s.trees) : TreesStep s u :=
  fun k => TreeStep.of_eq (by unfold State.tree; rw [h])

/-- The engines of a tree in service act. -/
theorem TreesStep.of_engine {t : TreeId} {s u : State} (hs : (s.tree t).inService = true) (h : EngineFrame t s u)
    (hr : RingKept t s u) : TreesStep s u := by
  intro k
  by_cases hk : k = t
  · subst hk
    refine .run hs ?_ h.tree.config h.tree.n hr
    unfold Tree.inService at *
    rw [h.tree.state]
    exact hs
  · exact TreeStep.of_eq (h.others k hk)

/-- One tree alone is changed. -/
theorem TreesStep.of_modTree {s u : State} {t : TreeId} {x : Tree} (hu : ∀ k, u.tree k = if k = t then x else s.tree k)
    (h : TreeStep (s.tree t) x) : TreesStep s u := by
  intro k
  rw [hu k]
  by_cases hk : k = t
  · subst hk
    rw [if_pos rfl]
    exact h
  · rw [if_neg hk]
    exact TreeStep.refl _

/-! ## The judgements of the host commands -/

theorem forTree_trees {w : Word} {s : State} {judge : TreeId → Judged} (h : ∀ t, TreesStep s (judge t).state) :
    TreesStep s (forTree w s judge).state := forTree_state (TreesStep.of_trees rfl) h

theorem judgeTreeConfig_trees (a : Quad Word) (s : State) : TreesStep s (judgeTreeConfig a s).state := by
  unfold judgeTreeConfig
  split
  · rename_i t item _ _
    unfold judgeTreeItem
    dsimp only
    split
    · exact TreesStep.of_trees rfl
    · split
      · exact TreesStep.of_trees rfl
      · rename_i hs
        have hd : (s.tree t).state = .disabled := by simpa [Tree.inService] using hs
        split
        · exact TreesStep.of_trees rfl
        · exact TreesStep.of_modTree (t := t) (fun k => State.tree_modTree _ _ _ _) (.off hd hd id)
  · exact TreesStep.of_trees rfl

theorem judgeTreeTune_trees (a : Quad Word) (s : State) : TreesStep s (judgeTreeTune a s).state := by
  unfold judgeTreeTune
  split
  · rename_i t p _ _
    split
    · refine TreesStep.of_modTree (t := t) (fun k => State.tree_modTree _ _ _ _) ?_
      unfold Tree.tune
      split
      · rename_i hs
        exact .run hs hs rfl rfl rfl
      · rename_i hs
        have hd : (s.tree t).state = .disabled := by simpa [Tree.inService] using hs
        exact .off hd hd id
    · exact TreesStep.of_trees rfl
  · exact TreesStep.of_trees rfl

theorem judgeEnable_trees (a : Quad Word) (s : State) : TreesStep s (judgeEnable a s).state := by
  refine forTree_trees fun t => ?_
  split
  · exact TreesStep.of_trees rfl
  · rename_i hs
    have hd : (s.tree t).state = .disabled := by simpa [Tree.inService] using hs
    unfold judgeEnableOf
    dsimp only
    repeat' split
    all_goals first
      | exact TreesStep.of_trees rfl
      | exact TreesStep.of_modTree (t := t) (fun k => State.tree_modTree _ _ _ _) (.up hd)

/-- A change of a tree's state between ACTIVE and HELD, then an engine's act. -/
theorem TreesStep.of_turn {s u : State} {t : TreeId} {state : TreeState} (hs : (s.tree t).inService = true)
    (hd : state ≠ .disabled) (h : EngineFrame t (s.modTree t fun x => { x with state := state }) u)
    (hr : RingKept t (s.modTree t fun x => { x with state := state }) u) : TreesStep s u := by
  have ht : (s.modTree t fun x => { x with state := state }).tree t = { s.tree t with state := state } := by
    rw [State.tree_modTree, if_pos rfl]
  intro k
  by_cases hk : k = t
  · subst hk
    refine .run hs ?_ (by rw [h.tree.config, ht]) (by rw [h.tree.n, ht]) ?_
    · rw [Tree.inService_iff, h.tree.state, ht]
      exact hd
    · have : ((u.tree k).calendar.ring.map Slot.cycle) = _ := hr
      rw [ht] at this
      exact this
  · refine TreeStep.of_eq ?_
    rw [h.others k hk, State.tree_modTree, if_neg hk]

theorem judgeHold_trees (a : Quad Word) (s : State) : TreesStep s (judgeHold a s).state := by
  refine forTree_trees fun t => ?_
  split
  · rename_i hs
    exact TreesStep.of_turn (t := t) (state := .held) (by rw [Tree.inService_iff, hs]; decide) (by decide)
      (by simp [doneWith]) (by simp [doneWith])
  · exact TreesStep.of_trees rfl

theorem judgeResume_trees (a : Quad Word) (s : State) : TreesStep s (judgeResume a s).state := by
  refine forTree_trees fun t => ?_
  split
  · rename_i hs
    exact TreesStep.of_turn (t := t) (state := .active) (by rw [Tree.inService_iff, hs]; decide) (by decide)
      (by simp [doneWith]) (by simp [doneWith])
  · exact TreesStep.of_trees rfl

theorem State.trees_makeFrame (s : State) (f : LinkFrame) : (s.makeFrame f).trees = s.trees := by
  unfold State.makeFrame
  split <;> rfl

theorem State.trees_makeFrames {α : Type} (f : α → LinkFrame) (l : List α) (s : State) :
    (l.foldl (fun s c => s.makeFrame (f c)) s).trees = s.trees := by
  induction l generalizing s with
  | nil => rfl
  | cons a l ih => exact (ih _).trans (s.trees_makeFrame _)

theorem Tree.disable_idle (x : Tree) : x.disable.idle := ⟨rfl, rfl, rfl, rfl, rfl, rfl, rfl, rfl⟩

theorem judgeDisable_trees (a : Quad Word) (s : State) : TreesStep s (judgeDisable a s).state := by
  refine forTree_trees fun t => ?_
  split
  · refine TreesStep.of_modTree (t := t) (x := (s.tree t).disable) (fun k => ?_) (.down rfl (Tree.disable_idle _) rfl)
    show (s.disableTree t).tree k = _
    unfold State.disableTree State.tree
    dsimp only
    rw [State.trees_makeFrame, State.trees_makeFrames]
    exact State.tree_modTree s t k Tree.disable
  · exact TreesStep.of_trees rfl

theorem State.softReset_tree (s : State) (k : TreeId) : (s.softReset).tree k = (s.tree k).softReset := by
  match k with
  | 0 => rfl
  | 1 => rfl
  | 2 => rfl
  | 3 => rfl

theorem State.softReset_trees (s : State) : TreesStep s s.softReset := fun k => by
  rw [State.softReset_tree]
  exact .down rfl ⟨rfl, rfl, rfl, rfl, rfl, rfl, rfl, rfl⟩ rfl

theorem State.dropChoice_trees (s : State) : s.dropChoice.trees = s.trees := by
  unfold State.dropChoice
  split <;> rfl

theorem TreesStep.after_eq {s u w : State} (h : u.trees = s.trees) (k : TreesStep u w) : TreesStep s w := fun v => by
  have : u.tree v = s.tree v := by unfold State.tree; rw [h]
  rw [← this]
  exact k v

theorem judgeSoftReset_trees (a : Quad Word) (s : State) : TreesStep s (judgeSoftReset a s).state := by
  unfold judgeSoftReset
  split
  · exact TreesStep.after_eq s.dropChoice_trees (State.softReset_trees _)
  · exact TreesStep.of_trees s.dropChoice_trees

/-! ## The commands on handles and the sweep -/

@[simp] theorem RingKept.tellMonitor {t : TreeId} {s u : State} (j : Nat) (was : Entry) (h : RingKept t s u) :
    RingKept t s (u.tellMonitor t j was) := by
  unfold State.tellMonitor
  split <;> simp [h]

@[simp] theorem RingKept.unhushEntry {t : TreeId} {s u : State} (j : Nat) (h : RingKept t s u) :
    RingKept t s (u.unhushEntry t j) := by
  unfold State.unhushEntry
  split <;> simp [h]

theorem onEntry_trees {w : Word} {s : State} {takes : EntryState → Bool} {act : TreeId → Nat → State}
    (h : ∀ t j, EngineFrame t s (act t j)) (hr : ∀ t j, RingKept t s (act t j)) :
    TreesStep s (onEntry w s takes act).state := by
  refine forHandle_state (P := TreesStep s) (TreesStep.of_trees rfl) fun j => ?_
  split
  · rename_i ht
    exact TreesStep.of_engine (State.treeOf_some ht).1 (h _ _) (hr _ _)
  · exact TreesStep.of_trees rfl

theorem judgeRelease_trees (a : Quad Word) (s : State) : TreesStep s (judgeRelease a s).state :=
  onEntry_trees (fun t j => by simp) (fun t j => by simp)

theorem judgeHush_trees (a : Quad Word) (s : State) : TreesStep s (judgeHush a s).state :=
  onEntry_trees (fun t j => by simp) (fun t j => by simp)

theorem judgeForceRange_trees (a : Quad Word) (s : State) : TreesStep s (judgeForceRange a s).state :=
  onEntry_trees (fun t j => by simp) (fun t j => by simp)

theorem judgeUnhush_trees (a : Quad Word) (s : State) : TreesStep s (judgeUnhush a s).state := by
  refine forHandle_state (P := TreesStep s) (TreesStep.of_trees rfl) fun j => ?_
  split
  · rename_i ht
    exact TreesStep.of_engine (State.treeOf_some ht).1 (by simp [doneWith]) (by simp [doneWith])
  · exact TreesStep.of_trees rfl

theorem judgeReserve_trees (a : Quad Word) (s : State) : TreesStep s (judgeReserve a s).state := by
  unfold judgeReserve
  dsimp only
  split
  · exact TreesStep.of_trees rfl
  · split
    · exact TreesStep.of_trees rfl
    · rename_i t ht
      have hs := (State.treeOf_some ht).1
      repeat' split
      all_goals first
        | exact TreesStep.of_trees rfl
        | exact TreesStep.of_modTree (t := t) (fun k => State.tree_modTree s t k fun x =>
            { x with freePool := x.freePool.erase a.q3.toNat }) (.run hs hs rfl rfl rfl)

theorem judgeUnreserve_trees (a : Quad Word) (s : State) : TreesStep s (judgeUnreserve a s).state := by
  refine forHandle_state (P := TreesStep s) (TreesStep.of_trees rfl) fun j => ?_
  split
  · rename_i t _ ht
    have hs := (State.treeOf_some ht).1
    exact TreesStep.of_modTree (t := t) (fun k => State.tree_modTree _ _ _ _) (.run hs hs rfl rfl rfl)
  · exact TreesStep.of_trees rfl

theorem judgeBar_trees (a : Quad Word) (s : State) : TreesStep s (judgeBar a s).state := by
  obtain ⟨bars, h, -⟩ := judgeBar_frame a s
  exact TreesStep.of_trees (by rw [h])

theorem judgeUnbar_trees (a : Quad Word) (s : State) : TreesStep s (judgeUnbar a s).state := by
  obtain ⟨bars, h, -⟩ := judgeUnbar_frame a s
  exact TreesStep.of_trees (by rw [h])

theorem judgeReadCounters_trees (a : Quad Word) (s : State) : TreesStep s (judgeReadCounters a s).state := by
  rcases judgeReadCounters_state a s with ⟨t, f, h⟩ | ⟨a', b, c, h⟩
  · rw [h]
    refine TreesStep.of_modTree (t := t) (fun k => State.tree_modTree _ _ _ _) ?_
    by_cases hd : (s.tree t).state = .disabled
    · exact .off hd hd id
    · exact .run ((Tree.inService_iff _).2 hd) ((Tree.inService_iff _).2 hd) rfl rfl rfl
  · exact TreesStep.of_trees (by rw [h])

theorem judgeSweepStart_trees (a : Quad Word) (s : State) : TreesStep s (judgeSweepStart a s).state := by
  unfold judgeSweepStart
  dsimp only
  split
  · exact TreesStep.of_trees rfl
  · refine forTree_trees fun t => ?_
    by_cases hs : (s.tree t).inService = true
    · repeat' split
      all_goals first
        | exact TreesStep.of_trees rfl
        | exact TreesStep.of_engine (t := t) hs (by simp [doneWith]) (by simp [doneWith])
    · simp only [hs, Bool.not_false, if_true]
      exact TreesStep.of_trees rfl

/-- The engines act on a tree that they leave alone when it is empty. -/
theorem TreesStep.of_busy {t : TreeId} {s u : State} (h : EngineFrame t s u) (hr : RingKept t s u)
    (hi : (s.tree t).idle → u.tree t = s.tree t) : TreesStep s u := by
  by_cases hs : (s.tree t).state = .disabled
  · refine TreesStep.of_modTree (t := t) (x := u.tree t) (fun k => ?_)
      (.off hs (by rw [h.tree.state]; exact hs) fun i => by rw [hi i]; exact i)
    by_cases hk : k = t
    · rw [if_pos hk, hk]
    · rw [if_neg hk, h.others k hk]
  · exact TreesStep.of_engine ((Tree.inService_iff _).2 hs) h hr

theorem judgeSweepAbort_trees (a : Quad Word) (s : State) : TreesStep s (judgeSweepAbort a s).state := by
  refine forTree_trees fun t => ?_
  split
  · rename_i w hw
    refine TreesStep.of_busy (t := t) (by simp [doneWith]) (by simp [doneWith]) fun hi => ?_
    have : (s.tree t).rogue = RogueMonitor.clear := hi.2.2.2.2.2.2.2
    rw [this] at hw
    exact absurd hw (by simp [RogueMonitor.clear])
  · exact TreesStep.of_trees rfl

/-- Every judgement a code names steps every tree. -/
theorem judgeOf_trees (code : Word) (a : Quad Word) (s : State) : TreesStep s (judgeOf code a s).state := by
  have all : ∀ judge, judge = judgeOf code → TreesStep s (judge a s).state := by
    intro judge hj
    unfold judgeOf at hj
    split at hj <;> subst hj
    · exact judgeTreeConfig_trees a s
    · exact judgeTreeTune_trees a s
    · exact judgeEnable_trees a s
    · exact judgeHold_trees a s
    · exact judgeResume_trees a s
    · exact judgeDisable_trees a s
    · exact judgeReserve_trees a s
    · exact judgeUnreserve_trees a s
    · exact judgeBar_trees a s
    · exact judgeUnbar_trees a s
    · exact judgeRelease_trees a s
    · exact judgeHush_trees a s
    · exact judgeUnhush_trees a s
    · exact judgeForceRange_trees a s
    · exact TreesStep.of_trees (by rw [judgeReadEntry_state])
    · exact TreesStep.of_trees (by rw [judgeFindMark_state])
    · exact TreesStep.of_trees (by rw [judgeReadSlot_state])
    · exact judgeReadCounters_trees a s
    · exact judgeSweepStart_trees a s
    · exact judgeSweepAbort_trees a s
    · exact TreesStep.of_trees rfl
    · exact judgeSoftReset_trees a s
    · exact TreesStep.of_trees rfl
  exact all _ rfl

theorem State.goWith_trees {s u : State} {judge : Quad Word → State → Judged} (hu : u.trees = s.trees)
    (h : ∀ a w, TreesStep w (judge a w).state) : TreesStep s (u.goWith judge) := by
  refine TreesStep.after_eq hu ?_
  unfold State.goWith
  split
  · exact TreesStep.of_trees rfl
  · exact fun k => h u.args u k

theorem State.busWrite_trees (s : State) (address : Byte) (v : Word) : TreesStep s (s.busWrite address v) := by
  have flags : ∀ (t : TreeId) (f : TreeFlags → TreeFlags) (g : TreeFlags → TreeFlags),
      TreesStep s (s.modTree t fun x => { x with indications := f x.indications, enables := g x.enables }) := by
    intro t f g
    refine TreesStep.of_modTree (t := t) (fun k => State.tree_modTree _ _ _ _) ?_
    by_cases hd : (s.tree t).state = .disabled
    · exact .off hd hd id
    · exact .run ((Tree.inService_iff _).2 hd) ((Tree.inService_iff _).2 hd) rfl rfl rfl
  unfold State.busWrite
  split
  all_goals first
    | exact TreesStep.of_trees rfl
    | exact flags _ (fun i => i.clearedBy v) id
    | exact flags _ id (fun _ => TreeFlags.ofWord v)
    | skip
  split
  · exact State.goWith_trees rfl (judgeOf_trees _)
  · exact TreesStep.of_trees rfl

/-! ## The link -/

theorem State.trees_writeEvent (s : State) (kind : EventKind) (v : TreeId) (j : Nat) (extra : List EventWord) :
    (s.writeEvent kind v j extra).trees = s.trees := by
  unfold State.writeEvent
  split <;> rfl

theorem State.trees_linkTraffic (s : State) : s.linkTraffic.trees = s.trees := by
  unfold State.linkTraffic
  dsimp only
  split
  · rfl
  · exact State.trees_writeEvent _ _ _ _ _

theorem State.judgePlan_tree {s : State} {tree : Byte} {cycle : Word} {count : Nat} {t : TreeId}
    (h : s.judgePlan tree cycle count = .inl t) : (s.tree t).inService = true := by
  unfold State.judgePlan at h
  split at h
  · simp at h
  · rename_i v _
    dsimp only at h
    split at h
    · simp at h
    · rename_i hs
      split at h
      · simp at h
      · split at h
        · simp at h
        · simp only [Sum.inl.injEq] at h
          subst h
          simpa using hs

theorem Slot.takePlan_cycle (k : Slot) (grants : List Reservation) : (k.takePlan grants).cycle = k.cycle := rfl

theorem State.takePlan_trees (s : State) (tree : Byte) (cycle : Word) (grants : List PlanGrant) :
    TreesStep s (s.takePlan tree cycle grants) := by
  unfold State.takePlan
  split
  · refine fun k => ?_
    have : ∀ r, TreesStep s (s.notePlanLate tree cycle r) := by
      intro r
      unfold State.notePlanLate
      split
      · rename_i t _
        split
        · refine TreesStep.of_modTree (t := t) (x := ((s.count t .plansLate).tree t)) (fun k => ?_) ?_
          · rw [show ((s.count t .plansLate).writeEvent .planLate t 0 [oneField cycle.toNat]).tree k
                = (s.count t .plansLate).tree k from by unfold State.tree; rw [State.trees_writeEvent]]
            unfold State.count State.countBy
            rw [State.tree_modTree, State.tree_modTree]
            split
            · rename_i hk
              rw [if_pos rfl]
            · rfl
          · unfold State.count State.countBy
            rw [State.tree_modTree, if_pos rfl]
            by_cases hd : (s.tree t).state = .disabled
            · exact .off hd hd id
            · exact .run ((Tree.inService_iff _).2 hd) ((Tree.inService_iff _).2 hd) rfl rfl rfl
        · exact TreesStep.of_trees rfl
      · exact TreesStep.of_trees rfl
    unfold State.tree at *
    rw [State.trees_makeFrame]
    exact this _ k
  · rename_i t ht
    have hs := State.judgePlan_tree ht
    split
    · rename_i slot _
      unfold State.acceptPlan
      dsimp only
      refine TreesStep.of_engine (t := t) hs ?_ ?_
      · split <;> simp (maxDischargeDepth := 100)
      · split <;> simp (maxDischargeDepth := 100) [Slot.takePlan]
    · exact TreesStep.of_trees rfl

/-! ## Boundaries, reports and expiries -/

theorem State.boundary_trees (s : State) (t : TreeId) (hs : (s.tree t).inService = true) :
    TreesStep s (s.boundary t) := by
  obtain ⟨c, k, hck⟩ := s.boundaryOrder_frame
  unfold State.boundary
  generalize s.boundaryOrder.1 = o
  refine TreesStep.after_eq (u := s.boundaryOrder.2) (by rw [hck]) ?_
  generalize hv : s.boundaryOrder.2 = v
  have hvt : v.tree t = s.tree t := by rw [← hv, hck]; rfl
  obtain ⟨u, h1, h2⟩ := v.boundaryUnder_frame t o
  have ha : ((u.advance t).countBars t).tree t = { u.tree t with n := (u.tree t).n + 1 }.settleTuning := by
    show (u.advance t).tree t = _
    unfold State.advance
    rw [State.tree_modTree, if_pos rfl]
  have hn : ((v.boundaryUnder t o).tree t).n = (v.tree t).n + 1 := by
    rw [h2.tree.n, ha, ← h1.tree.n]
    rfl
  intro j
  by_cases hj : j = t
  · subst hj
    refine .tick (by rw [hvt]; exact hs) ?_ ?_ hn fun hc => State.cycles_boundaryUnder v j o hc
    · rw [h2.tree.state, ha, ← h1.tree.state]
      rfl
    · rw [h2.tree.config, ha, ← h1.tree.config]
      rfl
  · refine TreeStep.of_eq ?_
    rw [h2.others j hj]
    show (u.advance t).tree j = _
    unfold State.advance
    rw [State.tree_modTree, if_neg hj, h1.others j hj]

theorem execBurstReport_trees (port : TreeId) (record : ReportRecord) (s t : State)
    (h : execBurstReport port record s = .next t) : TreesStep s t := by
  unfold execBurstReport at h
  simp only [Host.Outcome.next.injEq] at h
  subst h
  split
  · exact TreesStep.of_trees rfl
  · rename_i hs
    have hs : (s.tree port).inService = true := by simpa using hs
    split
    · exact TreesStep.of_trees rfl
    · split
      · exact TreesStep.of_trees rfl
      · exact TreesStep.of_engine hs (by simp) (by simp)

theorem State.takeTimerExpiry_trees (s : State) (t : TreeId) : TreesStep s (s.takeTimerExpiry t) := by
  refine TreesStep.of_busy (t := t) (by simp) (by simp) fun hi => ?_
  have : (s.tree t).discovery = Discovery.clear := hi.2.2.2.2.1
  unfold State.takeTimerExpiry
  rw [this]
  rfl

theorem State.takeCooled_trees (s : State) (t : TreeId) : TreesStep s (s.takeCooled t) := by
  refine TreesStep.of_busy (t := t) (by simp) (by simp) fun hi => ?_
  have h1 : (s.tree t).coolDown = [] := hi.2.1
  unfold State.takeCooled
  rw [State.tree_modTree, if_pos rfl]
  unfold Tree.cooled
  generalize s.tree t = x at h1
  cases x
  simp_all

theorem State.judgeDwell_trees (s : State) (t : TreeId) : TreesStep s (s.judgeDwell t) := by
  refine TreesStep.of_busy (t := t) (by simp) (by simp) fun hi => ?_
  have h1 : (s.tree t).rogue = RogueMonitor.clear := hi.2.2.2.2.2.2.2
  unfold State.judgeDwell
  rw [h1]
  rfl

theorem State.judgeGrace_trees (s : State) (t : TreeId) (order : Nat) : TreesStep s (s.judgeGrace t order) := by
  refine TreesStep.of_busy (t := t) (by simp) (by simp) fun hi => ?_
  have h1 : (s.tree t).upkeep = Upkeep.clear := hi.2.2.2.2.2.1
  have h2 : s.graceDue t = [] := by
    unfold State.graceDue
    rw [h1]
    rfl
  have h3 : arrange order (s.graceDue t) = [] := by
    rw [h2]
    rfl
  unfold State.judgeGrace
  rw [h3]
  show ((s.modUpkeep t _).tree t) = _
  unfold State.modUpkeep
  rw [State.tree_modTree, if_pos rfl, h1]
  generalize s.tree t = x at h1
  cases x
  simp_all [Upkeep.clear]

/-- What one command can do to the trees, but for a hardware reset. -/
theorem exec_trees (c : Instr) (s t : State) (hc : c ≠ .hardwareReset) (h : exec c s = .next t) : TreesStep s t := by
  cases c <;> simp only [exec, Host.Outcome.next.injEq, execTreeConfig, execTreeTune, execEnable, execHold, execResume,
    execDisable, execReserve, execUnreserve, execBar, execUnbar, execRelease, execHush, execUnhush, execForceRange,
    execReadEntry, execFindMark, execReadSlot, execReadCounters, execSweepStart, execSweepAbort, execLock, execSoftReset,
    execBadCode, execGoWhileBusy, execIndicationClearWrite, execEnableRegisterWrite, execEventQueueRead,
    execLostRecordCountRead, execRegisterWrite, execBoundary, execPlan, execSync, execIdle,
    execSilenceTimerExpiry, execTransmitterHoldEnd, execFrameTransmit, execRosterDumpStep, execDiscoveryTimerExpiry,
    execCoolingExpiry, execTimedBarExpiry, execGraceExpiry, execDwellExpiry, execBundleByteTaken] at h
  case hardwareReset => exact absurd rfl hc
  case treeConfig => subst h; exact State.goWith_trees rfl judgeTreeConfig_trees
  case treeTune => subst h; exact State.goWith_trees rfl judgeTreeTune_trees
  case enable => subst h; exact State.goWith_trees rfl judgeEnable_trees
  case hold => subst h; exact State.goWith_trees rfl judgeHold_trees
  case resume => subst h; exact State.goWith_trees rfl judgeResume_trees
  case disable => subst h; exact State.goWith_trees rfl judgeDisable_trees
  case reserve => subst h; exact State.goWith_trees rfl judgeReserve_trees
  case unreserve => subst h; exact State.goWith_trees rfl judgeUnreserve_trees
  case bar => subst h; exact State.goWith_trees rfl judgeBar_trees
  case unbar => subst h; exact State.goWith_trees rfl judgeUnbar_trees
  case release => subst h; exact State.goWith_trees rfl judgeRelease_trees
  case hush => subst h; exact State.goWith_trees rfl judgeHush_trees
  case unhush => subst h; exact State.goWith_trees rfl judgeUnhush_trees
  case forceRange => subst h; exact State.goWith_trees rfl judgeForceRange_trees
  case readEntry =>
    subst h; exact State.goWith_trees rfl fun a w => TreesStep.of_trees (by rw [judgeReadEntry_state])
  case findMark => subst h; exact State.goWith_trees rfl fun a w => TreesStep.of_trees (by rw [judgeFindMark_state])
  case readSlot => subst h; exact State.goWith_trees rfl fun a w => TreesStep.of_trees (by rw [judgeReadSlot_state])
  case readCounters => subst h; exact State.goWith_trees rfl judgeReadCounters_trees
  case sweepStart => subst h; exact State.goWith_trees rfl judgeSweepStart_trees
  case sweepAbort => subst h; exact State.goWith_trees rfl judgeSweepAbort_trees
  case lock => subst h; exact State.goWith_trees rfl fun a w => TreesStep.of_trees rfl
  case softReset => subst h; exact State.goWith_trees rfl judgeSoftReset_trees
  case badCode => subst h; exact State.goWith_trees rfl (judgeOf_trees _)
  case goWhileBusy => subst h; exact State.goWith_trees rfl (judgeOf_trees _)
  case indicationClearWrite => subst h; exact s.busWrite_trees _ _
  case enableRegisterWrite => subst h; exact s.busWrite_trees _ _
  case registerWrite => subst h; exact s.busWrite_trees _ _
  case eventQueueRead =>
    subst h
    refine TreesStep.of_trees ?_
    show (State.afterPortRead s).trees = _
    unfold State.afterPortRead
    split <;> rfl
  case lostRecordCountRead => subst h; exact TreesStep.of_trees rfl
  case boundary =>
    subst h
    split
    · rename_i hs
      exact s.boundary_trees _ hs
    · exact TreesStep.of_trees rfl
  case burstReport => exact execBurstReport_trees _ _ _ _ h
  case plan => subst h; exact TreesStep.after_eq s.trees_linkTraffic (State.takePlan_trees _ _ _ _)
  case sync => subst h; exact TreesStep.of_trees s.trees_linkTraffic
  case idle => subst h; exact TreesStep.of_trees s.trees_linkTraffic
  case invalidFrame =>
    unfold execInvalidFrame at h
    split at h <;> simp only [Host.Outcome.next.injEq] at h <;> subst h
    · exact TreesStep.of_trees rfl
    · exact TreesStep.after_eq s.trees_linkTraffic (State.takePlan_trees _ _ _ _)
    · exact TreesStep.of_trees s.trees_linkTraffic
    · exact TreesStep.of_trees s.trees_linkTraffic
  case silenceTimerExpiry =>
    subst h
    split
    · exact TreesStep.of_trees (State.trees_writeEvent _ _ _ _ _)
    · exact TreesStep.of_trees rfl
  case transmitterHoldEnd => subst h; exact TreesStep.of_trees rfl
  case frameTransmit =>
    subst h
    split <;> exact TreesStep.of_trees rfl
  case rosterDumpStep =>
    subst h
    split
    · refine TreesStep.of_trees ?_
      unfold State.dumpStep
      split <;> rfl
    · exact TreesStep.of_trees rfl
  case discoveryTimerExpiry => subst h; exact s.takeTimerExpiry_trees _
  case coolingExpiry => subst h; exact s.takeCooled_trees _
  case timedBarExpiry => subst h; exact TreesStep.of_trees rfl
  case graceExpiry => subst h; exact TreesStep.after_eq s.dropChoice_trees (State.judgeGrace_trees _ _ _)
  case dwellExpiry => subst h; exact s.judgeDwell_trees _
  case busyClears =>
    unfold execBusyClears at h
    split at h <;> simp only [Host.Outcome.next.injEq] at h <;> subst h
    · exact TreesStep.of_trees rfl
    · refine fun k => ?_
      show TreeStep (s.tree k) ((ite _ s.softReset s).tree k)
      split
      · exact s.softReset_trees k
      · exact TreeStep.refl _
  case bundleByteTaken k =>
    subst h
    refine TreesStep.of_modTree (t := k) (fun j => State.tree_modTree _ _ _ _) ?_
    by_cases hd : (s.tree k).state = .disabled
    · refine .off hd hd fun i => ⟨i.1, i.2.1, ?_, i.2.2.2⟩
      show (s.tree k).handover.drop 1 = []
      rw [i.2.2.1]
      rfl
    · exact .run ((Tree.inService_iff _).2 hd) ((Tree.inService_iff _).2 hd) rfl rfl rfl

end Sys2Proof.Machine
end

