-- ==== Sys2Proof/Tests/Slice0.lean ====
section
/-! SUPPORT. The model's own tests: the ill-formed terms, the check code of the manual's layout, single steps on small states,
and for every statement with hypotheses a state and operands that meet them. -/

open Sys2Proof Sys2Proof.Machine

namespace Sys2Proof.Tests

/-! ## States to test on -/

/-- Segment 0 PART, segment 1 SHARED, the others SCHED; Teq 400, round trips from 100 to 300, B 0, window 0 to 15. -/
def testConfig : TreeConfig :=
  { windowBase := 0, windowLength := 16, segmentMap := 0x5555555E, teq := 400, minRtt := 100, maxRtt := 300,
    backoff := .b0, prescaler := .by1, interval := 2 }

/-- Tree 0 configured and DISABLED. -/
def configured : State := State.reset.setTree 0 { Tree.reset 0 with config := testConfig }

/-- Tree 0 in service at N = 0, every free order the listed one. -/
def served : State :=
  { configured.setTree 0 (configured.tree 0).enable with
    linkUp := true, silenceTimer := some 2048, choices := List.replicate 12 0 }

/-- A mark. -/
def mark : Mark := 0x0000AB000001

/-- A REGISTERED entry. -/
def registered : Entry :=
  { Entry.free with
    state := .registered, mark := some mark, termClass := some 1, reservedByHost := some false, delay := some 150,
    generation := some 0, missCount := some 0, lastObserved := some 0, trim := some .none,
    probeInFlight := some false, leavingSeen := some false }

/-- Tree 0 in service with an entry at handle 3. -/
def withEntry (e : Entry) : State := served.enterEntry 3 mark e

/-- The state with one reservation in the ARRIVING slot. -/
def withReservation (s : State) (r : Reservation) : State := s.modSlot 0 0 fun k => { k with reservations := [r] }

/-- A record for cycle 0 on tree 0. -/
def record (flags index result : Byte) (arrival header : Word) (payload : List Byte) : ReportRecord :=
  { tree := 0, flags := flags, index := index, result := result, arrival := arrival, header := header, burstCount := 0,
    payloadLength := BitVec.ofNat 8 payload.length, payload := payload }

/-- A grant of handle 3 in a SCHED segment. -/
def grant : Reservation := Reservation.grantFor 3 3000 64

/-- What an outcome leaves, read off a next state. -/
def after {α : Type} (o : Host.Outcome State Fault Refusal) (f : State → α) : Option α :=
  match o with
  | .next t => some (f t)
  | .fault _ => none
  | .refused _ => none

/-- The tree ROGUE, without a sweep. -/
def rogue (s : State) : State := s.modRogue 0 fun r => { r with rogue := true }

/-- A running sweep on handle 3, OBSERVING since cycle 65,500. -/
def sweep : Sweep :=
  { stage := .observing, cursor := 3, dwell := 24, current := 3, hushCycle := some 65500, tried := 1 }

/-- A bar list of 32 records, the first TIMED with hold-off 5, the rest PERMANENT. -/
def fullBars : List BarRecord :=
  { mark := 1, kind := .timed 0 5 0 } :: (List.range 31).map fun k => { mark := BitVec.ofNat 48 (k + 2), kind := .permanent }

/-! ## Well-formedness refuses -/

theorem test_badCode_of_a_command : (Instr.badCode 3 0 0 0 0).wellFormed = false := by decide
theorem test_indication_elsewhere : (Instr.indicationClearWrite 9 1).wellFormed = false := by decide
theorem test_enable_elsewhere : (Instr.enableRegisterWrite 8 1).wellFormed = false := by decide
theorem test_registerWrite_of_indications : (Instr.registerWrite 10 1).wellFormed = false := by decide
theorem test_registerWrite_of_enables : (Instr.registerWrite 14 1).wellFormed = false := by decide
theorem test_registerWrite_of_go : (Instr.registerWrite 37 1).wellFormed = false := by decide
theorem test_report_of_other_length :
    (Instr.burstReport 0 { record 0x40 0 0 0 0 [1, 2] with payloadLength := 3 }).wellFormed = false := by decide
theorem test_report_too_long :
    (Instr.burstReport 0 (record 0x40 0 0 0 0 (List.replicate 11 0))).wellFormed = false := by decide
theorem test_plan_too_long :
    (Instr.plan 0 7 (List.replicate 256 { handle := 1, start := 0, length := 32 })).wellFormed = false := by
  simp only [Instr.wellFormed, List.length_replicate]
  decide
set_option maxRecDepth 20000 in
theorem test_invalidFrame_of_idle : (Instr.invalidFrame ReceivedFrame.idle.bytes).wellFormed = false := by decide
set_option maxRecDepth 20000 in
theorem test_wellFormed_commands :
    (Instr.badCode 7 0 0 0 0).wellFormed = true ∧ (Instr.registerWrite 32 3).wellFormed = true
      ∧ (Instr.invalidFrame [1, 2, 3]).wellFormed = true
      ∧ (Instr.burstReport 0 (record 0x30 0 0 3001 3 [])).wellFormed = true := by decide

/-! ## Layouts -/

set_option maxRecDepth 20000 in
/-- The check value of the polynomial of R17, started at all ones: the digits 1 to 9 give 29B1H. -/
theorem test_checkCode :
    checkCode [0x31, 0x32, 0x33, 0x34, 0x35, 0x36, 0x37, 0x38, 0x39] = 0x29B1 := by decide
theorem test_table_spells_no_word : decodeTableWord 16 3 = none := by decide
set_option maxRecDepth 20000 in
theorem test_idle_frame : decodeFrame ReceivedFrame.idle.bytes = some .idle := by decide
set_option maxRecDepth 20000 in
theorem test_plan_frame :
    decodeFrame (ReceivedFrame.plan 0 7 [{ handle := 3, start := 3000, length := 64 }]).bytes
      = some (.plan 0 7 [{ handle := 3, start := 3000, length := 64 }]) := by decide
theorem test_event_header : eventHeader .lost 2 5 [0] = 0x04600005 := by decide
theorem test_hush_message_begins : (DownMessage.hush 3).bytes.take 3 = [0x07, 0x00, 0x03] := by decide

/-! ## Single steps -/

theorem test_enable :
    after (exec (.enable 0) configured) (fun t => ((t.tree 0).state, (t.tree 0).freePool.length,
      (t.tree 0).calendar.quietPosition, t.running.map fun r => r.completion.status))
      = some (.active, 15, some 0, some .done) := by decide
theorem test_enable_without_configuration :
    after (exec (.enable 0) State.reset) (fun t => t.running.map fun r => (r.completion.status, r.completion.results.q0))
      = some (some (.config, 1)) := by decide
theorem test_reserve_takes_the_handle :
    after (exec (.reserve mark 3) served) (fun t => ((t.entry 3).state, t.findMark mark, (t.tree 0).freePool.contains 3))
      = some (.reserved, some 3, false) := by decide
theorem test_base_handle_is_not_reserved :
    after (exec (.reserve mark 0) served) (fun t => t.running.map fun r => r.completion.status)
      = some (some .notInWindow) := by decide
theorem test_hush_queues_one_copy :
    after (exec (.hush 3) (withEntry registered)) (fun t => ((t.entry 3).state, (t.tree 0).control.queue, t.outQueue))
      = some (.hushed, [.hush 3], [.roster 0 3 .removed 1]) := by decide
theorem test_boundary_sends_the_slot :
    after (exec (.boundary 0) served) (fun t => ((t.tree 0).n, (t.tree 0).calendar.ring.length,
      ((t.tree 0).calendar.slot? 7).map Slot.state, (t.tree 0).counters.plansMissing, t.outQueue))
      = some (1, 16, some .sent, 1, [.cycle 0 1]) := by decide
theorem test_grant_hit :
    after (exec (.burstReport 0 (record 0x30 0 0 3001 3 [])) (withReservation (withEntry registered) grant))
      (fun t => t.entry 3) = some registered := by decide
theorem test_grant_beyond_the_hard_limit_reranges :
    after (exec (.burstReport 0 (record 0x30 0 0 3100 3 [])) (withReservation (withEntry registered) grant))
      (fun t => ((t.entry 3).state, (t.entry 3).measureCycle)) = some (.reranging, some 7) := by decide
set_option maxRecDepth 20000 in
theorem test_idle_frame_makes_the_link_up :
    after (exec .idle State.reset) (fun t => (t.linkUp, t.silenceTimer, t.indications.linkChg, t.eventQueue))
      = some (true, some 2048, true, [0x1C000000]) := by decide

/-! ## Hypotheses met: the queue, the resets, the laws -/

theorem met_StepRunsTheFrontCommand :
    ({ State.reset with pending := [.lock, .idle] } : State).pending = .lock :: [.idle] ∧ State.reset.pending = [] :=
  ⟨rfl, rfl⟩
theorem met_SoftResetThroughItsCompletion : served.running = none := rfl
theorem met_PartLockFreezesConfiguration :
    State.reset.running = none
      ∧ ({ State.reset with partLock := true } : State).partLock = true ∧ Instr.transmitterHoldEnd ≠ .hardwareReset
      ∧ ∃ t, exec .transmitterHoldEnd { State.reset with partLock := true } = .next t :=
  ⟨rfl, rfl, by decide, _, rfl⟩
theorem met_TreeStateChangesOnlyByItsCommands :
    (Instr.boundary 0).mayChangeTreeState = false ∧ ∃ t, exec (.boundary 0) served = .next t := ⟨rfl, _, rfl⟩
theorem met_EveryStepKeepsTheBounds : served.bounded ∧ ∃ t, step served = .next t := by
  refine ⟨?_, _, rfl⟩
  unfold State.bounded
  decide
theorem met_EveryStepKeepsTheCanonicalForm : (withEntry registered).canonical ∧ ∃ t, step (withEntry registered) = .next t := by
  refine ⟨?_, _, rfl⟩
  unfold State.canonical
  decide
theorem met_EveryStepKeepsDisabledTreesIdle : served.disabledIdle ∧ ∃ t, step served = .next t := by
  refine ⟨?_, _, rfl⟩
  intro t
  match t with
  | 0 => exact fun h => absurd h (by decide)
  | 1 => exact fun _ => ⟨rfl, rfl, rfl, rfl, rfl, rfl, rfl, rfl⟩
  | 2 => exact fun _ => ⟨rfl, rfl, rfl, rfl, rfl, rfl, rfl, rfl⟩
  | 3 => exact fun _ => ⟨rfl, rfl, rfl, rfl, rfl, rfl, rfl, rfl⟩
theorem met_EveryStepKeepsTheRings :
    ({ served with pending := [.boundary 0] } : State).ringsCover
      ∧ ∃ t, step { served with pending := [.boundary 0] } = .next t := by
  refine ⟨?_, _, rfl⟩
  unfold State.ringsCover
  decide

/-! ## Hypotheses met: the port -/

theorem met_MailboxAndRegisterWrites :
    let r := ran 48 Quad.zero .done Quad.zero
    ({ State.reset with running := some r } : State).running.isSome = true
      ∧ State.reset.running = none ∧ isCommandCode 7 = false
      ∧ ({ State.reset with running := some r } : State).running = some r ∧ r.completion.resetDue = false := by
  decide
theorem met_EventQueueTakesRecordsAndReadsOut :
    (({ State.reset with eventQueue := [9] } : State).eventQueue = 9 :: [] ∧ State.reset.half = .upper)
      ∧ (({ State.reset with eventQueue := [9], half := .lower } : State).eventQueue = 9 :: []
        ∧ ({ State.reset with eventQueue := [9], half := .lower } : State).half = .lower)
      ∧ State.reset.eventQueue = [] := ⟨⟨rfl, rfl⟩, ⟨rfl, rfl⟩, rfl⟩
theorem met_EventQueueTakesRecordsAndReadsOut_records :
    ({ State.reset with eventQueue := List.replicate 1023 0 } : State).eventQueue.length + (1 + ([] : List EventWord).length)
        ≤ 1024
      ∧ 1024 < ({ State.reset with eventQueue := List.replicate 1024 0 } : State).eventQueue.length
        + (1 + ([] : List EventWord).length) := by
  simp only [List.length_replicate, List.length_nil]
  decide
theorem met_MailboxAndRegisterWrites_addresses :
    ((Instr.registerWrite 31 1).wellFormed = true ∧ (31#8).toNat < 32)
      ∧ ((Instr.registerWrite 37 2).wellFormed = true ∧ 36 < (37#8).toNat) := by decide

/-! ## Hypotheses met: Tree Control -/

theorem met_TreeConfigOutcome :
    State.reset.running = none ∧ 3 < (4#16).toNat ∧ 7 < (8#16).toNat
      ∧ treeOfWord 3 = some 3 ∧ ConfigItem.ofWord 7 = some .interval
      ∧ ({ State.reset with partLock := true } : State).partLock = true
      ∧ (served.partLock = false ∧ (served.tree 0).state ≠ .disabled)
      ∧ (State.reset.partLock = false ∧ (State.reset.tree 3).state = .disabled
        ∧ (State.reset.tree 3).config.write .backoff 5 0 = none)
      ∧ (State.reset.tree 3).config.write .interval 5 0 = some { TreeConfig.reset 384 with interval := 5 } := by decide
theorem met_TreeTuneOutcome :
    State.reset.running = none ∧ 3 < (4#16).toNat ∧ 9 < (10#16).toNat
      ∧ treeOfWord 0 = some 0 ∧ TuneParam.ofWord 9 = some .holdOff
      ∧ TuneParam.holdOff.inRange (256#16).toNat = false ∧ TuneParam.holdOff.inRange (255#16).toNat = true
      ∧ (State.reset.tree 0).state = .disabled ∧ (served.tree 0).state ≠ .disabled := by decide
theorem met_EnableOutcome :
    let bad (c : TreeConfig) : State := State.reset.setTree 0 { Tree.reset 0 with config := c }
    let other : State := served.setTree 1 { Tree.reset 0 with config := testConfig }
    configured.running = none ∧ 3 < (4#16).toNat ∧ treeOfWord 0 = some 0 ∧ (configured.tree 0).state = .disabled
      ∧ (served.running = none ∧ (served.tree 0).inService = true)
      ∧ (State.reset.tree 0).config.reachOk = false
      ∧ ((other.tree 1).state = .disabled ∧ (other.tree 1).config.reachOk = true ∧ other.overlapping 1 = some 0)
      ∧ ((bad { testConfig with segmentMap := 0 }).tree 0).config.hasPart = false
      ∧ (((bad { testConfig with segmentMap := 2, teq := 2000, maxRtt := 2000 }).tree 0).config.hasPart = true
        ∧ ((bad { testConfig with segmentMap := 2, teq := 2000, maxRtt := 2000 }).tree 0).config.spanOk = false)
      ∧ ((configured.tree 0).config.reachOk = true ∧ configured.overlapping 0 = none
        ∧ (configured.tree 0).config.hasPart = true ∧ (configured.tree 0).config.spanOk = true) := by decide

/-- A CALL record that waits. -/
def waitingCall : CallRecord := { head := { bits := 0, value := 0 }, stage := .waiting, heldIgnored := false }

/-- Tree 0 with a CALL granted to cycle 7, its window in the slot, which is CLAIMED or FILLED. -/
def callGranted (state : SlotState) : State :=
  (served.modSlot 0 7 fun k => { k with state := state, reservations := [Reservation.bare .quietCall 0 280] }).modDiscovery 0
    fun d => { d with running := true, call := some { waitingCall with stage := .granted 7 } }

theorem met_HoldAndResumeOutcome_hold :
    served.running = none ∧ 3 < (4#16).toNat ∧ treeOfWord 0 = some 0 ∧ (configured.tree 0).state ≠ .active
      ∧ ((served.tree 0).state = .active ∧ (served.tree 0).discovery.call = none)
      ∧ ((callGranted .sent).tree 0).discovery.call.map CallRecord.stage = some (.granted 7)
      ∧ (((served.modDiscovery 0 fun d => { d with call := some waitingCall }).tree 0).discovery.call = some waitingCall
        ∧ waitingCall.stage = .waiting)
      ∧ (((callGranted .claimed).tree 0).calendar.slot? 7).map Slot.state = some .claimed
      ∧ (((callGranted .filled).tree 0).calendar.slot? 7).map Slot.state = some .filled
      ∧ ((callGranted .claimed).tree 0).state = .active ∧ ((callGranted .claimed).tree 0).calendar.claims = [] := by decide
theorem test_hold_cancels_the_granted_call :
    after (exec (.hold 0) (callGranted .filled)) (fun t => ((t.tree 0).discovery.call, (t.tree 0).discovery.stack,
      ((t.tree 0).calendar.slot? 7).map Slot.state, t.outQueue))
      = some (none, [{ bits := 0, value := 0 }], some .planned, [.quietCancel 0 7]) := by decide
theorem met_HoldAndResumeOutcome_resume :
    let held := served.modTree 0 fun x => { x with state := .held }
    let paused := held.modDiscovery 0 fun d => { d with running := true, stack := [{ bits := 0, value := 0 }] }
    held.running = none ∧ treeOfWord 0 = some 0 ∧ (served.tree 0).state ≠ .held
      ∧ ((held.tree 0).state = .held ∧ (held.tree 0).discovery.running = false)
      ∧ ((paused.tree 0).state = .held ∧ (paused.tree 0).discovery.running = true
        ∧ (paused.tree 0).discovery.call = none ∧ (paused.tree 0).discovery.stack = { bits := 0, value := 0 } :: []
        ∧ (paused.tree 0).upkeep.dark = false ∧ (paused.tree 0).rogue.rogue = false) := by decide
/-- A round paused on tree 0, its next CALL for every mark. -/
def pausedRound (s : State) : State :=
  s.modDiscovery 0 fun d => { d with running := true, stack := [{ bits := 0, value := 0 }] }
/-- Tree 0 with no slot that a window could join, the first slots sent or CLAIMED, and a waiting request of handle 3. -/
def withoutRoom : State :=
  served.modCalendar 0 fun w =>
    { w with claims := [.measure 3], ring := w.ring.map fun k => { k with state := if k.state = .opened then .claimed else k.state } }
/-- What callAskedFor asks of a state: a position, a whole ring, no CALL in hand; a nearest slot, or none at all. -/
theorem met_callAskedFor :
    let free (s : State) : Prop := (s.tree 0).calendar.quietPosition = some 0
      ∧ (s.tree 0).calendar.ring.map Slot.cycle = ringCycles (s.tree 0).n
      ∧ (∀ p ∈ (s.tree 0).calendar.claims, p.handle? ≠ none)
      ∧ ∀ j ∈ (s.tree 0).calendar.ring, j.state.unsent = true → ∀ r ∈ j.reservations, r.kind ≠ .quietCall
    (free (pausedRound served) ∧ Slot.fresh 7 ∈ ((pausedRound served).tree 0).calendar.ring
      ∧ (Slot.fresh 7).takesWindow (served.tree 0).n 0 280
      ∧ ∀ i ∈ ((pausedRound served).tree 0).calendar.ring, i.takesWindow (served.tree 0).n 0 280 →
        Cycle.distance (served.tree 0).n 7 ≤ Cycle.distance (served.tree 0).n i.cycle)
      ∧ (free (pausedRound withoutRoom)
        ∧ ∀ j ∈ ((pausedRound withoutRoom).tree 0).calendar.ring, ¬ j.takesWindow (withoutRoom.tree 0).n 0 280) := by
  dsimp only [Slot.takesWindow]
  decide
theorem test_call_is_granted_or_waits :
    (((pausedRound served).tryCall 0).tree 0).discovery.call = some { waitingCall with stage := .granted 7 }
      ∧ ((pausedRound served).tryCall 0).outQueue = [.quiet 0 7 0 280]
      ∧ ((((pausedRound served).tryCall 0).tree 0).calendar.slot? 7).map (fun j => (j.state, j.reservations))
        = some (.claimed, [{ Reservation.bare .quietCall 0 280 with
          answerPoint := some 300, head := some { bits := 0, value := 0 } }])
      ∧ (((pausedRound withoutRoom).tryCall 0).tree 0).discovery.call = some waitingCall
      ∧ (((pausedRound withoutRoom).tryCall 0).tree 0).calendar.claims = [.measure 3, .call { bits := 0, value := 0 }]
      ∧ ((pausedRound withoutRoom).tryCall 0).outQueue = [] := by decide
theorem met_DisableOutcome :
    served.running = none ∧ 3 < (4#16).toNat ∧ treeOfWord 0 = some 0 ∧ (configured.tree 0).state = .disabled
      ∧ (served.tree 0).inService = true
      ∧ served.outQueue.length + (served.tree 0).calendar.windowCycles.length < 512 := by decide

/-! ## Hypotheses met: the Terminal Register and the Bar List -/

theorem met_ReserveOutcome :
    served.running = none ∧ BitVec.allOnes 48 = BitVec.allOnes 48 ∧ 511 < (512#16).toNat
      ∧ (mark ≠ 0 ∧ mark ≠ BitVec.allOnes 48 ∧ (511#16).toNat ≤ 511 ∧ served.treeOf 511 = none)
      ∧ (served.treeOf 0 = some 0 ∧ (0#16).toNat = (served.tree 0).config.windowBase)
      ∧ ((withEntry registered).treeOf 3 = some 0 ∧ 3 ≠ (served.tree 0).config.windowBase
        ∧ 3 ∉ (((withEntry registered).modTree 0 fun x => { x with freePool := [1, 2] }).tree 0).freePool)
      ∧ (5 ∈ ((withEntry registered).tree 0).freePool ∧ ((withEntry registered).findMark mark).isSome = true)
      ∧ (15 ≠ (served.tree 0).config.windowBase ∧ 15 ∈ (served.tree 0).freePool ∧ served.findMark mark = none) := by
  decide
theorem met_UnreserveOutcome :
    let s := withEntry (Entry.toReserved mark)
    s.running = none ∧ 511 < (512#16).toNat ∧ ((511#16).toNat ≤ 511 ∧ (s.entry 511).state ≠ .reserved)
      ∧ ((3#16).toNat ≤ 511 ∧ (s.entry 3).state = .reserved ∧ (s.entry 3).mark = some mark ∧ s.treeOf 3 = some 0) := by
  decide
theorem met_BarOutcome :
    let one (kind : BarKind) : State := { State.reset with bars := [{ mark := mark, kind := kind }] }
    let full : State := { State.reset with bars := fullBars }
    let allPermanent : State := { State.reset with bars := fullBars.map fun b => { b with kind := .permanent } }
    State.reset.running = none ∧ (0 : Mark) = 0 ∧ mark ≠ 0 ∧ mark ≠ BitVec.allOnes 48
      ∧ (one .permanent).findBar mark = some { mark := mark, kind := .permanent }
      ∧ (one (.timed 0 5 0)).findBar mark = some { mark := mark, kind := .timed 0 5 0 }
      ∧ (State.reset.findBar mark = none ∧ State.reset.bars.length < 32)
      ∧ (full.findBar mark = none ∧ 32 ≤ full.bars.length ∧ full.bars = [] ++ { mark := 1, kind := .timed 0 5 0 } :: fullBars.tail
        ∧ (BarRecord.mk 1 (.timed 0 5 0)).holdOff? = some 5 ∧ ∀ r ∈ fullBars.tail, r.holdOff? = none)
      ∧ (allPermanent.findBar mark = none ∧ 32 ≤ allPermanent.bars.length
        ∧ ∀ r ∈ allPermanent.bars, r.kind = .permanent) := by decide
theorem met_UnbarOutcome :
    State.reset.running = none ∧ (BitVec.allOnes 48 : Mark) = BitVec.allOnes 48 ∧ mark ≠ 0 ∧ mark ≠ BitVec.allOnes 48 := by
  decide
theorem met_ReleaseOutcome :
    let s := withEntry registered
    s.running = none ∧ 511 < (512#16).toNat ∧ (3#16).toNat ≤ 511 ∧ (511#16).toNat ≤ 511 ∧ (s.entry 511).state = .free
      ∧ ((withEntry (Entry.toReserved mark)).entry 3).state = .reserved
      ∧ ((withEntry (registered.toDeparting .host)).entry 3).state = .departing
      ∧ ((s.entry 3).state ≠ .free ∧ (s.entry 3).state ≠ .reserved ∧ (s.entry 3).state ≠ .departing
        ∧ (s.entry 3).sweepOwned ≠ some true ∧ s.treeOf 3 = some 0) := by decide
theorem met_HushOutcome :
    let s := withEntry registered
    s.running = none ∧ 511 < (512#16).toNat ∧ (3#16).toNat ≤ 511 ∧ (s.entry 511).state = .free
      ∧ ((withEntry (registered.toHushed false)).entry 3).state = .hushed
      ∧ ((s.entry 3).state ≠ .free ∧ (s.entry 3).state ≠ .reserved ∧ (s.entry 3).state ≠ .hushed
        ∧ (s.entry 3).state ≠ .departing ∧ s.treeOf 3 = some 0 ∧ s.eventQueue.length + 2 ≤ 1024) := by decide
theorem met_UnhushOutcome :
    let s := withEntry (registered.toHushed false)
    let u := withEntry ({ registered with delay := none }.toHushed false)
    s.running = none ∧ 511 < (512#16).toNat ∧ (3#16).toNat ≤ 511 ∧ (s.entry 4).state ≠ .hushed
      ∧ ((s.entry 3).state = .hushed ∧ (s.entry 3).sweepOwned ≠ some true ∧ s.treeOf 3 = some 0
        ∧ (s.entry 3).delay.isSome = true)
      ∧ ((u.entry 3).state = .hushed ∧ (u.entry 3).sweepOwned ≠ some true ∧ u.treeOf 3 = some 0
        ∧ (u.entry 3).delay = none) := by decide
theorem met_ForceRangeOutcome :
    let s := withEntry registered
    s.running = none ∧ 511 < (512#16).toNat ∧ (3#16).toNat ≤ 511 ∧ (s.entry 4).inRoster = false
      ∧ ((s.entry 3).inRoster = true ∧ s.treeOf 3 = some 0) := by decide
theorem met_LeavingTheRosterStrikesAndTells :
    let s := (withEntry registered).modSlot 0 7 fun k => { k with state := .planned, reservations := [grant] }
    (s.entry 3).inRoster = true ∧ s.outQueue.length < 512 ∧ (s.tree 0).calendar.grantsFor 3 = 1
      ∧ (s.running = none ∧ (3#16).toNat ≤ 511 ∧ (3#16).toNat = 3 ∧ (s.entry 3).sweepOwned = none ∧ s.treeOf 3 = some 0)
      ∧ s.findBar mark = none ∧ s.findMark mark = some 3 ∧ s.slotsInUse 0 < 8 := by decide
theorem test_release_strikes_and_tells :
    let s := (withEntry registered).modSlot 0 7 fun k => { k with state := .planned, reservations := [grant] }
    after (exec (.release 3) s) (fun t => (((t.tree 0).calendar.slot? 7).map Slot.reservations,
      (t.tree 0).counters.grantsStruck, t.outQueue)) = some (some [], 1, [.roster 0 3 .removed 1]) := by decide
theorem met_HandleCommandsFrame :
    (∃ t, exec (.sweepStart 0 24) (rogue (withEntry registered)) = .next t)
      ∧ (served.running = none ∧ ∃ t, exec (.readSlot 0 15 69 1) served = .next t)
      ∧ ∃ t, exec (.readCounters 4 2 1) served = .next t := ⟨⟨_, rfl⟩, ⟨rfl, _, rfl⟩, _, rfl⟩

/-! ## Hypotheses met: the reading commands and the sweep -/

theorem met_ReadEntryAndFindMarkOutcome_entry :
    let s := withEntry registered
    s.running = none ∧ 511 < (512#16).toNat ∧ (3#16).toNat ≤ 511 ∧ 3 < (4#16).toNat ∧ (s.entry 4).state = .free
      ∧ ((s.entry 3).state ≠ .free ∧ s.treeOf (3#16).toNat = some 0) := by decide
theorem met_ReadEntryAndFindMarkOutcome_mark :
    let s := { withEntry registered with bars := [{ mark := mark, kind := .timed 2 5 0 }, { mark := 2, kind := .permanent }] }
    s.running = none ∧ (0 : Mark) = 0 ∧ mark ≠ 0 ∧ mark ≠ BitVec.allOnes 48 ∧ s.findMark mark = some 3 ∧ s.findMark 2 = none
      ∧ s.findBar 5 = none ∧ s.findBar 2 = some { mark := 2, kind := .permanent }
      ∧ s.findBar mark = some { mark := mark, kind := .timed 2 5 0 } := by decide
theorem test_readEntry_gives_its_pages :
    let pages (e : Entry) (page : Word) := after (exec (.readEntry 3 page) (withEntry e)) fun t =>
      t.running.map fun r => r.completion.results
    pages registered 0 = some (some (words 16423 0 0xAB00 1))
      ∧ pages { registered with driftPending := some (-2), trim := some (.effective 9) } 1
        = some (some (words 150 223 9 0xFFFE))
      ∧ pages { Entry.toSettling (Entry.toCandidateNew mark 1 none) 150 149 with
          settleAttempts := some 1, settleEchoCycle := some 6 } 2 = some (some (words 149 631 150 6))
      ∧ pages { registered.toHushed true with owed := some { kind := .hush, sends := 3 } } 3
        = some (some (words 0 0 0 29194)) := by decide
theorem met_ReadSlotAndCountersOutcome_slot :
    let s := withReservation served grant
    s.running = none ∧ 3 < (4#16).toNat ∧ 15 < (16#16).toNat ∧ 69 < (70#16).toNat ∧ 1 < (2#16).toNat
      ∧ (treeOfWord 1 = some 1 ∧ (s.tree 1).state = .disabled)
      ∧ treeOfWord 0 = some 0 ∧ (s.tree 0).inService = true ∧ (15#16).toNat ≤ 15 ∧ (69#16).toNat ≤ 69
      ∧ (1#16).toNat ≤ 1 ∧ ((s.tree 0).calendar.ring[(1#16).toNat]?).isSome = true
      ∧ ((s.tree 0).calendar.ring[(15#16).toNat]?).isSome = true
      ∧ (0#16) ≠ 69 ∧ (s.reservationsOf 0 0)[(0#16).toNat]? = some grant
      ∧ (s.reservationsOf 0 0)[(68#16).toNat]? = none := by decide
theorem test_readSlot_gives_the_own_items :
    let read (r : Reservation) := after (exec (.readSlot 0 1 0 1) (withReservation served r)) fun t =>
      t.running.map fun r => r.completion.results
    read { grant with outcome := some Burst.noLight } = some (some (words 0 0xB200 0x4002 0))
      ∧ read { Reservation.bare .quietCall 0 280 with head := some { bits := 16, value := 1 }, ended := true }
        = some (some (words 0 0xB400 0x8020 0)) := by decide
theorem met_ReadSlotAndCountersOutcome_counters :
    served.running = none ∧ 4 < (5#16).toNat ∧ 1 < (2#16).toNat ∧ ((3#16).toNat < 4 ∧ 15 < (16#16).toNat)
      ∧ ((4#16) = 4 ∧ 2 < (3#16).toNat)
      ∧ treeOfWord 0 = some 0 ∧ TreeCounter.ofNumber (13#16).toNat = some .enrollBusy ∧ (1#16).toNat ≤ 1 := by decide
theorem test_readCounters_gives_the_free_handles :
    after (exec (.readCounters 0 14 1) served) (fun t => t.running.map fun r => r.completion.results.q1)
      = some (some 15) := by decide
theorem met_SweepCommandsOutcome_a_handle_above : nextRostered (rogue (withEntry registered)) 0 0 3 := by
  refine ⟨by decide, by decide, by decide, ?_⟩
  intro j _ hj
  match j, hj with
  | 0, _ => decide
  | 1, _ => decide
  | 2, _ => decide
theorem met_SweepCommandsOutcome_start :
    let s := rogue (withEntry registered)
    s.running = none ∧ 3 < (4#16).toNat ∧ (23#16).toNat < 24 ∧ 255 < (256#16).toNat
      ∧ treeOfWord 0 = some 0 ∧ 24 ≤ (24#16).toNat ∧ (255#16).toNat ≤ 255 ∧ (configured.tree 0).state = .disabled
      ∧ ((s.modRogue 0 fun r => { r with sweep := some sweep }).tree 0).rogue.sweep.isSome = true
      ∧ ((served.tree 0).inService = true ∧ (served.tree 0).rogue.sweep = none ∧ (served.tree 0).rogue.rogue = false)
      ∧ ((s.tree 0).inService = true ∧ (s.tree 0).rogue.sweep = none ∧ (s.tree 0).rogue.rogue = true)
      ∧ (s.tree 0).config.windowBase = 0 := by decide
theorem met_SweepCommandsOutcome_without_handles : ∀ h, ¬ nextRostered (rogue served) 0 0 h :=
  fun h ⟨_, _, hr, _⟩ => nomatch (show ((rogue served).entry h).inRoster = false from rfl).symm.trans hr
theorem met_SweepCommandsOutcome_abort :
    let s := (withEntry (registered.toHushed true)).modRogue 0 fun r => { r with sweep := some sweep }
    s.running = none ∧ 3 < (4#16).toNat ∧ treeOfWord 0 = some 0 ∧ (served.tree 0).rogue.sweep = none
      ∧ (s.tree 0).rogue.sweep = some sweep := by decide

/-! ## Hypotheses met: boundaries and reports -/

theorem met_BoundaryAdvancesItsTree :
    (served.tree 0).inService = true ∧ (served.boundary 0).outQueue.length < 512 := by decide
/-- Tree 0 in service just past its first boundary, the slot of the cycle before last holding an unended CALL window. -/
def closing : State :=
  (((withReservation (withEntry registered) grant).modSlot 0 65535 fun k =>
    { k with reservations := [Reservation.bare .quietCall 0 280] })).advance 0
theorem met_BoundaryAdvancesItsTree_slots :
    (closing.tree 0).calendar.slot? ((closing.tree 0).n - 1) = some { Slot.fresh 0 with state := .arriving, reservations := [grant] }
      ∧ ((closing.tree 0).calendar.slot? (closing.tree 0).n).isSome = true
      ∧ ((closing.tree 0).calendar.slot? ((closing.tree 0).n - 2)).map Slot.reservations
        = some [Reservation.bare .quietCall 0 280]
      ∧ (Reservation.bare .quietCall 0 280).isQuiet = true ∧ (Reservation.bare .quietCall 0 280).ended = false
      ∧ ∀ r ∈ (Slot.fresh 65535).reservations, r.isQuiet = true → r.ended = true := by decide
theorem met_BoundaryAdvancesItsTree_timer :
    testConfig.interval ≠ 0 ∧ { testConfig with interval := 0 }.interval = 0 := by decide
theorem test_slots_pass_and_close :
    let t := (closing.passSlots 0).closeSlot 0 0
    ((t.tree 0).calendar.slot? 0).map (fun j => (j.state, j.reservations))
        = some (.closing, [{ grant with outcome := some Burst.noLight }])
      ∧ ((t.tree 0).calendar.slot? 1).map Slot.state = some .arriving
      ∧ (t.tree 0).calendar.slot? 65535 = none ∧ t.reportErrors = 1 ∧ (t.entry 3).missCount = some 1 := by decide
set_option maxRecDepth 20000 in
/-- A dwell judgement, the send and the clearing at one boundary, the dwell judgement first: SWEEP_FOUND names the new handle
with stage HUSHING, and its HUSH is sent after (R180). -/
theorem test_dwell_first_finds_the_new_handle_hushing :
    let s := ((withEntry (registered.toHushed true)).enterEntry 4 7 { registered with mark := some 7 }).modRogue 0 fun r =>
      { r with rogue := true, cleanRun := 15, sweep := some sweep }
    let o : BoundaryOrder := { leftovers := 0, acts := 32, defer := 0, notices := 0, grace := 0 }
    let t := s.boundaryUnder 0 o
    o.sequence.take 3 = [.expiry .dwell, .close, .send] ∧ (t.tree 0).rogue.sweep = none
      ∧ t.eventQueue.drop (t.eventQueue.length - 2) = [0x19400004, 2]
      ∧ (t.entry 4).owed = some { kind := .hush, sends := 2 } ∧ (t.entry 4).sweepOwned = some false := by decide
theorem test_bar_counts_the_boundary :
    after (exec (.boundary 0) { served with bars := [{ mark := mark, kind := .timed 0 5 255 }] }) (fun t => t.bars)
      = some [{ mark := mark, kind := .timed 0 4 0 }] := by decide
theorem met_PortEventsAreTestedAndTaken_reports :
    (served.tree 1).state = .disabled
      ∧ ((served.tree 0).inService = true ∧ ({ record 0 0 0 0 0 [] with tree := 1 } : ReportRecord).tree.toNat ≠ (0 : TreeId).val)
      ∧ (served.tree 0).reportedCycle (record 0x05 0 0 0 0 []) = none
      ∧ ((served.tree 0).reportedCycle (record 0x0F 0 0 0 0 []) = some 65535
        ∧ reportReservationIndex (record 0x0F 0 0 0 0 []) = some 0 ∧ (served.reservationsOf 0 65535).length ≤ 0) := by
  decide
theorem met_PortEventsAreTestedAndTaken_byte :
    ((served.modTree 0 fun x => { x with handover := [1, 2] }).tree 0).handover = 1 :: [2] := by decide
theorem met_PortEventsAreTestedAndTaken_stray :
    let r := record 0x10 0xFF 1 500 0 []
    (served.tree 0).inService = true ∧ r.tree.toNat = (0 : TreeId).val ∧ (served.tree 0).reportedCycle r = some 0
      ∧ reportReservationIndex r = none
      ∧ reportRead r none = some { result := .badCheck, arrival := some 500, header := none, payload := none } := by
  decide

/-- Each test of R14 fails at the first value past its range. -/
theorem met_PortEventsAreTestedAndTaken_tests :
    (failsResultForKind (record 0 0xFF 2 0 0 []) none ∧ failsResultForKind (record 0 0 4 0 0 []) (some .grant)
      ∧ failsResultForKind (record 0 0 2 0 0 []) (some .quietCall))
      ∧ (failsEncoding (record 0 0 5 0 0 []) ∧ failsEncoding (record 0x80 0 2 0 0 []) ∧ failsEncoding (record 0x40 0 2 0 0 []))
      ∧ (failsPresence (record 0x10 0 2 0 0 []) ∧ failsPresence (record 0x10 0 0 0 0 [])
        ∧ failsPresence (record 0x50 0 1 0 0 [0x13, 0, 3, 0, 0]))
      ∧ (failsRanges (record 0x30 0 0 16000 3 []) ∧ failsRanges (record 0x30 0 0 0 512 [])
        ∧ failsRanges { record 0 0 4 0 0 [] with burstCount := 17 })
      ∧ { record 0x40 0 0 0 0 [1, 2] with payloadLength := 3 }.payload.length ≠ (3#8).toNat := by
  unfold failsResultForKind failsEncoding failsPresence failsRanges carries
  refine ⟨?_, ?_, ?_, ?_, ?_⟩ <;> decide
theorem met_PortEventsAreTestedAndTaken_payloads :
    failsPayload (record 0x70 0 0 0 3 [1]) (some .echo) ∧ failsPayload (record 0x70 0 0 0 3 [0x13, 0, 3, 0, 0]) (some .grant)
      ∧ failsPayload (record 0x30 0 0 0 3 []) (some .echo)
      ∧ failsPayload (record 0x70 0 0 0 3 [0x13, 0, 3, 0, 0]) (some .quietCall) := by
  unfold failsPayload carries helloBytes answerBytes echoBytes
  refine ⟨?_, ?_, ?_, ?_⟩ <;> decide
/-- At the last value within its range no test fails. -/
theorem test_reports_at_the_limits_are_read :
    (reportRead (record 0x30 0 0 15999 511 []) (some .grant)).isSome = true
      ∧ (reportRead (record 0x30 0 0 0 0xFFFF []) (some .grant)).isSome = true
      ∧ (reportRead { record 0 0 4 0 0 [] with burstCount := 16 } (some .quietCall)).isSome = true
      ∧ (reportRead (record 0x70 0xFF 0 0 3 [0x13, 0, 3, 1, 7]) none).isSome = true := by decide
theorem met_PortEventsAreTestedAndTaken_seen :
    let hits := record 0x30 0 0 3001 3 []
    let seen : Burst := { result := .good, arrival := some 3001, header := some (.handle 3), payload := none }
    let ending (n : Byte) : ReportRecord := { record 0 0 4 0 0 [] with burstCount := n }
    let ended : Burst := { result := .windowEnd, arrival := none, header := none, payload := none }
    let edge := record 0x10 0 3 100 0 []
    let edged : Burst := { result := .edge, arrival := some 100, header := none, payload := none }
    let window (n : Nat) : Reservation := { Reservation.bare .quietCall 0 280 with bursts := List.replicate n edged }
    (reportsOn (withReservation served grant) 0 hits 0 0 grant seen ∧ grant.outcome = none)
      ∧ reportsOn (withReservation served { grant with outcome := some seen }) 0 hits 0 0 { grant with outcome := some seen } seen
      ∧ reportsOn (withReservation served { window 0 with ended := true }) 0 edge 0 0 { window 0 with ended := true } edged
      ∧ (reportsOn (withReservation served (window 16)) 0 edge 0 0 (window 16) edged ∧ edged.result ≠ .windowEnd)
      ∧ (reportsOn (withReservation served (window 15)) 0 edge 0 0 (window 15) edged ∧ (window 15).ended = false)
      ∧ (reportsOn (withReservation served (window 16)) 0 (ending 16) 0 0 (window 16) ended
        ∧ (ending 16).burstCount.toNat = (window 16).bursts.length)
      ∧ (reportsOn (withReservation served (window 16)) 0 (ending 15) 0 0 (window 16) ended
        ∧ (ending 15).burstCount.toNat ≠ (window 16).bursts.length) := by
  unfold reportsOn
  decide
/-- A hit on the grant of handle 3. -/
def hit (arrival : Word) : ReportRecord := record 0x30 0 0 arrival 3 []

/-- What the hit shows. -/
def hitBurst (arrival : Nat) : Burst :=
  { result := .good, arrival := some arrival, header := some (.handle 3), payload := none }

theorem met_GrantHitRefreshesPresence :
    let s := withReservation (withEntry { registered with driftPending := some 4 }) grant
    reportsOn s 0 (hit 3002) 0 0 grant (hitBurst 3002) ∧ grant.kind = .grant ∧ grant.handle = some 3 ∧ grant.outcome = none
      ∧ (hitBurst 3002).matchesHandle 3 = true ∧ (hitBurst 3002).arrival = some 3002 ∧ (s.tree 0).upkeep.dark = false
      ∧ (s.tree 0).tuning.deadBand ≤ (s.tree 0).tuning.hardLimit
      ∧ ((s.entry 3).state = .registered ∧ (s.entry 3).trim = some .none
        ∧ ((3002 : Int) - grant.start).natAbs ≤ (s.tree 0).tuning.deadBand)
      ∧ (reportsOn s 0 (hit 3064) 0 0 grant (hitBurst 3064)
        ∧ (s.tree 0).tuning.deadBand < ((3064 : Int) - grant.start).natAbs
        ∧ ((3064 : Int) - grant.start).natAbs ≤ (s.tree 0).tuning.hardLimit
        ∧ (s.entry 3).driftPending = some 4 ∧ (0 < (4 : Int) ∧ 0 < (3064 : Int) - grant.start)
        ∧ (s.entry 3).delay = some 150 ∧ (s.entry 3).generation = some 0
        ∧ (s.tree 0).config.validSample ((150 : Nat) + -(Int.tdiv (4 + ((3064 : Int) - grant.start)) 2)) = true
        ∧ (s.tree 0).control.queue.length < 32) := by
  unfold reportsOn
  decide
theorem met_GrantHitRefreshesPresence_others :
    let s := withReservation (withEntry { registered with driftPending := some 4 }) grant
    let far := withReservation (withEntry { registered with driftPending := some 64, delay := some 301 }) grant
    let lost := withReservation (withEntry { registered.toLost 0 with graceCount := some 7 }) grant
    (reportsOn far 0 (hit 3003) 0 0 grant (hitBurst 3003) ∧ (far.entry 3).driftPending = some 64
        ∧ (far.tree 0).config.validSample ((301 : Nat) + -(Int.tdiv (64 + ((3003 : Int) - grant.start)) 2)) = true
        ∧ (far.tree 0).config.validSample ((100 : Nat) + -(Int.tdiv (64 + ((3003 : Int) - grant.start)) 2)) = false)
      ∧ (reportsOn lost 0 (hit 3002) 0 0 grant (hitBurst 3002) ∧ (lost.entry 3).state = .lost
        ∧ (lost.entry 3).trim = some .none ∧ lost.outQueue.length < 512)
      ∧ (reportsOn s 0 (hit 3065) 0 0 grant (hitBurst 3065)
        ∧ (s.tree 0).tuning.hardLimit < ((3065 : Int) - grant.start).natAbs) := by
  unfold reportsOn
  decide
theorem met_GrantHitRefreshesPresence_full :
    32 ≤ (((withEntry registered).modControl 0 fun q => { q with queue := List.replicate 32 (.hush 4) }).tree 0).control.queue.length := by
  decide
theorem met_GrantHitRefreshesPresence_filter :
    let at' (e : Entry) : State := withReservation (withEntry e) grant
    let onDark (e : Entry) : State := (at' e).modUpkeep 0 fun u => { u with dark := true }
    let fenced (f : Cycle) : Entry := { registered with trim := some (.effective f) }
    let taken (s : State) (arrival : Word) : Prop := reportsOn s 0 (hit arrival) 0 0 grant (hitBurst arrival.toNat)
    (taken (at' { registered with driftPending := some (-1) }) 3003
        ∧ ¬ ((0 < (-1 : Int) ∧ 0 < (3003 : Int) - grant.start) ∨ ((-1 : Int) < 0 ∧ (3003 : Int) - grant.start < 0)))
      ∧ (taken (at' registered) 3064 ∧ ((at' registered).entry 3).driftPending = none)
      ∧ (taken (at' { registered with trim := some .queued }) 3064)
      ∧ (taken (at' (fenced 32767)) 3064 ∧ 1 ≤ Cycle.distance 0 32767 ∧ Cycle.distance 0 32767 ≤ 32767
        ∧ taken (at' (fenced 1)) 3064 ∧ 1 ≤ Cycle.distance 0 1)
      ∧ (taken (at' (fenced 0)) 3002 ∧ ¬ 1 ≤ Cycle.distance 0 0 ∧ taken (at' (fenced 32768)) 3003
        ∧ ¬ Cycle.distance 0 32768 ≤ 32767 ∧ ((at' (fenced 32768)).entry 3).driftPending = none)
      ∧ (taken (onDark registered) 3100 ∧ ((onDark registered).tree 0).upkeep.dark = true
        ∧ taken (onDark (fenced 0)) 3100 ∧ taken (onDark (registered.toLost 0)) 3100
        ∧ ((onDark (registered.toLost 0)).entry 3).trim = some .none) := by
  intro at' onDark fenced taken
  repeat' apply And.intro
  all_goals decide
theorem test_filter_follows_its_rows :
    let hits (e : Entry) (dark : Bool) (arrival : Word) :=
      after (exec (.burstReport 0 (hit arrival)) ((withReservation (withEntry e) grant).modUpkeep 0 fun u => { u with dark := dark }))
        fun t => (t.entry 3).driftPending
    hits { registered with driftPending := some (-1) } false 3003 = some (some 3)
      ∧ hits { registered with driftPending := some (-1), trim := some (.effective 1) } false 3003 = some (some (-1))
      ∧ hits { registered with driftPending := some (-1) } true 3100 = some (some (-1)) := by decide
theorem met_MissedGrantCountsTowardLost :
    let r := record 0 0 2 0 0 []
    let s := withReservation (withEntry registered) grant
    let u := withReservation (withEntry { registered with missCount := some 3 }) grant
    reportsOn s 0 r 0 0 grant Burst.noLight ∧ grant.outcome = none ∧ Burst.noLight.result ≠ .good
      ∧ (s.entry 3).state = .registered ∧ (s.entry 3).trim = some .none ∧ (s.tree 0).upkeep.dark = false
      ∧ ((s.entry 3).missCount = some 0 ∧ 0 + 1 < (s.tree 0).tuning.lostThreshold)
      ∧ ((u.entry 3).missCount = some 3 ∧ (u.tree 0).tuning.lostThreshold ≤ 3 + 1 ∧ (u.entry 3).state = .registered
        ∧ (u.entry 3).trim = some .none ∧ reportsOn u 0 r 0 0 grant Burst.noLight ∧ u.outQueue.length < 512
        ∧ u.eventQueue.length + 2 ≤ 1024) := by
  unfold reportsOn
  decide
/-- A BAD_CHECK and an EDGE report are misses too. -/
theorem met_MissedGrantCountsTowardLost_light :
    let s := withReservation (withEntry registered) grant
    let lit (result : ReportResult) : Burst := { result := result, arrival := some 3001, header := none, payload := none }
    reportsOn s 0 (record 0x10 0 1 3001 0 []) 0 0 grant (lit .badCheck) ∧ (lit .badCheck).result ≠ .good
      ∧ reportsOn s 0 (record 0x10 0 3 3001 0 []) 0 0 grant (lit .edge) ∧ (lit .edge).result ≠ .good
      ∧ after (exec (.burstReport 0 (record 0x10 0 3 3001 0 [])) s) (fun t => (t.entry 3).missCount) = some (some 1) := by
  unfold reportsOn
  decide
theorem met_MissedGrantCountsTowardLost_others :
    let r := record 0 0 2 0 0 []
    let at' (f : Cycle) : State := withReservation (withEntry { registered with trim := some (.effective f) }) grant
    let dark := (at' 1).modUpkeep 0 fun u => { u with dark := true }
    (reportsOn (at' 1) 0 r 0 0 grant Burst.noLight ∧ 1 ≤ Cycle.distance 0 1)
      ∧ (reportsOn (at' 0) 0 r 0 0 grant Burst.noLight ∧ ¬ 1 ≤ Cycle.distance 0 0)
      ∧ (reportsOn dark 0 r 0 0 grant Burst.noLight ∧ (dark.tree 0).upkeep.dark = true
        ∧ (dark.entry 3).state = .registered ∧ (dark.entry 3).missCount = some 0) := by
  unfold reportsOn
  decide

/-- A PROBE echo slot of handle 3. -/
def probeEcho : Reservation := { Reservation.bare .echo 500 80 with handle := some 3, purpose := some .probe }

/-- An ECHO at grain 502, OK or LEAVING. -/
def echo (status : Byte) : ReportRecord := record 0x70 0 0 502 3 [0x13, 0x00, 0x03, status, 0x00]

/-- What the ECHO shows. -/
def echoBurst (status : EchoStatus) : Burst :=
  { result := .good, arrival := some 502, header := some (.handle 3), payload := some (.echo 3 status 0) }

theorem met_ProbesAreMadeDueAndTheirEchoesJudged :
    let at64 (e : Entry) : State := (withEntry e).modTree 0 fun x => { x with n := 64 }
    let leaving := withReservation (withEntry { registered with leavingSeen := some true, probeInFlight := some true }) probeEcho
    (((at64 registered).entry 3).inRoster = true ∧ ((at64 registered).tree 0).tuning.probeInterval ≤ 32768
      ∧ ((at64 registered).entry 3).lastObserved = some 0 ∧ ((at64 registered).entry 3).probeInFlight = some false
      ∧ 3 ∉ ((at64 registered).tree 0).upkeep.probeDue
      ∧ ((at64 registered).tree 0).tuning.probeInterval ≤ Cycle.distance 0 64)
      ∧ 32768 ≤ Cycle.distance 0 32768
      ∧ (((at64 (registered.toLost 0)).entry 3).state = .lost ∧ ((at64 (registered.toLost 0)).entry 3).lostSince = some 0
        ∧ Cycle.distance 0 64 % ((at64 (registered.toLost 0)).tree 0).tuning.probeInterval = 0)
      ∧ (reportsOn leaving 0 (echo 0) 0 0 probeEcho (echoBurst .ok)
        ∧ reportsOn leaving 0 (echo 1) 0 0 probeEcho (echoBurst .leaving)
        ∧ probeEcho.kind = .echo ∧ probeEcho.purpose = some .probe ∧ probeEcho.handle = some 3 ∧ probeEcho.outcome = none
        ∧ (echoBurst .leaving).matchesHandle 3 = true ∧ (echoBurst .leaving).payload = some (.echo 3 .leaving 0)
        ∧ (leaving.entry 3).inRoster = true ∧ (leaving.tree 0).tuning.deadBand ≤ (leaving.tree 0).tuning.hardLimit
        ∧ ((502 : Int) - probeEcho.start).natAbs ≤ (leaving.tree 0).tuning.deadBand
        ∧ (leaving.entry 3).leavingSeen = some true ∧ registered.leavingSeen ≠ some true) := by
  unfold reportsOn
  decide
theorem test_second_leaving_departs :
    after (exec (.burstReport 0 (echo 1)) (withReservation
      (withEntry { registered with leavingSeen := some true, probeInFlight := some true }) probeEcho))
      (fun t => ((t.entry 3).state, (t.entry 3).reason, (t.entry 3).owed))
      = some (.departing, some .leave, some { kind := .release, sends := 1 }) := by decide

/-- A CALL window at grain 0 for every mark, its answer point 300. -/
def callWindow : Reservation :=
  { Reservation.bare .quietCall 0 280 with answerPoint := some 300, head := some { bits := 0, value := 0 } }

/-- A HELLO of the mark, class 1, backoff 0, at grain 150. -/
def hello : ReportRecord := record 0x70 0 0 150 0xFFFF [0x11, 0x00, 0x00, 0xAB, 0x00, 0x00, 0x01, 0x01, 0x00, 0x00]

/-- What the HELLO shows. -/
def helloBurst : Burst :=
  { result := .good, arrival := some 150, header := some .noHandle, payload := some (.hello mark 1 0) }

theorem met_HelloOfAnUnknownMarkEnrolls :
    let s := withReservation served callWindow
    (s.tree 0).state = .active ∧ reportsOn s 0 hello 0 0 callWindow helloBurst ∧ callWindow.kind = .quietCall
      ∧ callWindow.ended = false ∧ callWindow.bursts.length < 16 ∧ helloBurst.result = .good
      ∧ helloBurst.payload = some (.hello mark 1 0) ∧ helloBurst.arrival = some 150
      ∧ helloInWindow (callWindow.head.getD { bits := 0, value := 0 }) (s.tree 0).config.backoff mark 0 = true
      ∧ helloInWindow { bits := 0, value := 0 } .b512 mark 511 = true
      ∧ s.findBar mark = none ∧ s.findMark mark = none ∧ (s.tree 0).tuning.admission = 0 ∧ s.slotsInUse 0 < 8
      ∧ (s.tree 0).freePool = 1 :: (List.range 14).map (· + 2) := by
  unfold reportsOn
  decide
/-- Eight CANDIDATE entries at handles 8 to 15. -/
def busy (s : State) : State :=
  { s with entries := s.entries ++ (List.range 8).map fun j =>
      (j + 8, Entry.toCandidateNew (BitVec.ofNat 48 (j + 100)) 1 none) }
/-- A GOOD burst that is no HELLO. -/
def answerBurst : Burst := { helloBurst with payload := some (.answer mark 3) }
theorem met_HelloDropsChangeNoEntry_intake :
    { helloBurst with result := .edge }.result ≠ .good ∧ helloBurst.result = .good
      ∧ ((served.modTree 0 fun x => { x with state := .held }).tree 0).state = .held ∧ (served.tree 0).state ≠ .held
      ∧ (∀ m termClass n, answerBurst.payload ≠ some (.hello m termClass n))
      ∧ helloBurst.payload = some (.hello mark 1 0) ∧ (0 : Mark) = 0 ∧ (BitVec.allOnes 48 : Mark) = BitVec.allOnes 48
      ∧ mark.toNat / 2 ^ (48 - 16) ≠ 1 ∧ ((served.tree 0).config.backoff.grains ≤ 1 ∧ 1 ≠ 0) := by
  refine ⟨by decide, by decide, by decide, by decide, ?_, by decide, rfl, rfl, by decide, by decide⟩
  intro m termClass n
  exact fun h => by cases h
theorem met_HelloDropsChangeNoEntry :
    let barred (kind : BarKind) : State := { served with bars := [{ mark := mark, kind := kind }] }
    let other (e : Entry) : State :=
      (withEntry e).modTree 1 fun x => { x with config := { x.config with windowBase := 128 }, state := .active }
    let full := busy (withEntry registered)
    ((barred .permanent).findBar mark = some { mark := mark, kind := .permanent }
      ∧ (barred (.timed 1 255 0)).findBar mark = some { mark := mark, kind := .timed 1 255 0 })
      ∧ ((other registered).findBar mark = none ∧ (other registered).findMark mark = some 3
        ∧ (other registered).treeOf 3 = some 0 ∧ (0 : TreeId) ≠ 1 ∧ ((other registered).entry 3).state ≠ .reserved
        ∧ ((other (Entry.toReserved mark)).entry 3).state = .reserved)
      ∧ (((withEntry (registered.toHushed false)).entry 3).state = .hushed
        ∧ ((withEntry (registered.toDeparting .host)).entry 3).state = .departing
        ∧ ((withEntry { Entry.toCandidateNew mark 1 none with measureCycle := some 9 }).entry 3).measureCycle ≠ none)
      ∧ ((full.entry 3).inRoster = true ∧ full.findMark mark = some 3 ∧ full.treeOf 3 = some 0 ∧ 8 ≤ full.slotsInUse 0)
      ∧ (served.findMark mark = none
        ∧ ((served.modTree 0 fun x => { x with tuning := x.tuning.put .admission 1 }).tree 0).tuning.admission = 1
        ∧ (served.tree 0).tuning.admission = 0 ∧ 8 ≤ (busy served).slotsInUse 0 ∧ (busy served).findMark mark = none
        ∧ served.slotsInUse 0 < 8 ∧ ((served.modTree 0 fun x => { x with freePool := [] }).tree 0).freePool = []) := by
  decide
theorem met_HelloOfAKnownMarkRejoinsRefreshesOrEnrolls :
    let s (e : Entry) : State := withEntry e
    let candidate := Entry.toCandidateNew mark 1 none
    ((s registered).findBar mark = none ∧ (s registered).findMark mark = some 3 ∧ (s registered).treeOf 3 = some 0)
      ∧ ((s (candidate.toSettling 150 150)).entry 3).state = .settling
      ∧ (((s registered).entry 3).inRoster = true ∧ (s registered).slotsInUse 0 < 8)
      ∧ ((s (registered.toReranging .forced)).entry 3).state = .reranging
      ∧ (((s candidate).entry 3).state = .candidate ∧ ((s candidate).entry 3).measureCycle = none)
      ∧ (((s (Entry.toReserved mark)).entry 3).state = .reserved ∧ (s (Entry.toReserved mark)).slotsInUse 0 < 8) := by
  decide
theorem test_hello_enrolls :
    after (exec (.burstReport 0 hello) (withReservation served callWindow)) (fun t =>
      ((t.entry 1).state, (t.entry 1).lastSample, (t.entry 1).measureCycle, t.findMark mark))
      = some (.candidate, some 150, some 7, some 1) := by decide

/-- A measuring window of handle 3 that has taken an ANSWER at grain 150. -/
def measureWindow : Reservation :=
  { Reservation.bare .quietMeasure 0 280 with
    handle := some 3, answerPoint := some 300
    bursts := [{ result := .good, arrival := some 150, header := some (.handle 3), payload := some (.answer mark 3) }] }

/-- A CANDIDATE whose measuring window is that of cycle 0. -/
def candidate (last : Option Int) : Entry :=
  { Entry.toCandidateNew mark 1 last with measureCycle := some 0 }

theorem met_MeasuringWindowPairsSamples :
    let r := { record 0 0 4 0 0 [] with burstCount := 1 }
    let ended : Burst := { result := .windowEnd, arrival := none, header := none, payload := none }
    let s := withReservation (withEntry (candidate (some 152))) measureWindow
    let u := withReservation (withEntry (candidate none)) measureWindow
    let v := withReservation (withEntry { candidate none with measureAttempts := some 3 }) measureWindow
    reportsOn s 0 r 0 0 measureWindow ended ∧ reportsOn u 0 r 0 0 measureWindow ended
      ∧ measureWindow.kind = .quietMeasure ∧ measureWindow.handle = some 3 ∧ measureWindow.ended = false
      ∧ ended.result = .windowEnd
      ∧ (s.entry 3).state = .candidate ∧ (s.entry 3).measureCycle = some 0 ∧ (s.entry 3).measureAttempts = some 0
      ∧ (s.tree 0).config.windowSample (s.entry 3) 3 300 measureWindow.bursts = some 150
      ∧ ((s.entry 3).lastSample = some 152 ∧ ((150 : Int) - 152).natAbs ≤ (s.tree 0).tuning.tolerance)
      ∧ ((u.entry 3).state = .candidate ∧ (u.entry 3).measureCycle = some 0 ∧ (u.entry 3).measureAttempts = some 0
        ∧ (u.tree 0).config.windowSample (u.entry 3) 3 300 measureWindow.bursts = some 150
        ∧ (u.entry 3).lastSample = none ∧ min (0 + 1) 7 < (u.tree 0).tuning.measureAttempts)
      ∧ (reportsOn v 0 r 0 0 measureWindow ended ∧ (v.entry 3).state = .candidate ∧ (v.entry 3).measureCycle = some 0
        ∧ (v.entry 3).measureAttempts = some 3 ∧ (v.entry 3).lastSample = none
        ∧ (v.tree 0).config.windowSample (v.entry 3) 3 300 measureWindow.bursts = some 150
        ∧ (v.tree 0).tuning.measureAttempts ≤ min (3 + 1) 7 ∧ v.eventQueue.length + 3 ≤ 1024) := by
  unfold reportsOn
  decide
theorem met_MeasuringWindowPairsSamples_others :
    let r := { record 0 0 4 0 0 [] with burstCount := 1 }
    let ended : Burst := { result := .windowEnd, arrival := none, header := none, payload := none }
    let at' (e : Entry) (w : Reservation) : State := withReservation (withEntry e) w
    let reranging : Entry := { registered.toReranging .rerange with measureCycle := some 0, lastSample := some 152 }
    let silent : Reservation := { measureWindow with bursts := [] }
    let full := busy (at' reranging measureWindow)
    let s := at' (candidate (some 153)) measureWindow
    (reportsOn s 0 r 0 0 measureWindow ended ∧ s.tree 0 = (at' (candidate none) measureWindow).tree 0
        ∧ (s.tree 0).config.windowSample (s.entry 3) 3 300 measureWindow.bursts = some 150
        ∧ ((150 : Int) - 153).natAbs ≤ (s.tree 0).tuning.tolerance ∧ ¬ ((150 : Int) - 158).natAbs ≤ (s.tree 0).tuning.tolerance)
      ∧ (reportsOn full 0 r 0 0 measureWindow ended ∧ (full.entry 3).state = .reranging ∧ 8 ≤ full.slotsInUse 0
        ∧ (full.entry 3).measureCycle = some 0 ∧ (full.entry 3).measureAttempts = some 0
        ∧ (full.tree 0).config.windowSample (full.entry 3) 3 300 measureWindow.bursts = some 150)
      ∧ (reportsOn (at' reranging measureWindow) 0 r 0 0 measureWindow ended
        ∧ (at' reranging measureWindow).slotsInUse 0 < 8)
      ∧ (reportsOn (at' (candidate none) silent) 0 (record 0 0 4 0 0 []) 0 0 silent ended
        ∧ (s.tree 0).config.windowSample (candidate none) 3 300 silent.bursts = none)
      ∧ (reportsOn (at' registered measureWindow) 0 r 0 0 measureWindow ended ∧ registered.state ≠ .candidate
        ∧ registered.state ≠ .reranging)
      ∧ { candidate none with measureCycle := some 7 }.measureCycle ≠ some 0 := by
  unfold reportsOn
  decide
theorem test_disagreeing_pair_and_full_slots_keep_measuring :
    let ends (s : State) := after (exec (.burstReport 0 { record 0 0 4 0 0 [] with burstCount := 1 }) s) fun t =>
      ((t.entry 3).state, (t.entry 3).lastSample, (t.entry 3).measureAttempts)
    let reranging : Entry := { registered.toReranging .rerange with measureCycle := some 0, lastSample := some 152 }
    ends (withReservation (withEntry (candidate (some 158))) measureWindow) = some (.candidate, some 150, some 1)
      ∧ ends (busy (withReservation (withEntry reranging) measureWindow)) = some (.reranging, some 150, some 1) := by decide
theorem test_agreeing_pair_settles :
    after (exec (.burstReport 0 { record 0 0 4 0 0 [] with burstCount := 1 })
      (withReservation (withEntry (candidate (some 153))) measureWindow)) (fun t =>
      ((t.entry 3).state, (t.entry 3).settleSample, (t.tree 0).calendar.settleDue))
      = some (.settling, some 151, [3]) := by decide

/-- A SETTLE echo slot of handle 3. -/
def settleEcho : Reservation := { Reservation.bare .echo 500 80 with handle := some 3, purpose := some .settle }

/-- A SETTLING entry whose echo is due in cycle 0, at its first attempt. -/
def settling : Entry :=
  { (Entry.toCandidateNew mark 1 none).toSettling 150 150 with settleAttempts := some 1, settleEchoCycle := some 0 }

/-- An ACCEPT at grain 502. -/
def accept : ReportRecord := record 0x70 0 0 502 3 [0x13, 0x00, 0x03, 0x00, 0x00]

/-- What the ACCEPT shows. -/
def acceptBurst : Burst :=
  { result := .good, arrival := some 502, header := some (.handle 3), payload := some (.echo 3 .ok 0) }

theorem met_SettleEchoIsJudged :
    let s := withReservation (withEntry settling) settleEcho
    let third := withReservation (withEntry { settling with settleAttempts := some 3 }) settleEcho
    let silence := record 0 0 2 0 0 []
    let late := record 0x70 0 0 505 3 [0x13, 0x00, 0x03, 0x00, 0x00]
    reportsOn s 0 accept 0 0 settleEcho acceptBurst ∧ settleEcho.kind = .echo
      ∧ settleEcho.purpose = some .settle ∧ settleEcho.handle = some 3 ∧ settleEcho.outcome = none
      ∧ (s.entry 3).state = .settling ∧ (s.entry 3).settleEchoCycle = some 0
      ∧ (acceptBurst.isAccept 3 = true ∧ acceptBurst.arrival = some 502
        ∧ ((502 : Int) - settleEcho.start).natAbs ≤ (s.tree 0).tuning.tolerance)
      ∧ (reportsOn s 0 late 0 0 settleEcho { acceptBurst with arrival := some 505 }
        ∧ { acceptBurst with arrival := some 505 }.isAccept 3 = true
        ∧ (s.tree 0).tuning.tolerance < ((505 : Int) - settleEcho.start).natAbs ∧ (s.entry 3).origin = some .enroll)
      ∧ (reportsOn s 0 silence 0 0 settleEcho Burst.noLight ∧ Burst.noLight.isAccept 3 = false
        ∧ (s.entry 3).settleAttempts = some 1 ∧ 1 < 3)
      ∧ (reportsOn third 0 silence 0 0 settleEcho Burst.noLight ∧ (third.entry 3).state = .settling
        ∧ (third.entry 3).settleEchoCycle = some 0 ∧ (third.entry 3).settleAttempts = some 3) := by
  unfold reportsOn
  decide
theorem met_SettleEchoIsJudged_origins :
    let late := record 0x70 0 0 505 3 [0x13, 0x00, 0x03, 0x00, 0x00]
    let s (origin : RangingOrigin) := withReservation (withEntry { settling with origin := some origin }) settleEcho
    ∀ origin ∈ [RangingOrigin.enroll, .rerange, .forced],
      reportsOn (s origin) 0 late 0 0 settleEcho { acceptBurst with arrival := some 505 }
        ∧ ((s origin).entry 3).state = .settling ∧ ((s origin).entry 3).settleEchoCycle = some 0
        ∧ ((s origin).entry 3).origin = some origin
        ∧ ((s origin).tree 0).tuning.tolerance < ((505 : Int) - settleEcho.start).natAbs := by
  unfold reportsOn
  decide
theorem test_deviated_accept_returns_to_reranging :
    after (exec (.burstReport 0 (record 0x70 0 0 505 3 [0x13, 0x00, 0x03, 0x00, 0x00]))
      (withReservation (withEntry { settling with origin := some .forced }) settleEcho)) (fun t =>
      ((t.entry 3).state, (t.entry 3).measureCycle, t.outQueue, t.eventQueue.length))
      = some (.reranging, some 7, [.quiet 0 7 0 280], 0) := by decide
theorem met_RangingFailureDepartsAndBars :
    let s := withEntry (candidate none)
    let with' (bars : List BarRecord) : State := { s with bars := bars }
    ((s.entry 3).state = .candidate ∧ (s.entry 3).mark = some mark)
      ∧ ((withEntry settling).entry 3).state = .settling
      ∧ ((withEntry (registered.toReranging .forced)).entry 3).state = .reranging
      ∧ (s.tree 0).tuning.holdOff ≠ 0 ∧ ((s.modTree 0 fun x => { x with tuning := x.tuning.put .holdOff 0 }).tree 0).tuning.holdOff = 0
      ∧ s.eventQueue.length + 6 ≤ 1024
      ∧ (with' [{ mark := mark, kind := .permanent }]).findBar mark = some { mark := mark, kind := .permanent }
      ∧ (with' [{ mark := mark, kind := .timed 1 1 255 }]).findBar mark = some { mark := mark, kind := .timed 1 1 255 }
      ∧ (s.findBar mark = none ∧ s.bars.length < 32)
      ∧ ((with' fullBars).findBar mark = none ∧ 32 ≤ (with' fullBars).bars.length
        ∧ fullBars = [] ++ { mark := 1, kind := .timed 0 5 0 } :: fullBars.tail
        ∧ (BarRecord.mk 1 (.timed 0 5 0)).holdOff? = some 5 ∧ ∀ r ∈ fullBars.tail, r.holdOff? = none)
      ∧ ∀ r ∈ fullBars.map (fun b => { b with kind := .permanent }), r.kind = .permanent := by decide
/-- A MEASURE request of handle 3 that waits. -/
def waitingClaim : State :=
  (withEntry { candidate none with measureCycle := none }).modCalendar 0 fun w => { w with claims := [.measure 3] }
theorem met_ClaimRequestIsGrantedOrWaits :
    let s := withEntry { candidate none with measureCycle := none }
    let none' := s.modCalendar 0 fun w => { w with ring := w.ring.map fun k => { k with state := .claimed } }
    ((s.entry 3).state ≠ .free ∧ (s.entry 3).origin = some .enroll ∧ (s.tree 0).calendar.quietPosition = some 0
      ∧ (s.tree 0).calendar.ring.map Slot.cycle = ringCycles (s.tree 0).n)
      ∧ ((withEntry (candidate none)).entry 3).measureCycle ≠ none
      ∧ (∃ p ∈ (waitingClaim.tree 0).calendar.claims, p.handle? = some 3)
      ∧ ((s.entry 3).measureCycle = none ∧ (∀ p ∈ (s.tree 0).calendar.claims, p.handle? ≠ some 3)
        ∧ Slot.fresh 7 ∈ (s.tree 0).calendar.ring ∧ (Slot.fresh 7).takesWindow (s.tree 0).n 0 280
        ∧ ∀ i ∈ (s.tree 0).calendar.ring, i.takesWindow (s.tree 0).n 0 280 →
          Cycle.distance (s.tree 0).n 7 ≤ Cycle.distance (s.tree 0).n i.cycle)
      ∧ ((none'.tree 0).calendar.ring.map Slot.cycle = ringCycles (none'.tree 0).n
        ∧ ∀ j ∈ (none'.tree 0).calendar.ring, ¬ j.takesWindow (none'.tree 0).n 0 280) := by
  unfold Slot.takesWindow
  decide
theorem met_ClaimRequestIsGrantedOrWaits_call :
    let held := served.modTree 0 fun x => { x with state := .held }
    let dark := served.modUpkeep 0 fun u => { u with dark := true }
    let waits := served.modCalendar 0 fun w => { w with claims := [.call { bits := 0, value := 0 }] }
    (held.tree 0).state ≠ .active ∧ (dark.tree 0).upkeep.dark = true ∧ ((rogue served).tree 0).rogue.rogue = true
      ∧ (∃ p ∈ (waits.tree 0).calendar.claims, p.handle? = none)
      ∧ (∃ j ∈ ((callGranted .claimed).tree 0).calendar.ring, j.state.unsent = true ∧ ∃ r ∈ j.reservations, r.kind = .quietCall)
      ∧ ((served.tree 0).discovery.running = false ∧ (waits.tree 0).discovery.stack = []
        ∧ ((callGranted .claimed).tree 0).discovery.call ≠ none)
      ∧ (((pausedRound served).tree 0).discovery.running = true ∧ ((pausedRound served).tree 0).discovery.call = none
        ∧ ((pausedRound served).tree 0).discovery.stack = { bits := 0, value := 0 } :: []
        ∧ ((pausedRound served).tree 0).state = .active ∧ ((pausedRound served).tree 0).upkeep.dark = false
        ∧ ((pausedRound served).tree 0).rogue.rogue = false) := by decide
theorem test_arbitration_grants_the_waiting_request :
    Claim.measure 3 ∈ (waitingClaim.tree 0).calendar.claims
      ∧ Claim.measure 3 ∉ ((waitingClaim.arbitrate 0).tree 0).calendar.claims
      ∧ (((waitingClaim.arbitrate 0).tree 0).calendar.slot? 7).map Slot.state = some .claimed := by decide
theorem met_ArbitrationWithdrawalAndCancellation :
    let window : Reservation := { Reservation.bare .quietMeasure 0 280 with handle := some 3 }
    let j : Slot := { Slot.fresh 14 with state := .filled, reservations := [window, grant] }
    let s := (withEntry (candidate none)).modSlot 0 14 fun _ => j
    ((waitingClaim.entry 3).state ≠ .free
      ∧ ∀ i ∈ (waitingClaim.tree 0).calendar.ring, i.state.unsent = true → ∀ r ∈ i.reservations,
        ¬ (r.kind = .quietMeasure ∧ r.handle = some 3))
      ∧ ((s.entry 3).state ≠ .free ∧ (s.tree 0).calendar.slot? j.cycle = some j ∧ j.state = .filled
        ∧ window ∈ j.reservations ∧ window.kind = .quietMeasure ∧ window.handle = some 3
        ∧ (∀ i ∈ (s.tree 0).calendar.ring, i ≠ j → ∀ p ∈ i.reservations, ¬ (p.kind = .quietMeasure ∧ p.handle = some 3))
        ∧ s.outQueue.length < 512 ∧ ∀ q ∈ (s.tree 0).calendar.claims, q.handle? = some 3) := by decide
theorem test_cancelled_window_leaves_the_plan :
    let window : Reservation := { Reservation.bare .quietMeasure 0 280 with handle := some 3 }
    let s := (withEntry (candidate none)).modSlot 0 14 fun k => { k with state := .filled, reservations := [window, grant] }
    ((s.dropClaim 0 3).tree 0).calendar.slot? 14 = some { Slot.fresh 14 with state := .planned, reservations := [grant] }
      ∧ (s.dropClaim 0 3).outQueue = [.quietCancel 0 14] := by decide
/-- Tree 0 with a CALL of a head on air in cycle 0, and a Split Stack. -/
def onAir (head : MarkHead) (stack : List MarkHead) : State :=
  served.modDiscovery 0 fun d =>
    { d with running := true, stack := stack, call := some { head := head, stage := .onAir 0, heldIgnored := false } }
theorem met_CallWindowResultIsJudged :
    let s := onAir { bits := 15, value := 0 } []
    let held := s.modTree 0 fun x => { x with state := .held }
    (s.tree 0).discovery.call = some { head := { bits := 15, value := 0 }, stage := .onAir 0, heldIgnored := false }
      ∧ (s.tree 0).discovery.running = true ∧ (held.tree 0).state = .held ∧ (s.tree 0).state ≠ .held
      ∧ ((s.tree 0).mayCall = true ∧ ((s.modUpkeep 0 fun u => { u with dark := true }).tree 0).mayCall = false)
      ∧ ((s.modDiscovery 0 fun d => { d with call := d.call.map fun r => { r with heldIgnored := true } }).tree
        0).discovery.call.map CallRecord.heldIgnored = some true
      ∧ (∃ b ∈ [{ helloBurst with result := .edge }], b.result = .badCheck ∨ b.result = .edge)
      ∧ (¬ ∃ b ∈ [helloBurst], b.result = .badCheck ∨ b.result = .edge)
      ∧ ((onAir { bits := 16, value := 0 } [{ bits := 1, value := 1 }]).tree 0).discovery.stack
        = { bits := 1, value := 1 } :: [] := by decide
theorem test_collision_splits :
    ((((onAir { bits := 0, value := 0 } []).callResult 0 0 [{ helloBurst with result := .edge }]).tree 0).discovery.call.map
      CallRecord.head) = some { bits := 1, value := 0 }
      ∧ (((onAir { bits := 0, value := 0 } []).callResult 0 0 [{ helloBurst with result := .edge }]).tree 0).discovery.stack
        = [{ bits := 1, value := 1 }] := by decide
theorem met_EchoSlotTakesTheLowestStart :
    ((withEntry settling).entry 3).state ≠ .free
      ∧ ((withEntry settling).tree 0).calendar.slot? 6 = some { Slot.fresh 6 with state := .sent } := by decide
theorem met_EchoSlotTakesTheLowestStart_places :
    testConfig.echoStart [] = some 0 ∧ testConfig.echoStart [Reservation.bare .grant 0 905] = none
      ∧ testConfig.echoStart [Reservation.bare .grant 0 904] = some 920 := by decide
/-- Canonical entries with a SETTLE and a MEASURE in the slot that is sent. -/
theorem met_SendFormsTheBundle_tied :
    let s := (withEntry settling).modSlot 0 6 fun k => { k with reservations := [measureWindow, settleEcho] }
    s.canonical ∧ (s.placeEchoes 0 6 (s.tree 0).echoRequests).reservationsOf 0 6 = [measureWindow, settleEcho]
      ∧ (measureWindow.kind = .quietMeasure ∧ measureWindow.handle = some 3)
      ∧ (settleEcho.kind = .echo ∧ settleEcho.purpose = some .settle ∧ settleEcho.handle = some 3) := by
  unfold State.canonical
  decide
theorem met_SendFormsTheBundle_call :
    let s := (callGranted .claimed).modDiscovery 0 fun d => { d with call := some { waitingCall with stage := .granted 6 } }
    (s.tree 0).discovery.call = some { waitingCall with stage := .granted 6 } ∧ (s.tree 0).n + 6 = 6
      ∧ ((s.sendSlot 0).tree 0).discovery.call = some { waitingCall with stage := .onAir 6 } := by decide
theorem met_SendFormsTheBundle :
    served.canonical ∧ (served.tree 0).calendar.slot? ((served.tree 0).n + 6) = some { Slot.fresh 6 with state := .sent } := by
  unfold State.canonical
  decide
theorem test_send_places_the_echo :
    let s := ((withEntry { settling with settleEchoCycle := none }).modSlot 0 6 fun _ => Slot.fresh 6).modCalendar 0 fun w =>
      { w with settleDue := [3] }
    let t := s.sendSlot 0
    ((t.tree 0).calendar.slot? 6).map Slot.state = some .sent
      ∧ ((t.tree 0).calendar.slot? 6).map Slot.reservations = some [{ settleEcho with start := 0 }]
      ∧ (t.tree 0).handover.take 12 = [0, 0, 6, 1, 1, 3, 0, 3, 0, 0, 0, 80]
      ∧ (t.entry 3).settleEchoCycle = some 6 ∧ (t.tree 0).counters.plansMissing = 1 := by decide
theorem test_accept_registers :
    after (exec (.burstReport 0 accept) (withReservation (withEntry settling) settleEcho)) (fun t =>
      ((t.entry 3).state, (t.entry 3).delay, t.outQueue))
      = some (.registered, some 150, [.roster 0 3 .registered 1]) := by decide

theorem met_ClosedCycleJudgements :
    let y : Tally := { cycle := 0, counted := true, lit := false }
    let lit : Tally := { cycle := 0, counted := true, lit := true }
    let s := served.modUpkeep 0 fun u => { u with tallies := [y] }
    let u := served.modUpkeep 0 fun u => { u with tallies := [lit], dark := true }
    let v := served.modUpkeep 0 fun u => { u with tallies := [lit] }
    (served.tree 0).rogue.rogue = false ∧ 3 ≤ (([true, true] ++ [true]).drop (2 - 7)).count true
      ∧ (((rogue served).tree 0).rogue.rogue = true ∧ ((rogue served).tree 0).rogue.sweep = none)
      ∧ ((s.tree 0).upkeep.tallies.find? (fun x => x.cycle == 0) = some y ∧ y.counted = true ∧ y.lit = false
        ∧ (s.tree 0).upkeep.dark = false)
      ∧ ((v.tree 0).upkeep.tallies.find? (fun x => x.cycle == 0) = some lit ∧ lit.counted = true ∧ lit.lit = true
        ∧ (v.tree 0).upkeep.dark = false)
      ∧ ((u.tree 0).upkeep.tallies.find? (fun x => x.cycle == 0) = some lit ∧ (u.tree 0).upkeep.dark = true) := by decide
theorem met_ClosedCycleJudgements_rows :
    let strays (n : Nat) : State := served.modRogue 0 fun r => { r with history := List.replicate n true }
    let dark (t : Tally) (run lit : Nat) : State := (pausedRound served).modUpkeep 0 fun u =>
      { u with tallies := [t], dark := true, darkRun := run, litRun := lit }
    let y : Tally := { cycle := 0, counted := true, lit := false }
    ((strays 1).tree 0).rogue.rogue = false
      ∧ (((((strays 1).tree 0).rogue.history ++ [true]).drop (1 - 7)).count true < 3)
      ∧ 3 ≤ ((((strays 2).tree 0).rogue.history ++ [true]).drop (2 - 7)).count true
      ∧ (((rogue (pausedRound served)).modRogue 0 fun r => { r with cleanRun := 15 }).tree 0).rogue.cleanRun + 1 = 16
      ∧ (0 + 1 < (served.tree 0).tuning.darkThreshold
        ∧ (served.tree 0).tuning.darkThreshold ≤ ((served.tree 0).tuning.darkThreshold - 1) + 1)
      ∧ (((dark y 0 1).tree 0).upkeep.tallies.find? (fun x => x.cycle == 0) = some y ∧ ((dark y 0 1).tree 0).upkeep.dark = true)
      ∧ (0 + 1 < 2 ∧ 2 ≤ ((dark { y with lit := true } 0 1).tree 0).upkeep.litRun + 1)
      ∧ (∀ x ∈ ((dark { y with cycle := 9 } 0 0).tree 0).upkeep.tallies, x.cycle ≠ 0)
      ∧ (((dark y 0 0).tree 0).discovery.running = true ∧ ((dark y 0 0).tree 0).discovery.call = none
        ∧ ((dark y 0 0).tree 0).discovery.stack = { bits := 0, value := 0 } :: [] ∧ ((dark y 0 0).tree 0).state = .active
        ∧ ((dark y 0 0).tree 0).rogue.rogue = false) := by decide
theorem test_third_stray_cycle_sets_the_call_aside :
    let s := (callGranted .claimed).modRogue 0 fun r => { r with history := [true, true] }
    let t := s.rogueClose 0 65535 true
    (t.tree 0).rogue.rogue = true ∧ (t.tree 0).counters.strayCycles = 1 ∧ t.eventQueue = [0x17400000, 65535]
      ∧ (t.tree 0).discovery.call = none ∧ t.outQueue = [.quietCancel 0 7] := by decide
theorem test_dark_state_comes_and_goes :
    let y : Tally := { cycle := 0, counted := true, lit := false }
    let s := served.modUpkeep 0 fun u => { u with tallies := [y], darkRun := (served.tree 0).tuning.darkThreshold - 1 }
    let u := (pausedRound served).modUpkeep 0 fun u => { u with tallies := [{ y with lit := true }], dark := true, litRun := 1 }
    (((s.upkeepClose 0 0).tree 0).upkeep.dark, (s.upkeepClose 0 0).eventQueue) = (true, [0x15400000, 0])
      ∧ (((u.upkeepClose 0 0).tree 0).upkeep.dark, (u.upkeepClose 0 0).eventQueue, (u.upkeepClose 0 0).outQueue)
        = (false, [0x16400000, 0], [.quiet 0 7 0 280]) := by decide
theorem met_ClosedCycleJudgements_dwell_first :
    let s := ((withEntry (registered.toHushed true)).enterEntry 4 7 registered).modRogue 0 fun r =>
      { r with rogue := true, cleanRun := 15, sweep := some sweep }
    ((s.tree 0).rogue.rogue = true ∧ (s.tree 0).rogue.sweep = some sweep ∧ (s.entry sweep.current).state = .hushed
        ∧ 16 ≤ (s.tree 0).rogue.cleanRun + 1 ∧ sweep.stage = .observing ∧ sweep.hushCycle = some 65500
        ∧ sweep.dwell ≤ Cycle.distance 65500 (s.tree 0).n ∧ sweep.cursor = sweep.current ∧ s.eventQueue.length + 8 ≤ 1024)
      ∧ nextRostered s 0 sweep.current 4 :=
  ⟨by decide, by decide, by decide, by decide, fun j h₁ h₂ => absurd h₁ (by show ¬ 3 < j; omega)⟩
theorem met_ClosedCycleJudgements_sweep :
    let s (clean : Nat) := (withEntry (registered.toHushed true)).modRogue 0 fun r =>
      { r with rogue := true, cleanRun := clean, sweep := some sweep }
    ((s 14).tree 0).rogue.rogue = true ∧ ((s 14).tree 0).rogue.sweep = some sweep
      ∧ ((s 14).entry sweep.current).state = .hushed ∧ ((s 14).tree 0).rogue.cleanRun + 1 < 16
      ∧ 16 ≤ ((s 15).tree 0).rogue.cleanRun + 1 ∧ (s 15).eventQueue.length + 4 ≤ 1024 := by decide
set_option maxRecDepth 20000 in
theorem test_clearing_ends_the_sweep_found :
    let s := (withEntry (registered.toHushed true)).modRogue 0 fun r =>
      { r with rogue := true, cleanRun := 15, sweep := some sweep }
    let t := s.rogueClose 0 65534 false
    (t.entry 3).sweepOwned = some false ∧ (t.tree 0).rogue.sweep = none
      ∧ t.eventQueue = [0x18400000, 0xFFFE, 0x19400003, 0x80240001] := by decide
theorem met_SendingAMessageEndsItsDuty :
    let owing (n : Nat) := withEntry { registered.toDeparting .host with owed := some { kind := .release, sends := n } }
    let hushed (n : Nat) := withEntry { registered.toHushed true with owed := some { kind := .hush, sends := n } }
    let unhushed (n : Nat) := withEntry { registered with owed := some { kind := .unhush, sends := n } }
    let sweeping (stage : SweepStage) : State := (hushed 3).modRogue 0 fun r => { r with sweep := some { sweep with stage := stage } }
    ((owing 3).entry 3).state ≠ .free ∧ ((owing 3).entry 3).mark = some mark
      ∧ (1 < 2 ∧ ((owing 2).entry 3).owed = some { kind := .release, sends := 2 })
      ∧ (((owing 1).entry 3).state ≠ .free ∧ ((owing 1).entry 3).mark = some mark
        ∧ ((owing 1).entry 3).owed = some { kind := .release, sends := 1 })
      ∧ (((hushed 2).entry 3).owed = some { kind := .hush, sends := 2 } ∧ ((hushed 1).entry 3).owed = some { kind := .hush, sends := 1 })
      ∧ (((unhushed 2).entry 3).owed = some { kind := .unhush, sends := 2 }
        ∧ ((unhushed 1).entry 3).owed = some { kind := .unhush, sends := 1 })
      ∧ (((sweeping .hushing).tree 0).rogue.sweep = some { sweep with stage := .hushing }
        ∧ ((sweeping .hushing).entry 3).sweepOwned = some true ∧ sweep.current = 3)
      ∧ ((sweeping .observing).tree 0).rogue.sweep = some sweep ∧ sweep.stage = .observing := by decide
theorem test_named_unhush_goes_first :
    let s := (withEntry { registered with owed := some { kind := .unhush, sends := 1 } }).modControl 0 fun q =>
      { q with queue := List.replicate 4 (.hush 9) ++ [.unhush 3] }
    s.chooseMessages 0 [grant]
      = ([.unhush 3, .hush 9, .hush 9, .hush 9], { queue := [.hush 9], backlog := [] }) := by decide
theorem met_SendingAMessageEndsItsDuty_wanted :
    let s := withEntry { registered with owed := some { kind := .unhush, sends := 1 } }
    (∃ r ∈ [grant], r.handle = some 3) ∧ (s.entry 3).owed.map Owed.kind = some .unhush := by decide
/-- Of five handles owing an UNHUSH the first four named are chosen; the fifth stays. -/
theorem test_precedence_pass_takes_four :
    let s : State := { served with entries := (List.range 5).map fun j =>
      (j + 1, { registered with owed := some { kind := .unhush, sends := 1 } }) }
    (s.chooseMessages 0 ([5, 4, 3, 2, 1].map fun h => Reservation.grantFor h 3000 64)).1
      = [.unhush 5, .unhush 4, .unhush 3, .unhush 2] := by decide

/-! ## Hypotheses met: the expiries -/

/-- An expiry of the discovery timer not yet judged, the timer armed or not, a round running or not. -/
def expired (armed running : Bool) : State :=
  served.modDiscovery 0 fun d => { d with expiryDue := true, armed := armed, running := running }

theorem met_DiscoveryExpiryOutcome :
    ((expired false false).tree 0).discovery.expiryDue = true ∧ ((expired false false).tree 0).discovery.armed = false
      ∧ (((expired true true).tree 0).discovery.armed = true ∧ ((expired true true).tree 0).discovery.running = true)
      ∧ (((expired true false).modTree 0 fun x => { x with state := .held }).tree 0).mayCall = false
      ∧ (((expired true false).tree 0).discovery.armed = true ∧ ((expired true false).tree 0).mayCall = true
        ∧ ((expired true false).tree 0).discovery.running = false ∧ ((expired true false).tree 0).discovery.call = none
        ∧ ((expired true false).tree 0).discovery.stack = []) := by decide
theorem test_expiry_starts_a_round :
    after (exec (.discoveryTimerExpiry 0) (expired true false)) (fun t =>
      ((t.tree 0).discovery.call.map CallRecord.stage, t.outQueue))
      = some (some (.granted 7), [.quiet 0 7 0 280]) := by decide
theorem met_CoolingAndBarExpiries :
    let old : CoolRecord := { handle := 9, released := 65504 }
    let young : CoolRecord := { handle := 8, released := 65505 }
    let s := served.modTree 0 fun x => { x with coolDown := [old, young] }
    (s.tree 0).coolDown = [old] ++ [young] ∧ (∀ r ∈ [old], 32 ≤ Cycle.distance r.released (s.tree 0).n)
      ∧ ([young].head? = some young ∧ Cycle.distance young.released (s.tree 0).n < 32) := by decide
theorem met_CoolingAndBarExpiries_bars :
    256 * 255 ≤ 256 * 255 ∧ ∀ h c, (BarRecord.mk mark .permanent).kind ≠ .timed 0 h c := ⟨le_rfl, fun _ _ h => by cases h⟩
theorem met_GraceExpiryDeparts :
    let s := withEntry { registered.toLost 0 with graceCount := some 3999 }
    let due (e : Entry) : State := (withEntry e).modUpkeep 0 fun u => { u with graceDue := [3], dark := true }
    let ended := due { registered.toLost 0 with graceCount := some 4000 }
    ((s.entry 3).state = .lost ∧ (s.entry 3).graceCount = some 3999 ∧ (s.tree 0).inWindow 3 = true ∧ s.canonical
      ∧ (s.tree 0).upkeep.dark = false)
      ∧ (ended.tree 0).upkeep.dark = true
      ∧ (3 ∈ (ended.tree 0).upkeep.graceDue ∧ (ended.entry 3).state = .lost ∧ (ended.entry 3).graceCount = some 4000
        ∧ (ended.tree 0).tuning.grace ≠ 0 ∧ (ended.tree 0).tuning.grace ≤ 4000)
      ∧ (3 ∈ ((due registered).tree 0).upkeep.graceDue ∧ ((due registered).entry 3).state = .registered) := by
  unfold State.canonical
  decide
theorem test_grace_step_finds_and_departs :
    let s := withEntry { registered.toLost 0 with graceCount := some 3999 }
    ((s.countGrace 0).tree 0).upkeep.graceDue = [3]
      ∧ after (exec (.graceExpiry 0) ((s.countGrace 0).modUpkeep 0 fun u => { u with dark := true })) (fun t => (t.entry 3).state)
        = some .departing := by decide
theorem met_DwellExpiryUnhushesTheCurrentHandle :
    let s := (withEntry (registered.toHushed true)).modRogue 0 fun r => { r with rogue := true, sweep := some sweep }
    (s.tree 0).rogue.sweep = some sweep ∧ sweep.stage = .observing ∧ sweep.cursor = sweep.current
      ∧ sweep.hushCycle = some 65500 ∧ sweep.dwell ≤ Cycle.distance 65500 (s.tree 0).n
      ∧ (Cycle.distance 65500 (65523#16) < sweep.dwell ∧ { sweep with stage := .hushing }.stage = .hushing)
      ∧ (s.running = none ∧ (3#16).toNat ≤ 511 ∧ (3#16).toNat = sweep.current ∧ s.treeOf sweep.current = some 0
        ∧ (s.entry sweep.current).state = .hushed ∧ (s.entry sweep.current).sweepOwned = some true) := by decide
theorem met_DwellExpiry_a_handle_above :
    nextRostered ((withEntry (registered.toHushed true)).enterEntry 4 7 registered) 0 3 4 :=
  ⟨by decide, by decide, by decide, fun j h₁ h₂ => absurd h₂ (by omega)⟩
theorem met_DwellExpiry_no_handle_above :
    ∀ h, 3 < h → ((withEntry (registered.toHushed true)).entry h).inRoster = false := by
  intro h hh
  rw [show (withEntry (registered.toHushed true)).entry h = Entry.free from by
    unfold withEntry State.entry State.enterEntry State.setEntry
    simp only [show ¬ (registered.toHushed true).state = .free from by decide, if_false]
    show (NumMap.get? (NumMap.set [] 3 _) h).getD _ = _
    simp only [NumMap.set, NumMap.get?]
    rw [if_neg (by omega)]
    rfl]
  rfl

/-! ## Hypotheses met: the scheduler link -/

set_option maxRecDepth 20000 in
theorem met_LinkFollowsItsTraffic :
    served.linkUp = true ∧ (State.reset.linkUp = false ∧ State.reset.eventQueue.length < 1024)
      ∧ (served.silenceTimer.isSome = true ∧ served.eventQueue.length < 1024)
      ∧ decodeFrame [3, 0, 0, 0, 0] = none := by decide
theorem met_LinkFollowsItsTraffic_full :
    1024 ≤ ({ served with eventQueue := List.replicate 1024 0 } : State).eventQueue.length
      ∧ ({ served with eventQueue := List.replicate 1024 0 } : State).silenceTimer.isSome = true := by
  constructor
  · exact List.length_replicate.ge
  · rfl
theorem met_LinkFramesHaveTheirBytes : (List.replicate 255 (PlanGrant.mk 1 0 32)).length ≤ 255 :=
  List.length_replicate.le
theorem test_sent_frames_begin :
    (LinkFrame.quiet 2 0x1234 1000 280).bytes.take 10 = [0x82, 0, 7, 2, 0x12, 0x34, 0x03, 0xE8, 0x01, 0x18]
      ∧ (LinkFrame.verdict 1 7 none [(3, .quiet)]).bytes.take 11 = [0x84, 0, 8, 1, 0, 7, 0, 0, 1, 3, 5]
      ∧ (LinkFrame.verdict 9 7 (some .tree) []).bytes.take 9 = [0x84, 0, 6, 9, 0, 7, 1, 1, 0]
      ∧ (LinkFrame.roster 0 3 .lost 5).bytes.take 8 = [0x85, 0, 5, 0, 0, 3, 2, 5] := by decide
theorem met_PlanRefusedAtPlanLevel :
    (∃ u, exec .idle served = .next u) ∧ 3 < (4#8).toNat
      ∧ ((1 : TreeId).val = (1#8).toNat ∧ (served.tree 1).state = .disabled)
      ∧ ((0 : TreeId).val = (0#8).toNat ∧ (served.tree 0).inService = true)
      ∧ (14 < Cycle.distance (served.tree 0).n 15 ∧ Cycle.distance (served.tree 0).n 15 ≠ 65535)
      ∧ (14 < Cycle.distance (served.tree 0).n 65534 ∧ Cycle.distance (served.tree 0).n 65534 ≠ 65535)
      ∧ Cycle.distance (served.tree 0).n 6 < 7 ∧ Cycle.distance (served.tree 0).n 65535 = 65535
      ∧ (7 ≤ Cycle.distance (served.tree 0).n 7 ∧ Cycle.distance (served.tree 0).n 14 ≤ 14
        ∧ 64 < (List.replicate 65 (PlanGrant.mk 1 0 32)).length) := by
  refine ⟨⟨_, rfl⟩, ?_⟩
  decide
theorem met_PlanEntersItsSlot :
    let slots (state : SlotState) := served.modSlot 0 14 fun k => { k with state := state }
    served.ringsCover ∧ (∃ u, exec .idle served = .next u) ∧ (0 : TreeId).val = (0#8).toNat
      ∧ (served.tree 0).inService = true ∧ 7 ≤ Cycle.distance (served.tree 0).n 7
      ∧ Cycle.distance (served.tree 0).n 14 ≤ 14 ∧ (List.replicate 64 (PlanGrant.mk 1 0 32)).length ≤ 64
      ∧ (served.tree 0).calendar.slot? 7 = some (Slot.fresh 7) ∧ (Slot.fresh 7).state = .opened
      ∧ (slots .claimed).ringsCover ∧ (slots .planned).ringsCover ∧ (slots .filled).ringsCover
      ∧ ((slots .claimed).tree 0).calendar.slot? 14 = some { Slot.fresh 14 with state := .claimed }
      ∧ ((slots .planned).tree 0).calendar.slot? 14 = some { Slot.fresh 14 with state := .planned }
      ∧ ((slots .filled).tree 0).calendar.slot? 14 = some { Slot.fresh 14 with state := .filled } := by
  refine ⟨?_, ⟨_, rfl⟩, ?_⟩
  · unfold State.ringsCover
    decide
  · unfold State.ringsCover
    decide
theorem test_replacement_lets_a_claim_in :
    let wide : Reservation := Reservation.grantFor 3 1000 64
    let s := (withEntry registered).modCalendar 0 fun w =>
      { w with claims := [.measure 3], ring := w.ring.map fun k => if k.cycle = 7 then { k with state := .planned, reservations := [{ wide with start := 100 }] } else { k with state := .claimed } }
    after (exec (.plan 0 7 [{ handle := 3, start := 3000, length := 64 }]) s) (fun t =>
      (((t.tree 0).calendar.slot? 7).map Slot.state, t.outQueue, (t.tree 0).calendar.claims))
      = some (some .filled, [.verdict 0 7 none [], .quiet 0 7 0 280], []) := by decide
theorem met_AcceptedGrantsObeyTheLaw :
    ([{ handle := 1, start := 0, length := 32 }] : List PlanGrant)[0]? = some { handle := 1, start := 0, length := 32 } := rfl
theorem test_grants_are_struck_in_order :
    let s := withEntry registered
    let judged (h start length : Word) := s.judgeGrant 0 (Slot.fresh 7) [grant] { handle := h, start := start, length := length }
    (judged 3 3000 31, judged 0 3000 64, judged 4 3000 64, judged 3 100 64, judged 3 3079 64, judged 3 3080 64)
      = (some .bounds, some .window, some .roster, some .segment, some .overlap, none) := by decide
theorem test_plan_is_judged :
    after (exec (.plan 0 7 [{ handle := 3, start := 3000, length := 64 }, { handle := 3, start := 3070, length := 64 }])
      (withEntry registered)) (fun t => (((t.tree 0).calendar.slot? 7).map Slot.reservations, t.outQueue))
      = some (some [grant], [.verdict 0 7 none [(1, .overlap)]]) := by decide
theorem met_OutgoingQueueAndRosterDump_queue :
    served.outQueue.length < 512
      ∧ 512 ≤ ({ served with outQueue := List.replicate 512 .syncEnd } : State).outQueue.length
      ∧ (({ served with transmitterHold := none, outQueue := [.syncEnd] } : State).transmitterHold = none
        ∧ ({ served with transmitterHold := none, outQueue := [.syncEnd] } : State).outQueue = .syncEnd :: [])
      ∧ State.reset.transmitterHold.isSome = true := by
  refine ⟨by decide, List.length_replicate.ge, ⟨rfl, rfl⟩, rfl⟩
theorem met_OutgoingQueueAndRosterDump_dump :
    let s := { withEntry registered with transmitterHold := none, dump := some { cursor := 0, mode := .rostered } }
    s.transmitterHold = none ∧ s.outQueue = [] ∧ s.dump = some { cursor := 0, mode := .rostered }
      ∧ (0 ≤ 3 ∧ 3 < 512 ∧ (s.entry 3).inRoster = true ∧ ∀ j < 3, (s.entry j).inRoster = false)
      ∧ ({ s with dump := some { cursor := 0, mode := .all } } : State).dump = some { cursor := 0, mode := .all } := by
  decide
set_option maxRecDepth 20000 in
theorem met_RosterDump_all :
    let s := { withEntry registered with transmitterHold := none, dump := some { cursor := 0, mode := .all } }
    (s.treeOf 1 = some 0 ∧ 1 ≠ (s.tree 0).config.windowBase ∧ s.treeOf 0 = some 0 ∧ 0 = (s.tree 0).config.windowBase)
      ∧ after (exec .rosterDumpStep s) (fun t => t.sending) = some (some (.roster 0 1 .removed 0))
      ∧ (s.treeOf 16 = none ∧ (s.tree 0).config.windowBase + (s.tree 0).config.windowLength = 16) := by decide
theorem met_RosterDump_without_handles : ∀ h, (served.entry h).inRoster = false := fun _ => rfl

end Sys2Proof.Tests
end

section
/-! PROOFS. The host commands on the Bar List: BAR and UNBAR (R28 to R30). -/

namespace Sys2Proof.Machine

/-! ## A mark and its three argument words (R185) -/

/-- The three words of a mark spell it again. -/
@[simp] theorem markOfWords_words_of_mark (m : Mark) :
    markOfWords (markUpper m) (markMiddle m) (markLower m) = m := by
  have hupper : markUpper m ++ markMiddle m = m.extractLsb' 16 32 :=
    BitVec.extractLsb'_append_extractLsb'_eq_extractLsb' rfl
  have hlower : m.extractLsb' 16 32 ++ markLower m = m.extractLsb' 0 48 :=
    BitVec.extractLsb'_append_extractLsb'_eq_extractLsb' rfl
  rw [markOfWords, hupper]
  exact hlower.trans BitVec.extractLsb'_eq_self

theorem invalidMark_eq_true_iff (m : Mark) : invalidMark m = true ↔ m = 0 ∨ m = BitVec.allOnes 48 := by
  rw [invalidMark, Bool.or_eq_true, beq_iff_eq, beq_iff_eq]

theorem invalidMark_eq_false {m : Mark} (h0 : m ≠ 0) (h1 : m ≠ BitVec.allOnes 48) : invalidMark m = false :=
  Bool.eq_false_iff.2 fun h => ((invalidMark_eq_true_iff m).1 h).elim h0 h1

/-! ## A command that names a mark -/

/-- The state in which a command that names a mark is judged: its code and its words stand in the mailbox (R184). -/
def State.writeMark (s : State) (code : Nat) (m : Mark) : State :=
  s.writeMailbox code (some (markUpper m)) (some (markMiddle m)) (some (markLower m)) none

@[simp] theorem State.writeMark_running (s : State) (code : Nat) (m : Mark) :
    (s.writeMark code m).running = s.running := rfl

@[simp] theorem State.writeMark_args (s : State) (code : Nat) (m : Mark) :
    (s.writeMark code m).args = markArgs s m := rfl

@[simp] theorem State.writeMark_bars (s : State) (code : Nat) (m : Mark) : (s.writeMark code m).bars = s.bars := rfl

@[simp] theorem State.writeMark_findBar (s : State) (code : Nat) (m o : Mark) :
    (s.writeMark code m).findBar o = s.findBar o := rfl

theorem exec_bar (m : Mark) (s : State) : exec (.bar m) s = .next ((s.writeMark 18 m).goWith judgeBar) := rfl

theorem exec_unbar (m : Mark) (s : State) : exec (.unbar m) s = .next ((s.writeMark 19 m).goWith judgeUnbar) := rfl

section
variable {s : State} {code : Nat} {m : Mark} {judge : Quad Word → State → Judged}

/-- A refused command changes its mailbox words and sets BUSY, with the refusal to come (R185). -/
theorem State.goWith_writeMark_refused {status : Status} (hfree : s.running = none)
    (hj : judge (markArgs s m) (s.writeMark code m) = refusedWith (s.writeMark code m) status) :
    (s.writeMark code m).goWith judge = commandDone s code (markArgs s m) status Quad.zero := by
  rw [State.goWith_free judge ((s.writeMark_running code m).trans hfree), State.runCommand, State.writeMark_args, hj]
  rfl

/-- A taken command that changes the Bar List alone leaves that list too (R185). -/
theorem State.goWith_writeMark_bars {bars : List BarRecord} {results : Quad Word} (hfree : s.running = none)
    (hj : judge (markArgs s m) (s.writeMark code m) = doneWith { s.writeMark code m with bars := bars } results) :
    (s.writeMark code m).goWith judge = commandDone { s with bars := bars } code (markArgs s m) .done results := by
  rw [State.goWith_free judge ((s.writeMark_running code m).trans hfree), State.runCommand, State.writeMark_args, hj]
  rfl

end

/-! ## The Bar List's operations (R28, R29) -/

/-- Below 32 records a new record joins at the end. -/
theorem joinBar_of_length_lt {bars : List BarRecord} (n : BarRecord) (h : bars.length < 32) :
    joinBar bars n = some (bars ++ [n]) := if_pos h

/-- At 32 records a new record joins the list that the eviction leaves. -/
theorem joinBar_of_full {bars : List BarRecord} (n : BarRecord) (h : 32 ≤ bars.length) :
    joinBar bars n = (evictTimed bars).map (· ++ [n]) := if_neg (Nat.not_lt.2 h)

/-- The record evicted is the first with the least remaining hold-off. -/
theorem evictTimed_of_least {before after : List BarRecord} {b : BarRecord} {least : Nat}
    (hb : b.holdOff? = some least) (hbefore : ∀ r ∈ before, ∀ n, r.holdOff? = some n → least < n)
    (hafter : ∀ r ∈ after, ∀ n, r.holdOff? = some n → least ≤ n) :
    evictTimed (before ++ b :: after) = some (before ++ after) := by
  have hmin : ((before ++ b :: after).filterMap BarRecord.holdOff?).min? = some least := by
    rw [List.min?_eq_some_iff]
    refine ⟨List.mem_filterMap.2 ⟨b, by simp, hb⟩, fun n hn => ?_⟩
    obtain ⟨r, hr, hrn⟩ := List.mem_filterMap.1 hn
    rcases List.mem_append.1 hr with hr | hr
    · exact (hbefore r hr n hrn).le
    · rcases List.mem_cons.1 hr with rfl | hr
      · exact (Option.some.inj (hb.symm.trans hrn)).le
      · exact hafter r hr n hrn
  have hkept : ∀ r ∈ before, ¬(r.holdOff? == some least) = true := fun r hr he =>
    (hbefore r hr least (beq_iff_eq.1 he)).false
  have herased : (before ++ b :: after).eraseP (fun r => r.holdOff? == some least) = before ++ after := by
    rw [List.eraseP_append_right _ hkept, List.eraseP_cons, hb, beq_self_eq_true, cond_true]
  rw [evictTimed, hmin]
  exact congrArg some herased

/-- Among PERMANENT records there is none to evict. -/
theorem evictTimed_of_permanent {bars : List BarRecord} (h : ∀ r ∈ bars, r.kind = .permanent) :
    evictTimed bars = none := by
  have hnone : bars.filterMap BarRecord.holdOff? = [] :=
    List.filterMap_eq_nil_iff.2 fun r hr => by rw [BarRecord.holdOff?, h r hr]
  rw [evictTimed, hnone]
  rfl

/-- A record with its kind replaced is the record of its mark with that kind. -/
theorem replaceBar_eq_map (bars : List BarRecord) (m : Mark) (kind : BarKind) :
    replaceBar bars m kind = bars.map fun r => if r.mark = m then { mark := m, kind := kind } else r := by
  refine List.map_congr_left fun r _ => ?_
  split
  · next h => rw [h]
  · rfl

/-- No record holds a mark in a list that the records of that mark have left. -/
theorem State.findBar_eq_none_of_filter {s : State} {bars : List BarRecord} {m : Mark}
    (h : s.bars = bars.filter fun b => b.mark != m) : s.findBar m = none := by
  rw [State.findBar, h, List.find?_eq_none]
  intro b hb
  simpa using (List.mem_filter.1 hb).2

/-! ## The judgement of BAR (R29), row by row, and of UNBAR (R30) -/

section
variable {a : Quad Word} {m : Mark} {s : State} (ha : markOfWords a.q0 a.q1 a.q2 = m)
include ha

theorem judgeBar_of_invalid (hm : invalidMark m = true) : judgeBar a s = refusedWith s .badArg := by
  simp only [judgeBar, ha, hm, if_true]

theorem judgeBar_of_permanent (hm : invalidMark m = false) {b : BarRecord} (hf : s.findBar m = some b)
    (hb : b.kind = .permanent) : judgeBar a s = doneWith s Quad.zero := by
  simp [judgeBar, ha, hm, hf, hb]

theorem judgeBar_of_timed (hm : invalidMark m = false) {b : BarRecord} (hf : s.findBar m = some b)
    (hb : b.kind ≠ .permanent) :
    judgeBar a s = doneWith { s with bars := replaceBar s.bars m .permanent } Quad.zero := by
  cases hk : b.kind with
  | permanent => exact absurd hk hb
  | timed => simp [judgeBar, ha, hm, hf, hk]

theorem judgeBar_of_joins (hm : invalidMark m = false) (hf : s.findBar m = none) {bars : List BarRecord}
    (hj : joinBar s.bars { mark := m, kind := .permanent } = some bars) :
    judgeBar a s = doneWith { s with bars := bars } Quad.zero := by
  simp [judgeBar, ha, hm, hf, hj]

theorem judgeBar_of_full (hm : invalidMark m = false) (hf : s.findBar m = none)
    (hj : joinBar s.bars { mark := m, kind := .permanent } = none) : judgeBar a s = refusedWith s .barFull := by
  simp [judgeBar, ha, hm, hf, hj]

theorem judgeUnbar_of_invalid (hm : invalidMark m = true) : judgeUnbar a s = refusedWith s .badArg := by
  simp only [judgeUnbar, ha, hm, if_true]

theorem judgeUnbar_of_valid (hm : invalidMark m = false) :
    judgeUnbar a s = doneWith { s with bars := s.bars.filter fun b => b.mark != m }
      (words (if (s.findBar m).isSome then 1 else 0) 0 0 0) := by
  cases hf : s.findBar m <;> simp [judgeUnbar, ha, hm, hf, firstWord, wordOf, yesNo]

end

/-! ## The two commands -/

section
variable {m : Mark} {s : State} (hfree : s.running = none)
include hfree

theorem exec_bar_of_refused {status : Status}
    (hj : judgeBar (markArgs s m) (s.writeMark 18 m) = refusedWith (s.writeMark 18 m) status) :
    exec (.bar m) s = .next (commandDone s 18 (markArgs s m) status Quad.zero) := by
  rw [exec_bar, State.goWith_writeMark_refused hfree hj]

theorem exec_bar_of_done {bars : List BarRecord}
    (hj : judgeBar (markArgs s m) (s.writeMark 18 m) = doneWith { s.writeMark 18 m with bars := bars } Quad.zero) :
    exec (.bar m) s = .next (commandDone { s with bars := bars } 18 (markArgs s m) .done Quad.zero) := by
  rw [exec_bar, State.goWith_writeMark_bars hfree hj]

end

/-- Settles O22: one judgement of BAR for each row of R29's table. -/
theorem barOutcome : Obligations.BarOutcome := by
  intro m s hfree
  have ha : markOfWords (markArgs s m).q0 (markArgs s m).q1 (markArgs s m).q2 = m := markOfWords_words_of_mark m
  refine ⟨fun hbad => ?invalid, fun h0 h1 => ?valid⟩
  case invalid =>
    exact exec_bar_of_refused hfree (judgeBar_of_invalid ha ((invalidMark_eq_true_iff m).2 hbad))
  have hm := invalidMark_eq_false h0 h1
  refine ⟨?permanent, ?timed, ?room, ?evict, ?full⟩
  case permanent =>
    intro b hf hb
    have hj := judgeBar_of_permanent (s := s.writeMark 18 m) ha hm hf hb
    exact exec_bar_of_done (bars := s.bars) hfree hj
  case timed =>
    intro b hf hb
    rw [← replaceBar_eq_map]
    have hj := judgeBar_of_timed (s := s.writeMark 18 m) ha hm hf hb
    exact exec_bar_of_done hfree hj
  case room =>
    intro hf hlen
    have hj := judgeBar_of_joins (s := s.writeMark 18 m) ha hm hf (joinBar_of_length_lt _ hlen)
    exact exec_bar_of_done hfree hj
  case evict =>
    intro before b after least hf hlen hbars hb hbefore hafter
    have hjoin : joinBar s.bars { mark := m, kind := .permanent }
        = some (before ++ after ++ [{ mark := m, kind := .permanent }]) := by
      rw [joinBar_of_full _ hlen, hbars, evictTimed_of_least hb hbefore hafter, Option.map_some]
    have hj := judgeBar_of_joins (s := s.writeMark 18 m) ha hm hf hjoin
    exact exec_bar_of_done hfree hj
  case full =>
    intro hf hlen hall
    have hjoin : joinBar s.bars { mark := m, kind := .permanent } = none := by
      rw [joinBar_of_full _ hlen, evictTimed_of_permanent hall, Option.map_none]
    exact exec_bar_of_refused hfree (judgeBar_of_full ha hm hf hjoin)

/-- Settles O23: the judgement of UNBAR, and a lookup in the list it leaves. -/
theorem unbarOutcome : Obligations.UnbarOutcome := by
  intro m s hfree
  have ha : markOfWords (markArgs s m).q0 (markArgs s m).q1 (markArgs s m).q2 = m := markOfWords_words_of_mark m
  refine ⟨fun hbad => ?invalid, fun h0 h1 => ?valid⟩
  case invalid =>
    have hj := judgeUnbar_of_invalid (s := s.writeMark 19 m) ha ((invalidMark_eq_true_iff m).2 hbad)
    rw [exec_unbar, State.goWith_writeMark_refused hfree hj]
  case valid =>
    have hj := judgeUnbar_of_valid (s := s.writeMark 19 m) ha (invalidMark_eq_false h0 h1)
    refine ⟨_, ?_, rfl, State.findBar_eq_none_of_filter rfl⟩
    rw [exec_unbar, State.goWith_writeMark_bars hfree hj, State.writeMark_bars, State.writeMark_findBar]

end Sys2Proof.Machine
end

section
/-! PROOFS. The host command UNRESERVE, and the Mark Index when an entry becomes FREE (R26, R53). -/

namespace Sys2Proof.Machine

/-! ## The Mark Index when an entry becomes FREE (R26) -/

/-- The mark of an entry that becomes FREE names no handle; the other marks name what they named. -/
theorem State.findMark_freeEntry {s : State} {h : Nat} {m : Mark} (hm : (s.entry h).mark = some m) (o : Mark) :
    (s.freeEntry h).findMark o = if o = m then none else s.findMark o := by
  have herased : (s.freeEntry h).markIndex = NumMap.erase s.markIndex m.toNat := by rw [State.freeEntry, hm]
  rw [State.findMark, State.findMark, herased, NumMap.get?_erase]
  simp only [BitVec.toNat_inj]
  split
  · exact (ite_self none).symm
  · rfl

@[simp] theorem State.modTree_findMark (s : State) (t : TreeId) (f : Tree → Tree) (m : Mark) :
    (s.modTree t f).findMark m = s.findMark m := rfl

/-! ## A command that names one word -/

/-- The state in which a command that names one word is judged: its code and that word stand in the mailbox (R184). -/
def State.writeWord (s : State) (code : Nat) (w : Word) : State := s.writeMailbox code (some w) none none none

@[simp] theorem State.writeWord_running (s : State) (code : Nat) (w : Word) :
    (s.writeWord code w).running = s.running := rfl

@[simp] theorem State.writeWord_args (s : State) (code : Nat) (w : Word) : (s.writeWord code w).args = oneArg s w := rfl

/-- A command judged while BUSY is clear leaves the state its effects leave, with its words in the mailbox and BUSY set
(R185). -/
theorem State.goWith_writeWord {s u : State} {code : Nat} {w : Word} {judge : Quad Word → State → Judged}
    {status : Status} {results : Quad Word} (hfree : s.running = none)
    (hj : judge (oneArg s w) (s.writeWord code w)
      = { state := { u with commandCode := BitVec.ofNat 16 code, args := oneArg s w }
          status := status, results := results }) :
    (s.writeWord code w).goWith judge = commandDone u code (oneArg s w) status results := by
  rw [State.goWith_free judge ((s.writeWord_running code w).trans hfree), State.runCommand, State.writeWord_args, hj]
  rfl

theorem forHandle_of_le {w : Word} (s : State) (judge : Nat → Judged) (h : w.toNat ≤ 511) :
    forHandle w s judge = judge w.toNat := if_pos (Nat.lt_succ_of_le h)

theorem forHandle_of_lt {w : Word} (s : State) (judge : Nat → Judged) (h : 511 < w.toNat) :
    forHandle w s judge = refusedWith s .badArg := if_neg (Nat.not_lt.2 h)

/-! ## What a taken UNRESERVE leaves (R53) -/

/-- The entry of a handle becomes FREE and the handle goes on top of the tree's Free Pool. -/
def State.unreserve (s : State) (t : TreeId) (h : Nat) : State :=
  (s.freeEntry h).modTree t fun x => { x with freePool := h :: x.freePool }

@[simp] theorem State.unreserve_entry (s : State) (t : TreeId) (h j : Nat) :
    (s.unreserve t h).entry j = if j = h then Entry.free else s.entry j := by
  rw [State.unreserve, State.modTree_entry, State.entry_freeEntry]

@[simp] theorem State.unreserve_tree (s : State) (t u : TreeId) (h : Nat) :
    (s.unreserve t h).tree u
      = if u = t then { s.tree t with freePool := h :: (s.tree t).freePool } else s.tree u := by
  rw [State.unreserve, State.tree_modTree, State.freeEntry_tree, State.freeEntry_tree]

theorem State.unreserve_findMark {s : State} {h : Nat} {m : Mark} (hm : (s.entry h).mark = some m) (t : TreeId)
    (o : Mark) : (s.unreserve t h).findMark o = if o = m then none else s.findMark o := by
  rw [State.unreserve, State.modTree_findMark, State.findMark_freeEntry hm]

/-! ## The judgement of UNRESERVE (R53) -/

theorem exec_unreserve (w : Word) (s : State) :
    exec (.unreserve w) s = .next ((s.writeWord 17 w).goWith judgeUnreserve) := rfl

section
variable {a : Quad Word} {s : State}

theorem judgeUnreserve_of_not_handle (h : 511 < a.q0.toNat) : judgeUnreserve a s = refusedWith s .badArg :=
  forHandle_of_lt s _ h

theorem judgeUnreserve_of_not_reserved (h : a.q0.toNat ≤ 511) (hr : (s.entry a.q0.toNat).state ≠ .reserved) :
    judgeUnreserve a s = refusedWith s .wrongEntryState := by
  rw [judgeUnreserve, forHandle_of_le s _ h]
  split
  · next hs _ => exact absurd hs hr
  · rfl

theorem judgeUnreserve_of_reserved (h : a.q0.toNat ≤ 511) (hr : (s.entry a.q0.toNat).state = .reserved) {t : TreeId}
    (ht : s.treeOf a.q0.toNat = some t) :
    judgeUnreserve a s = doneWith (s.unreserve t a.q0.toNat) Quad.zero := by
  rw [judgeUnreserve, forHandle_of_le s _ h]
  simp only [hr, ht, State.unreserve]

end

/-- Settles O21: the judgement of UNRESERVE in each case of R53, and the state that a taken one leaves. -/
theorem unreserveOutcome : Obligations.UnreserveOutcome := by
  intro w s hfree
  refine ⟨fun hw => ?notHandle, fun hw hr => ?notReserved, fun k m hw hr hm hk => ?reserved⟩
  case notHandle =>
    have hj := judgeUnreserve_of_not_handle (a := oneArg s w) (s := s.writeWord 17 w) hw
    rw [exec_unreserve, State.goWith_writeWord (u := s) hfree hj]
  case notReserved =>
    have hj := judgeUnreserve_of_not_reserved (a := oneArg s w) (s := s.writeWord 17 w) hw hr
    rw [exec_unreserve, State.goWith_writeWord (u := s) hfree hj]
  case reserved =>
    have hj := judgeUnreserve_of_reserved (a := oneArg s w) (s := s.writeWord 17 w) hw hr hk
    refine ⟨s.unreserve k w.toNat, ?done, ?entry, fun j hne => ?otherEntry, ?tree, fun v hne => ?otherTree, ?mark,
      fun o hne => ?otherMark, rfl, rfl, rfl⟩
    case done => rw [exec_unreserve, State.goWith_writeWord (u := s.unreserve k w.toNat) hfree hj]
    case entry => rw [State.unreserve_entry, if_pos rfl]
    case otherEntry => rw [State.unreserve_entry, if_neg hne]
    case tree => rw [State.unreserve_tree, if_pos rfl]
    case otherTree => rw [State.unreserve_tree, if_neg hne]
    case mark => rw [State.unreserve_findMark hm, if_pos rfl]
    case otherMark => rw [State.unreserve_findMark hm, if_neg hne]

end Sys2Proof.Machine
end

section
/-! PROOFS. What every command keeps, said once: the queue of waiting commands, the Part Lock with the configurations under
it, the trees' states, the bounds and the canonical form (R28, R42, R47, R87, R190, R192; log 1, log 29). -/

namespace Sys2Proof.Machine

/-- What a command keeps; one that `turns` may change the trees' states. -/
structure CommandFrame (turns : Bool) (s u : State) : Prop where
  queue : u.pending = s.pending
  lock : s.partLock = true → u.partLock = true
  configs : s.partLock = true → sameConfigs s u
  states : turns = false → sameTreeStates s u
  bounds : s.bounded → u.bounded
  form : s.canonical → u.canonical

/-- Two states that hold the same outside the trees, in every field that a CommandFrame speaks of. -/
structure SameStore (s u : State) : Prop where
  queue : u.pending = s.pending
  lock : u.partLock = s.partLock
  events : u.eventQueue = s.eventQueue
  half : u.half = s.half
  frames : u.outQueue = s.outQueue
  bars : u.bars = s.bars
  entries : u.entries = s.entries
  index : u.markIndex = s.markIndex

section
variable {turns : Bool} {t : TreeId} {s u w : State}

theorem SameStore.bounded (h : SameStore s u) : s.bounded → u.bounded := by
  rintro ⟨he, ho, hb, hh⟩
  exact ⟨by rwa [h.events], by rwa [h.frames], by rwa [h.bars], by rwa [h.events, h.half]⟩

theorem SameStore.canonical (h : SameStore s u) : s.canonical → u.canonical := by
  rintro ⟨he, hm, hf⟩
  exact ⟨by rwa [h.entries], by rwa [h.index], by rwa [h.entries]⟩

theorem sameConfigs_of_trees (h : u.trees = s.trees) : sameConfigs s u := fun k => by
  rw [State.tree, h, State.tree]

theorem sameTreeStates_of_trees (h : u.trees = s.trees) : sameTreeStates s u := fun k => by
  rw [State.tree, h, State.tree]

theorem CommandFrame.of_store (h : SameStore s u) (hc : s.partLock = true → sameConfigs s u)
    (hs : turns = false → sameTreeStates s u) : CommandFrame turns s u where
  queue := h.queue
  lock hl := h.lock.trans hl
  configs := hc
  states := hs
  bounds := h.bounded
  form := h.canonical

/-- The trees stay, and so does the rest of the store. -/
theorem CommandFrame.of_trees (h : SameStore s u) (ht : u.trees = s.trees) : CommandFrame turns s u :=
  .of_store h (fun _ => sameConfigs_of_trees ht) fun _ => sameTreeStates_of_trees ht

theorem CommandFrame.refl (s : State) : CommandFrame turns s s := .of_trees ⟨rfl, rfl, rfl, rfl, rfl, rfl, rfl, rfl⟩ rfl

theorem CommandFrame.trans (h : CommandFrame turns s u) (k : CommandFrame turns u w) : CommandFrame turns s w where
  queue := k.queue.trans h.queue
  lock := k.lock ∘ h.lock
  configs hl v := (k.configs (h.lock hl) v).trans (h.configs hl v)
  states ht v := (k.states ht v).trans (h.states ht v)
  bounds := k.bounds ∘ h.bounds
  form := k.form ∘ h.form

theorem sameConfigs_of_engine (h : EngineFrame t s u) : sameConfigs s u := fun v => by
  by_cases hv : v = t
  · rw [hv, h.tree.config]
  · rw [h.others v hv]

theorem sameTreeStates_of_engine (h : EngineFrame t s u) : sameTreeStates s u := fun v => by
  by_cases hv : v = t
  · rw [hv, h.tree.state]
  · rw [h.others v hv]

/-- The engines' frame bounds the queues: records only join, so an empty Event Queue was empty with its half flag UPPER. -/
theorem bounded_of_engine (h : EngineFrame t s u) : s.bounded → u.bounded := by
  rintro ⟨he, ho, hb, hh⟩
  refine ⟨h.eventBound he, h.frameBound ho, h.barBound hb, fun hu => ?_⟩
  obtain ⟨more, hm⟩ := h.events
  have hhalf : u.half = s.half := congrArg PortPart.half h.port
  rw [hhalf]
  exact hh (List.append_eq_nil_iff.1 (hm.symm.trans hu)).1

theorem CommandFrame.of_engine (h : EngineFrame t s u) : CommandFrame turns s u where
  queue := congrArg PortPart.pending h.port
  lock hl := (congrArg PortPart.partLock h.port).trans hl
  configs _ := sameConfigs_of_engine h
  states _ := sameTreeStates_of_engine h
  bounds := bounded_of_engine h
  form := fun ⟨he, hm, hf⟩ => ⟨h.entriesWf he, h.indexWf hm, h.listed hf⟩

theorem CommandFrame.of_engineOnly (h : engineOnly s u) : CommandFrame turns s u := by
  obtain rfl | ⟨t, -, h⟩ := h
  · exact .refl _
  · exact .of_engine h

/-- One tree alone changes, its configuration only without the Part Lock and its state only where the command turns trees. -/
theorem CommandFrame.of_modTree {f : Tree → Tree} (hc : s.partLock = true → (f (s.tree t)).config = (s.tree t).config)
    (hs : turns = false → (f (s.tree t)).state = (s.tree t).state) : CommandFrame turns s (s.modTree t f) := by
  refine .of_store ⟨rfl, rfl, rfl, rfl, rfl, rfl, rfl, rfl⟩ (fun hl v => ?_) fun ht v => ?_
  · rw [State.tree_modTree]
    split
    · next hv => rw [hv]; exact hc hl
    · rfl
  · rw [State.tree_modTree]
    split
    · next hv => rw [hv]; exact hs ht
    · rfl

/-- The Bar List alone changes, and stays within its bound. -/
theorem CommandFrame.of_bars {bars : List BarRecord}
    (hb : s.bars.length ≤ Config.barCapacity → bars.length ≤ Config.barCapacity) :
    CommandFrame turns s { s with bars := bars } where
  queue := rfl
  lock := id
  configs _ _ := rfl
  states _ _ := rfl
  bounds := fun ⟨he, ho, hl, hh⟩ => ⟨he, ho, hb hl, hh⟩
  form := id

theorem CommandFrame.writeEvent (kind : EventKind) (k : TreeId) (h : Nat) (extra : List EventWord) :
    CommandFrame turns s (s.writeEvent kind k h extra) :=
  .of_engine (t := 0) ((EngineFrame.refl 0 s).writeEvent kind k h extra)

theorem CommandFrame.makeFrame (f : LinkFrame) : CommandFrame turns s (s.makeFrame f) :=
  .of_engine (t := 0) ((EngineFrame.refl 0 s).makeFrame f)

theorem CommandFrame.foldl {α : Type} (f : State → α → State) (hf : ∀ u a, CommandFrame turns u (f u a)) (l : List α)
    (s : State) : CommandFrame turns s (l.foldl f s) := by
  induction l generalizing s with
  | nil => exact .refl s
  | cons a l ih => exact (hf s a).trans (ih _)

end

/-! ## The judgements of the host commands -/

section
variable {turns : Bool} (a : Quad Word) (s : State)

theorem forTree_keeps {w : Word} {judge : TreeId → Judged} (h : ∀ t, CommandFrame turns s (judge t).state) :
    CommandFrame turns s (forTree w s judge).state := forTree_state (.refl s) h

theorem judgeTreeConfig_keeps : CommandFrame turns s (judgeTreeConfig a s).state := by
  unfold judgeTreeConfig judgeTreeItem
  split
  · next t item _ _ =>
    dsimp only
    split
    · exact .refl s
    · next hl =>
      split
      · exact .refl s
      · split
        · exact .refl s
        · next d _ =>
          exact .of_modTree (t := t) (f := fun x => { x with config := d }) (fun hl' => absurd hl' hl) fun _ => rfl
  · exact .refl s

theorem Tree.tune_config (x : Tree) (p : TuneParam) (v : Nat) : (x.tune p v).config = x.config := by
  unfold Tree.tune; split <;> rfl

theorem Tree.tune_state (x : Tree) (p : TuneParam) (v : Nat) : (x.tune p v).state = x.state := by
  unfold Tree.tune; split <;> rfl

theorem judgeTreeTune_keeps : CommandFrame turns s (judgeTreeTune a s).state := by
  unfold judgeTreeTune
  split
  · next t p _ _ =>
    split
    · exact .of_modTree (t := t) (f := fun x => x.tune p a.q2.toNat) (fun _ => Tree.tune_config _ _ _) fun _ =>
        Tree.tune_state _ _ _
    · exact .refl s
  · exact .refl s

theorem judgeEnable_keeps : CommandFrame true s (judgeEnable a s).state := by
  refine forTree_keeps s fun t => ?_
  unfold judgeEnableOf
  dsimp only
  split
  · exact .refl s
  · split
    · exact .refl s
    · split
      · exact .refl s
      · split
        · exact .refl s
        · split
          · exact .refl s
          · exact .of_modTree (t := t) (fun _ => rfl) (nofun : true = false → _)

theorem State.turn_keeps (t : TreeId) (state : TreeState) :
    CommandFrame true s (s.modTree t fun x => { x with state := state }) := .of_modTree (fun _ => rfl) nofun

theorem judgeHold_keeps : CommandFrame true s (judgeHold a s).state := by
  refine forTree_keeps s fun t => ?_
  split
  · exact (State.turn_keeps s t .held).trans (.of_engine ((EngineFrame.refl t _).pauseCall))
  · exact .refl s

theorem judgeResume_keeps : CommandFrame true s (judgeResume a s).state := by
  refine forTree_keeps s fun t => ?_
  split
  · exact (State.turn_keeps s t .active).trans (.of_engine ((EngineFrame.refl t _).tryCall))
  · exact .refl s

/-- A filtered map keeps its rising keys. -/
theorem NumMap.wf_filter {α : Type} (m : NumMap α) (p : Nat × α → Bool) (h : NumMap.wf m = true) :
    NumMap.wf (m.filter p : NumMap α) = true := by
  simp only [NumMap.wf, decide_eq_true_eq, List.sortedLT_iff_pairwise] at h ⊢
  exact h.sublist (List.filter_sublist.map _)

/-- The tables of a torn-down tree lose records and gain none. -/
theorem CommandFrame.of_filters (pe : Nat × Entry → Bool) (pm : Nat × Nat → Bool) (pb : BarRecord → Bool) :
    CommandFrame turns s
      { s with entries := s.entries.filter pe, markIndex := s.markIndex.filter pm, bars := s.bars.filter pb } where
  queue := rfl
  lock := id
  configs _ _ := rfl
  states _ _ := rfl
  bounds := fun ⟨he, ho, hb, hh⟩ => ⟨he, ho, (List.length_filter_le _ _).trans hb, hh⟩
  form := fun ⟨he, hm, hf⟩ => ⟨NumMap.wf_filter _ _ he, NumMap.wf_filter _ _ hm, fun x hx => hf x (List.mem_filter.1 hx).1⟩

theorem State.disableTree_keeps (t : TreeId) : CommandFrame true s (s.disableTree t) := by
  have htree : CommandFrame true s (s.modTree t Tree.disable) := .of_modTree (fun _ => rfl) nofun
  exact ((htree.trans (.of_filters _ _ _ _)).trans (.foldl _ (fun _ _ => .makeFrame _) _ _)).trans (.makeFrame _)

theorem judgeDisable_keeps : CommandFrame true s (judgeDisable a s).state := by
  refine forTree_keeps s fun t => ?_
  split
  · exact s.disableTree_keeps t
  · exact .refl s

theorem judgeBar_keeps : CommandFrame turns s (judgeBar a s).state := by
  obtain ⟨bars, h, hb⟩ := judgeBar_frame a s
  rw [h]
  exact .of_bars hb

theorem judgeUnbar_keeps : CommandFrame turns s (judgeUnbar a s).state := by
  obtain ⟨bars, h, hb⟩ := judgeUnbar_frame a s
  rw [h]
  exact .of_bars hb

theorem judgeReadCounters_keeps : CommandFrame turns s (judgeReadCounters a s).state := by
  rcases judgeReadCounters_state a s with ⟨t, f, h⟩ | ⟨a, b, c, h⟩
  · rw [h]
    exact .of_modTree (fun _ => rfl) fun _ => rfl
  · rw [h]
    exact .of_trees ⟨rfl, rfl, rfl, rfl, rfl, rfl, rfl, rfl⟩ rfl

theorem judgeSweepAbort_keeps : CommandFrame turns s (judgeSweepAbort a s).state := by
  obtain h | ⟨t, -, h⟩ := judgeSweepAbort_frame a s
  · rw [h]; exact .refl s
  · exact .of_engine h

theorem judgeLock_keeps : CommandFrame turns s (judgeLock a s).state where
  queue := rfl
  lock _ := rfl
  configs _ _ := rfl
  states _ _ := rfl
  bounds := id
  form := id

theorem State.bounded_reset : State.reset.bounded := ⟨Nat.zero_le _, Nat.zero_le _, Nat.zero_le _, fun _ => rfl⟩

theorem NumMap.wf_nil {α : Type} : NumMap.wf ([] : NumMap α) = true := by
  simp [NumMap.wf, List.sortedLT_iff_pairwise]

theorem State.canonical_reset : State.reset.canonical :=
  ⟨NumMap.wf_nil, NumMap.wf_nil, fun _ h => absurd h List.not_mem_nil⟩

theorem State.softReset_keeps : CommandFrame true s s.softReset where
  queue := rfl
  lock := id
  configs _ k := by rw [State.softReset_tree]; rfl
  states := nofun
  bounds := fun ⟨_, _, hb, _⟩ => ⟨Nat.zero_le _, Nat.zero_le _, (List.length_filter_le _ _).trans hb, fun _ => rfl⟩
  form _ := State.canonical_reset

theorem State.dropChoice_keeps : CommandFrame turns s s.dropChoice := by
  unfold State.dropChoice
  split <;> exact .of_trees ⟨rfl, rfl, rfl, rfl, rfl, rfl, rfl, rfl⟩ rfl

theorem judgeSoftReset_keeps : CommandFrame true s (judgeSoftReset a s).state := by
  unfold judgeSoftReset
  split
  · exact s.dropChoice_keeps.trans s.dropChoice.softReset_keeps
  · exact s.dropChoice_keeps

/-- Every judgement a code names stays within the frame of a command that may turn trees. -/
theorem judgeOf_keeps (code : Word) : CommandFrame true s (judgeOf code a s).state := by
  have all : ∀ judge, judge = judgeOf code → CommandFrame true s (judge a s).state := by
    intro judge hj
    unfold judgeOf at hj
    split at hj <;> subst hj
    · exact judgeTreeConfig_keeps a s
    · exact judgeTreeTune_keeps a s
    · exact judgeEnable_keeps a s
    · exact judgeHold_keeps a s
    · exact judgeResume_keeps a s
    · exact judgeDisable_keeps a s
    · exact .of_engineOnly (judgeReserve_frame a s)
    · exact .of_engineOnly (judgeUnreserve_frame a s)
    · exact judgeBar_keeps a s
    · exact judgeUnbar_keeps a s
    · exact .of_engineOnly (judgeRelease_frame a s)
    · exact .of_engineOnly (judgeHush_frame a s)
    · exact .of_engineOnly (judgeUnhush_frame a s)
    · exact .of_engineOnly (judgeForceRange_frame a s)
    · rw [judgeReadEntry_state]; exact .refl s
    · rw [judgeFindMark_state]; exact .refl s
    · rw [judgeReadSlot_state]; exact .refl s
    · exact judgeReadCounters_keeps a s
    · exact .of_engineOnly (judgeSweepStart_frame a s)
    · exact judgeSweepAbort_keeps a s
    · exact judgeLock_keeps a s
    · exact judgeSoftReset_keeps a s
    · exact .refl s
  exact all _ rfl

end

/-! ## The mailbox, the bus and the link -/

section
variable {turns : Bool} {s : State}

/-- A GO of a command keeps what its judgement keeps, whatever the mailbox words just written. -/
theorem State.goWith_keeps {judge : Quad Word → State → Judged} {code : Word} {args : Quad Word}
    (h : ∀ a w, CommandFrame turns w (judge a w).state) :
    CommandFrame turns s (State.goWith { s with commandCode := code, args := args } judge) := by
  have hw : CommandFrame turns s { s with commandCode := code, args := args } :=
    .of_trees ⟨rfl, rfl, rfl, rfl, rfl, rfl, rfl, rfl⟩ rfl
  refine hw.trans ?_
  unfold State.goWith
  split
  · exact .of_trees ⟨rfl, rfl, rfl, rfl, rfl, rfl, rfl, rfl⟩ rfl
  · exact (h _ _).trans (.of_trees ⟨rfl, rfl, rfl, rfl, rfl, rfl, rfl, rfl⟩ rfl)

theorem State.busWrite_keeps (address : Byte) (v : Word) : CommandFrame true s (s.busWrite address v) := by
  unfold State.busWrite
  split
  case h_3 | h_4 | h_5 | h_6 | h_7 | h_8 | h_9 | h_10 => exact .of_modTree (fun _ => rfl) nofun
  case h_16 =>
    split
    · exact State.goWith_keeps fun a w => judgeOf_keeps a w _
    · exact .refl s
  all_goals exact .of_trees ⟨rfl, rfl, rfl, rfl, rfl, rfl, rfl, rfl⟩ rfl

/-- The link state alone changes, and perhaps LINK_CHG. -/
theorem CommandFrame.of_link (up : Bool) (timer : Option Nat) (i : PartIndications) :
    CommandFrame turns s { s with linkUp := up, silenceTimer := timer, indications := i } :=
  .of_trees ⟨rfl, rfl, rfl, rfl, rfl, rfl, rfl, rfl⟩ rfl

theorem State.linkTraffic_keeps (s : State) : CommandFrame turns s s.linkTraffic := by
  unfold State.linkTraffic
  split
  · exact .of_link _ _ _
  · exact ((CommandFrame.of_link true s.silenceTimer _).trans (.writeEvent _ _ _ _)).trans (.of_link _ _ _)

theorem State.notePlanLate_keeps (s : State) (tree : Byte) (cycle : Cycle) (reason : PlanReason) :
    CommandFrame turns s (s.notePlanLate tree cycle reason) := by
  unfold State.notePlanLate
  split
  · next t _ =>
    split
    · exact .of_engine (t := t) (by simp)
    · exact .refl s
  · exact .refl s

theorem State.acceptPlan_keeps (s : State) (t : TreeId) (slot : Slot) (grants : List PlanGrant) :
    CommandFrame turns s (s.acceptPlan t slot grants) := by
  refine .of_engine (t := t) ?_
  have hanswer := ((EngineFrame.refl t s).countBy .grantsStruck (s.judgeGrants t slot 0 [] grants).2.length).modSlot
    slot.cycle (fun k => k.takePlan (s.judgeGrants t slot 0 [] grants).1) |>.makeFrame
    (.verdict (BitVec.ofNat 8 t.val) slot.cycle none (s.judgeGrants t slot 0 [] grants).2)
  unfold State.acceptPlan
  dsimp only
  split
  · exact hanswer.arbitrate
  · exact hanswer

theorem State.takePlan_keeps (s : State) (tree : Byte) (cycle : Word) (grants : List PlanGrant) :
    CommandFrame turns s (s.takePlan tree cycle grants) := by
  unfold State.takePlan
  split
  · exact (s.notePlanLate_keeps _ _ _).trans (.makeFrame _)
  · split
    · exact s.acceptPlan_keeps _ _ _
    · exact .refl s

theorem State.startDump_keeps (s : State) : CommandFrame turns s s.startDump :=
  .of_trees ⟨rfl, rfl, rfl, rfl, rfl, rfl, rfl, rfl⟩ rfl

theorem State.dumpStep_keeps (s : State) (d : RosterDump) : CommandFrame turns s (s.dumpStep d) := by
  unfold State.dumpStep
  split <;> exact .of_trees ⟨rfl, rfl, rfl, rfl, rfl, rfl, rfl, rfl⟩ rfl

/-- A read of the port takes words from the queue; the half flag is UPPER again when a word has left. -/
theorem State.afterPortRead_keeps (s : State) : CommandFrame turns s s.afterPortRead := by
  unfold State.afterPortRead
  split
  · exact .refl s
  · next w rest he _ =>
    refine ⟨rfl, id, fun _ _ => rfl, fun _ _ => rfl, ?_, id⟩
    rintro ⟨hlen, ho, hb, -⟩
    exact ⟨hlen, ho, hb, fun hnil => absurd (he.symm.trans hnil) (List.cons_ne_nil _ _)⟩
  · next w rest he _ =>
    refine ⟨rfl, id, fun _ _ => rfl, fun _ _ => rfl, ?_, id⟩
    rintro ⟨hlen, ho, hb, -⟩
    rw [he, List.length_cons] at hlen
    exact ⟨Nat.le_of_succ_le hlen, ho, hb, fun _ => rfl⟩

/-! ## The boundary and the reports -/

theorem State.advance_keeps (s : State) (t : TreeId) : CommandFrame turns s (s.advance t) :=
  .of_modTree (fun _ => rfl) fun _ => rfl

theorem State.countBars_keeps (s : State) (t : TreeId) : CommandFrame turns s (s.countBars t) :=
  .of_bars fun hb => (List.length_map _).trans_le hb

theorem State.boundary_keeps (s : State) (t : TreeId) : CommandFrame turns s (s.boundary t) := by
  obtain ⟨c, k, hck⟩ := s.boundaryOrder_frame
  obtain ⟨u, hleft, hacts⟩ := s.boundaryOrder.2.boundaryUnder_frame t s.boundaryOrder.1
  have horder : CommandFrame turns s s.boundaryOrder.2 := by
    rw [hck]
    exact .of_trees ⟨rfl, rfl, rfl, rfl, rfl, rfl, rfl, rfl⟩ rfl
  exact (((horder.trans (.of_engine hleft)).trans (u.advance_keeps t)).trans (State.countBars_keeps _ t)).trans
    (.of_engine hacts)

theorem State.reportOnPort_keeps (s : State) (t : TreeId) (record : ReportRecord) :
    ∃ u, execBurstReport t record s = .next u ∧ CommandFrame turns s u := by
  refine ⟨_, rfl, ?_⟩
  split
  · exact .refl s
  · refine .of_engine (t := t) ?_
    split
    · simp
    · split <;> simp

end

/-! ## Every command -/

theorem State.hardwareReset_bounded (s : State) : s.hardwareReset.bounded := State.bounded_reset
theorem State.hardwareReset_canonical (s : State) : s.hardwareReset.canonical := State.canonical_reset

theorem execInvalidFrame_keeps (bytes : List Byte) (s : State) :
    ∃ u, execInvalidFrame bytes s = .next u ∧ CommandFrame false s u := by
  unfold execInvalidFrame
  split
  · exact ⟨_, rfl, .of_trees ⟨rfl, rfl, rfl, rfl, rfl, rfl, rfl, rfl⟩ rfl⟩
  · exact ⟨_, rfl, s.linkTraffic_keeps.trans (State.takePlan_keeps _ _ _ _)⟩
  · exact ⟨_, rfl, s.linkTraffic_keeps.trans (State.startDump_keeps _)⟩
  · exact ⟨_, rfl, s.linkTraffic_keeps⟩

theorem execBusyClears_keeps (s : State) : ∃ u, execBusyClears s = .next u ∧ CommandFrame true s u := by
  unfold execBusyClears
  split
  · exact ⟨_, rfl, .refl s⟩
  · refine ⟨_, rfl, CommandFrame.trans (u := ite _ s.softReset s) ?_
      (.of_trees ⟨rfl, rfl, rfl, rfl, rfl, rfl, rfl, rfl⟩ rfl)⟩
    split
    · exact s.softReset_keeps
    · exact .refl s

/-- Every command but a hardware reset answers a next state within its frame. -/
theorem exec_keeps (c : Instr) (s : State) (hc : c ≠ .hardwareReset) :
    ∃ u, exec c s = .next u ∧ CommandFrame c.mayChangeTreeState s u := by
  cases c
  case hardwareReset => exact absurd rfl hc
  case treeConfig => exact ⟨_, rfl, State.goWith_keeps judgeTreeConfig_keeps⟩
  case treeTune => exact ⟨_, rfl, State.goWith_keeps judgeTreeTune_keeps⟩
  case enable => exact ⟨_, rfl, State.goWith_keeps judgeEnable_keeps⟩
  case hold => exact ⟨_, rfl, State.goWith_keeps judgeHold_keeps⟩
  case resume => exact ⟨_, rfl, State.goWith_keeps judgeResume_keeps⟩
  case disable => exact ⟨_, rfl, State.goWith_keeps judgeDisable_keeps⟩
  case reserve => exact ⟨_, rfl, State.goWith_keeps fun a w => .of_engineOnly (judgeReserve_frame a w)⟩
  case unreserve => exact ⟨_, rfl, State.goWith_keeps fun a w => .of_engineOnly (judgeUnreserve_frame a w)⟩
  case bar => exact ⟨_, rfl, State.goWith_keeps judgeBar_keeps⟩
  case unbar => exact ⟨_, rfl, State.goWith_keeps judgeUnbar_keeps⟩
  case release => exact ⟨_, rfl, State.goWith_keeps fun a w => .of_engineOnly (judgeRelease_frame a w)⟩
  case hush => exact ⟨_, rfl, State.goWith_keeps fun a w => .of_engineOnly (judgeHush_frame a w)⟩
  case unhush => exact ⟨_, rfl, State.goWith_keeps fun a w => .of_engineOnly (judgeUnhush_frame a w)⟩
  case forceRange => exact ⟨_, rfl, State.goWith_keeps fun a w => .of_engineOnly (judgeForceRange_frame a w)⟩
  case readEntry => exact ⟨_, rfl, State.goWith_keeps fun a w => by rw [judgeReadEntry_state]; exact .refl w⟩
  case findMark => exact ⟨_, rfl, State.goWith_keeps fun a w => by rw [judgeFindMark_state]; exact .refl w⟩
  case readSlot => exact ⟨_, rfl, State.goWith_keeps fun a w => by rw [judgeReadSlot_state]; exact .refl w⟩
  case readCounters => exact ⟨_, rfl, State.goWith_keeps judgeReadCounters_keeps⟩
  case sweepStart => exact ⟨_, rfl, State.goWith_keeps fun a w => .of_engineOnly (judgeSweepStart_frame a w)⟩
  case sweepAbort => exact ⟨_, rfl, State.goWith_keeps judgeSweepAbort_keeps⟩
  case lock => exact ⟨_, rfl, State.goWith_keeps judgeLock_keeps⟩
  case softReset => exact ⟨_, rfl, State.goWith_keeps judgeSoftReset_keeps⟩
  case badCode => exact ⟨_, rfl, State.goWith_keeps fun a w => judgeOf_keeps a w _⟩
  case goWhileBusy => exact ⟨_, rfl, State.goWith_keeps fun a w => judgeOf_keeps a w _⟩
  case indicationClearWrite => exact ⟨_, rfl, State.busWrite_keeps _ _⟩
  case enableRegisterWrite => exact ⟨_, rfl, State.busWrite_keeps _ _⟩
  case registerWrite => exact ⟨_, rfl, State.busWrite_keeps _ _⟩
  case eventQueueRead =>
    exact ⟨_, rfl, s.afterPortRead_keeps.trans (.of_trees ⟨rfl, rfl, rfl, rfl, rfl, rfl, rfl, rfl⟩ rfl)⟩
  case lostRecordCountRead => exact ⟨_, rfl, .of_trees ⟨rfl, rfl, rfl, rfl, rfl, rfl, rfl, rfl⟩ rfl⟩
  case boundary t =>
    refine ⟨_, rfl, ?_⟩
    split
    · exact s.boundary_keeps t
    · exact .refl s
  case burstReport t record => exact s.reportOnPort_keeps t record
  case plan => exact ⟨_, rfl, s.linkTraffic_keeps.trans (State.takePlan_keeps _ _ _ _)⟩
  case sync => exact ⟨_, rfl, s.linkTraffic_keeps.trans (State.startDump_keeps _)⟩
  case idle => exact ⟨_, rfl, s.linkTraffic_keeps⟩
  case invalidFrame bytes => exact execInvalidFrame_keeps bytes s
  case silenceTimerExpiry =>
    refine ⟨_, rfl, ?_⟩
    split
    · exact (CommandFrame.of_link false none _).trans (.writeEvent _ _ _ _)
    · exact .refl s
  case transmitterHoldEnd => exact ⟨_, rfl, .of_trees ⟨rfl, rfl, rfl, rfl, rfl, rfl, rfl, rfl⟩ rfl⟩
  case frameTransmit =>
    refine ⟨_, rfl, ?_⟩
    split
    · next f rest _ he =>
      refine ⟨rfl, id, fun _ _ => rfl, fun _ _ => rfl, ?_, id⟩
      rintro ⟨hlen, ho, hb, hh⟩
      rw [he, List.length_cons] at ho
      exact ⟨hlen, Nat.le_of_succ_le ho, hb, hh⟩
    · exact .of_trees ⟨rfl, rfl, rfl, rfl, rfl, rfl, rfl, rfl⟩ rfl
    · exact .refl s
  case rosterDumpStep =>
    refine ⟨_, rfl, ?_⟩
    split
    · exact s.dumpStep_keeps _
    · exact .refl s
  case discoveryTimerExpiry t => exact ⟨_, rfl, .of_engine (t := t) (by simp)⟩
  case coolingExpiry t => exact ⟨_, rfl, .of_engine (t := t) (by simp)⟩
  case timedBarExpiry t => exact ⟨_, rfl, .of_engine (t := t) (by simp)⟩
  case graceExpiry t => exact ⟨_, rfl, s.dropChoice_keeps.trans (.of_engine (t := t) (by simp))⟩
  case dwellExpiry t => exact ⟨_, rfl, .of_engine (t := t) (by simp)⟩
  case busyClears => exact execBusyClears_keeps s
  case bundleByteTaken t => exact ⟨_, rfl, .of_modTree (fun _ => rfl) fun _ => rfl⟩

/-! ## What every step keeps -/

/-- An invariant that every command keeps, a hardware reset included, is kept by every step: the queue of waiting commands
is no part of it. -/
theorem step_keeps {P : State → Prop} (hq : ∀ s rest, P s → P { s with pending := rest })
    (he : ∀ c s u, P s → exec c s = .next u → P u) (s t : State) (hs : P s) (h : step s = .next t) : P t := by
  unfold step at h
  split at h
  · exact Host.Outcome.next.inj h ▸ hs
  · exact he _ _ _ (hq _ _ hs) h

/-- The state a command other than a hardware reset answers is the one within its frame. -/
theorem exec_frame {c : Instr} {s u : State} (hc : c ≠ .hardwareReset) (h : exec c s = .next u) :
    CommandFrame c.mayChangeTreeState s u := by
  obtain ⟨v, hv, hf⟩ := exec_keeps c s hc
  exact Host.Outcome.next.inj (hv.symm.trans h) ▸ hf

/-- Settles O7: every command keeps the bounds. -/
theorem everyStepKeepsTheBounds : Obligations.EveryStepKeepsTheBounds := by
  refine step_keeps (fun _ _ => id) fun c s u hs h => ?_
  by_cases hc : c = .hardwareReset
  · subst hc
    exact Host.Outcome.next.inj h ▸ s.hardwareReset_bounded
  · exact (exec_frame hc h).bounds hs

/-- Settles O8: every command keeps the canonical form. -/
theorem everyStepKeepsTheCanonicalForm : Obligations.EveryStepKeepsTheCanonicalForm := by
  refine step_keeps (fun _ _ => id) fun c s u hs h => ?_
  by_cases hc : c = .hardwareReset
  · subst hc
    exact Host.Outcome.next.inj h ▸ s.hardwareReset_canonical
  · exact (exec_frame hc h).form hs

theorem State.tree_reset (k : TreeId) : State.reset.tree k = Tree.reset (128 * k.val) := by
  fin_cases k <;> rfl

theorem State.disabledIdle_reset : State.reset.disabledIdle := fun k _ => by
  rw [State.tree_reset]
  exact ⟨rfl, rfl, rfl, rfl, rfl, rfl, rfl, rfl⟩

theorem State.ringsCover_reset : State.reset.ringsCover := fun k hk => by
  rw [State.tree_reset] at hk
  exact absurd hk Bool.false_ne_true

/-- A tree that a command leaves DISABLED is empty, when a DISABLED one was before it. -/
theorem TreeStep.keeps_idle {x y : Tree} (h : TreeStep x y) (hx : x.state = .disabled → x.idle) (hy : y.state = .disabled) :
    y.idle := by
  cases h with
  | off hd _ hi => exact hi (hx hd)
  | down _ hi _ => exact hi
  | up => exact absurd hy TreeState.noConfusion
  | run _ hs => exact absurd hy ((Tree.inService_iff y).1 hs)
  | tick hs he => exact absurd (he.symm.trans hy) ((Tree.inService_iff x).1 hs)

theorem ringAtEnable_cycles : ringAtEnable.map Slot.cycle = ringCycles 0 := by decide

/-- A tree that a command leaves in service has its ring on its cycles, when one in service had it before. -/
theorem TreeStep.keeps_ring {x y : Tree} (h : TreeStep x y) (hx : x.inService = true → x.cycles = ringCycles x.n)
    (hy : y.inService = true) : y.cycles = ringCycles y.n := by
  cases h with
  | off _ hd => exact absurd hd ((Tree.inService_iff y).1 hy)
  | down hd => exact absurd hd ((Tree.inService_iff y).1 hy)
  | up => exact ringAtEnable_cycles
  | run hs _ _ hn hc => rw [hc, hn]; exact hx hs
  | tick hs _ _ _ hc => exact hc (hx hs)

/-- Settles O9: in each way a command can change a tree, a DISABLED one stays empty. -/
theorem everyStepKeepsDisabledTreesIdle : Obligations.EveryStepKeepsDisabledTreesIdle := by
  refine step_keeps (fun _ _ => id) fun c s u hs h k => ?_
  by_cases hc : c = .hardwareReset
  · subst hc
    exact Host.Outcome.next.inj h ▸ State.disabledIdle_reset k
  · exact (exec_trees c s u hc h k).keeps_idle (hs k)

/-- Settles O10: in each way a command can change a tree, a ring in service stays on its cycles. -/
theorem everyStepKeepsTheRings : Obligations.EveryStepKeepsTheRings := by
  refine step_keeps (fun _ _ => id) fun c s u hs h k => ?_
  by_cases hc : c = .hardwareReset
  · subst hc
    exact Host.Outcome.next.inj h ▸ State.ringsCover_reset k
  · exact (exec_trees c s u hc h k).keeps_ring (hs k)

/-- Settles O11: the reset state holds nothing that an invariant speaks of. -/
theorem resetMeetsTheInvariants : Obligations.ResetMeetsTheInvariants :=
  ⟨State.bounded_reset, State.canonical_reset, State.disabledIdle_reset, State.ringsCover_reset⟩

/-- Settles O2: every command's frame keeps the queue, and a hardware reset keeps it too. -/
theorem everyCommandCompletesAndKeepsTheQueue : Obligations.EveryCommandCompletesAndKeepsTheQueue := by
  intro c s
  by_cases hc : c = .hardwareReset
  · subst hc
    exact ⟨s.hardwareReset, rfl, rfl⟩
  · obtain ⟨u, hu, hf⟩ := exec_keeps c s hc
    exact ⟨u, hu, hf.queue⟩

/-- Settles O6: a command that turns no tree keeps the states. -/
theorem treeStateChangesOnlyByItsCommands : Obligations.TreeStateChangesOnlyByItsCommands := by
  intro c s t hturns h
  have hc : c ≠ .hardwareReset := by rintro rfl; exact Bool.noConfusion hturns
  exact (exec_frame hc h).states hturns

theorem exec_lock (s : State) (hfree : s.running = none) :
    exec .lock s = .next (commandDone { s with partLock := true } 48 s.args .done Quad.zero) := by
  have hj : exec .lock s = .next ((s.writeMailbox 48 none none none none).goWith judgeLock) := rfl
  have hw : (s.writeMailbox 48 none none none none).running = none := hfree
  rw [hj, State.goWith_free judgeLock hw]
  rfl

/-- Settles O5: LOCK sets the Part Lock, and every command's frame keeps it with the configurations under it. -/
theorem partLockFreezesConfiguration : Obligations.PartLockFreezesConfiguration :=
  ⟨exec_lock, fun _ _ _ hl hc h => ⟨(exec_frame hc h).lock hl, (exec_frame hc h).configs hl⟩⟩

/-- Settles O1: the two branches of a step. -/
theorem stepRunsTheFrontCommand : Obligations.StepRunsTheFrontCommand := by
  refine ⟨fun c rest s hs => ?front, fun s hs => ?idle⟩
  case front => rw [step, hs]
  case idle => rw [step, hs]

end Sys2Proof.Machine
end

section
/-! PROOFS. The mailbox, the registers, the Event Queue and the two resets (R184 to R186, R189 to R194). -/

namespace Sys2Proof.Machine

/-! ## A command written into the mailbox (R184, R185) -/

/-- The state in which a command is judged: its code and its argument words stand in the mailbox (R184). -/
def State.written (s : State) (code : Nat) (args : Quad Word) : State :=
  { s with commandCode := BitVec.ofNat 16 code, args := args }

section
variable (s : State) (code : Nat) (args : Quad Word)

@[simp] theorem State.written_tree (k : TreeId) : (s.written code args).tree k = s.tree k := rfl
@[simp] theorem State.written_entry (h : Nat) : (s.written code args).entry h = s.entry h := rfl
@[simp] theorem State.written_treeOf (h : Nat) : (s.written code args).treeOf h = s.treeOf h := rfl
@[simp] theorem State.written_findMark (m : Mark) : (s.written code args).findMark m = s.findMark m := rfl
@[simp] theorem State.written_findBar (m : Mark) : (s.written code args).findBar m = s.findBar m := rfl
@[simp] theorem State.written_trees : (s.written code args).trees = s.trees := rfl
@[simp] theorem State.written_partLock : (s.written code args).partLock = s.partLock := rfl
@[simp] theorem State.written_entries : (s.written code args).entries = s.entries := rfl
@[simp] theorem State.written_markIndex : (s.written code args).markIndex = s.markIndex := rfl
@[simp] theorem State.written_bars : (s.written code args).bars = s.bars := rfl
@[simp] theorem State.written_outQueue : (s.written code args).outQueue = s.outQueue := rfl
@[simp] theorem State.written_eventQueue : (s.written code args).eventQueue = s.eventQueue := rfl

variable {s code args} {judge : Quad Word → State → Judged} (hfree : s.running = none)
include hfree

/-- A command judged while BUSY is clear leaves the state of its judgement, with BUSY set and its outcome to come (R185). -/
theorem State.goWith_written {u : State} {status : Status} {results : Quad Word}
    (hj : judge args (s.written code args) = { state := u, status := status, results := results }) :
    (s.written code args).goWith judge = { u with running := some (ran code args status results) } := by
  have hw : (s.written code args).running = none := hfree
  have hargs : (s.written code args).args = args := rfl
  rw [State.goWith_free judge hw, State.runCommand, hargs, hj]
  rfl

/-- A refused command changes its mailbox words and sets BUSY, with the refusal to come (R185). -/
theorem State.goWith_refused {status : Status} {results : Quad Word}
    (hj : judge args (s.written code args) = { refusedWith (s.written code args) status with results := results }) :
    (s.written code args).goWith judge = commandDone s code args status results := by
  rw [State.goWith_written (u := s.written code args) hfree hj]
  rfl

/-- A taken command leaves the state of its effects, with its words in the mailbox and BUSY set (R185). -/
theorem State.goWith_done {u : State} {results : Quad Word}
    (hj : judge args (s.written code args) = doneWith (u.written code args) results) :
    (s.written code args).goWith judge = commandDone u code args .done results := by
  rw [State.goWith_written (u := u.written code args) hfree hj]
  rfl

end

/-! ## The mailbox and the registers (R184 to R186) -/

/-- A code that names no command is judged by BAD_CODE. -/
theorem judgeOf_of_badCode {code : Word} (h : isCommandCode code = false) : judgeOf code = judgeBadCode := by
  have hnone : ∀ n ∈ commandCodes, code.toNat ≠ n := by
    intro n hn he
    rw [isCommandCode, he, List.contains_iff_mem.2 hn] at h
    exact Bool.noConfusion h
  unfold judgeOf
  split
  case h_23 => rfl
  all_goals
    next he => exact absurd he (hnone _ (by decide))

theorem exec_badCode {s : State} {code : Word} (args : Quad Word) (hfree : s.running = none)
    (h : isCommandCode code = false) :
    exec (.badCode code args.q0 args.q1 args.q2 args.q3) s
      = .next (commandDone s code.toNat args .badCode Quad.zero) := by
  have hgo : exec (.badCode code args.q0 args.q1 args.q2 args.q3) s
      = .next ((s.written code.toNat args).goWith (judgeOf code)) := by
    rw [State.written, BitVec.ofNat_toNat, BitVec.setWidth_eq]
    rfl
  rw [hgo, judgeOf_of_badCode h, State.goWith_refused hfree rfl]

/-- A write of an address that is no register of the port, and no GO, is ignored. -/
theorem State.busWrite_ignored {s : State} {address : Byte} {v : Word}
    (hwf : (Instr.registerWrite address v).wellFormed = true) (hrange : address.toNat < 32 ∨ 36 < address.toNat) :
    s.busWrite address v = s := by
  have hnot : isIndicationAddress address = false ∧ isEnableAddress address = false ∧ isGoWrite address v = false := by
    simpa [Instr.wellFormed, and_assoc] using hwf
  obtain ⟨hindication, henable, hgo⟩ := hnot
  unfold State.busWrite
  split
  case h_16 h =>
    split
    · next hv =>
      rw [isGoWrite, h, hv] at hgo
      exact absurd hgo (by decide)
    · rfl
  case h_17 => rfl
  case h_11 h | h_12 h | h_13 h | h_14 h | h_15 h => omega
  case h_2 h | h_7 h | h_8 h | h_9 h | h_10 h =>
    rw [isEnableAddress, h] at henable
    exact absurd henable (by decide)
  all_goals
    next h =>
    rw [isIndicationAddress, h] at hindication
    exact absurd hindication (by decide)

/-- Settles O12: each way a GO or a write of the mailbox ends. -/
theorem mailboxAndRegisterWrites : Obligations.MailboxAndRegisterWrites := by
  intro s
  refine ⟨fun hbusy => ?collide, fun code a0 a1 a2 a3 hfree hc => ?badCode, fun r hr hdue => ?clears,
    fun address v => ⟨rfl, rfl, rfl, rfl, rfl, fun hwf hrange => ?ignored⟩⟩
  case collide =>
    have hgo : exec .goWhileBusy s = .next (s.goWith (judgeOf s.commandCode)) := rfl
    rw [hgo, State.goWith_busy _ hbusy]
    rfl
  case badCode => exact exec_badCode (words a0 a1 a2 a3) hfree hc
  case clears => simp only [exec, execBusyClears, hr, hdue, Bool.false_eq_true, if_false]
  case ignored => exact congrArg Host.Outcome.next (State.busWrite_ignored hwf hrange)

/-! ## Indications, enables and the interrupt output (R184, R189) -/

/-- A word of four flags, from bit 0 up (R184). -/
def flagWord (b0 b1 b2 b3 : Bool) : Word :=
  packWord [fieldAt (yesNo b0) 1 0, fieldAt (yesNo b1) 1 1, fieldAt (yesNo b2) 1 2, fieldAt (yesNo b3) 1 3]

/-- Two words of four flags share a bit where a flag is set in both. -/
theorem flagWord_and_ne_zero : ∀ b0 b1 b2 b3 c0 c1 c2 c3 : Bool,
    flagWord b0 b1 b2 b3 &&& flagWord c0 c1 c2 c3 ≠ 0
      ↔ (b0 && c0 || b1 && c1 || b2 && c2 || b3 && c3) = true := by
  decide

theorem Tree.wantsInterrupt_iff (x : Tree) :
    x.wantsInterrupt = true ↔ x.indications.word &&& x.enables.word ≠ 0 := (flagWord_and_ne_zero _ _ _ _ _ _ _ _).symm

theorem State.partWants_iff (s : State) :
    (s.eqNonempty && s.enables.eqNonempty || s.indications.eqOverflow && s.enables.eqOverflow
      || s.indications.linkChg && s.enables.linkChg || s.indications.collide && s.enables.collide) = true
    ↔ s.partIndicationWord &&& s.partEnableWord ≠ 0 := (flagWord_and_ne_zero _ _ _ _ _ _ _ _).symm

theorem State.interruptAsserted_iff (s : State) :
    s.interruptAsserted = true ↔ s.partIndicationWord &&& s.partEnableWord ≠ 0
      ∨ ∃ k : TreeId, (s.tree k).indications.word &&& (s.tree k).enables.word ≠ 0 := by
  have htrees : (allTrees.any fun t => (s.tree t).wantsInterrupt) = true
      ↔ ∃ k : TreeId, (s.tree k).indications.word &&& (s.tree k).enables.word ≠ 0 := by
    simp only [List.any_eq_true, Tree.wantsInterrupt_iff]
    exact ⟨fun ⟨k, _, h⟩ => ⟨k, h⟩, fun ⟨k, h⟩ => ⟨k, by fin_cases k <;> decide, h⟩⟩
  rw [State.interruptAsserted, Bool.or_eq_true, State.partWants_iff, htrees]

/-- Settles O13: the writes of the flag registers, and the interrupt output as the words of the registers. -/
theorem indicationsEnablesAndInterrupt : Obligations.IndicationsEnablesAndInterrupt := by
  intro v s
  refine ⟨rfl, rfl, ?interrupt, fun k => ⟨?clear, ?enable⟩⟩
  case interrupt => rw [State.interruptAsserted_iff, Fin.exists_fin_succ, Fin.exists_fin_succ, Fin.exists_fin_two]; rfl
  case clear => fin_cases k <;> rfl
  case enable => fin_cases k <;> rfl

/-! ## The Event Queue (R190, R192) -/

theorem State.writeEvent_of_fits {s : State} {kind : EventKind} {k : TreeId} {h : Nat} {extra : List EventWord}
    (hroom : s.eventQueue.length + (1 + extra.length) ≤ 1024) :
    s.writeEvent kind k h extra = { s with eventQueue := s.eventQueue ++ (eventHeader kind k h extra :: extra) } :=
  if_pos hroom

/-- The count of lost records rises by one up to 65,535. -/
theorem lostRecords_next (n : Word) :
    (if n = 0xFFFF#16 then n else n + 1).toNat = min (n.toNat + 1) 65535 := by
  have hn := n.isLt
  split
  · next h => rw [h]; rfl
  · next h =>
    have hne : n.toNat ≠ 65535 := fun he => h (BitVec.eq_of_toNat_eq he)
    have hadd : (n + 1).toNat = (n.toNat + 1) % 2 ^ 16 := BitVec.toNat_add n 1
    omega

theorem State.writeEvent_of_full {s : State} {kind : EventKind} {k : TreeId} {h : Nat} {extra : List EventWord}
    (hfull : 1024 < s.eventQueue.length + (1 + extra.length)) :
    (s.writeEvent kind k h extra).eventQueue = s.eventQueue
      ∧ (s.writeEvent kind k h extra).indications.eqOverflow = true
      ∧ (s.writeEvent kind k h extra).lostRecords.toNat = min (s.lostRecords.toNat + 1) 65535 := by
  have hroom : ¬ s.eventQueue.length + (1 + extra.length) ≤ Config.eventCapacity := Nat.not_le.2 hfull
  rw [State.writeEvent, if_neg hroom]
  exact ⟨rfl, rfl, lostRecords_next _⟩

theorem exec_eventQueueRead (s : State) :
    exec .eventQueueRead s = .next { s.afterPortRead with readData := s.portWord } := rfl

/-- Settles O14: the three cases of the read port, the count, and a record that fits or does not. -/
theorem eventQueueTakesRecordsAndReadsOut : Obligations.EventQueueTakesRecordsAndReadsOut := by
  refine ⟨fun w rest s => ⟨fun hq hh => ?upper, fun hq hh => ?lower, fun hq => ?empty⟩, fun s => rfl,
    fun s kind k h extra => ⟨State.writeEvent_of_fits, State.writeEvent_of_full⟩⟩
  case upper => simp only [exec_eventQueueRead, State.afterPortRead, State.portWord, hq, hh]
  case lower => simp only [exec_eventQueueRead, State.afterPortRead, State.portWord, hq, hh]
  case empty => simp only [exec_eventQueueRead, State.afterPortRead, State.portWord, hq]

/-! ## The resets (R193, R194) -/

theorem Tree.reset_idle (windowBase : Nat) : (Tree.reset windowBase).idle := ⟨rfl, rfl, rfl, rfl, rfl, rfl, rfl, rfl⟩

/-- Settles O3: the state of a hardware reset, field by field. -/
theorem hardwareResetValues : Obligations.HardwareResetValues := by
  intro s
  refine ⟨s.hardwareReset, rfl, rfl, rfl, rfl, rfl, rfl, rfl, rfl, rfl, rfl, rfl, rfl, rfl, rfl, rfl, rfl, rfl, rfl, rfl,
    rfl, rfl, rfl, rfl, rfl, fun k => ?tree⟩
  have htree : s.hardwareReset.tree k = Tree.reset (128 * k.val) := State.tree_reset k
  rw [htree]
  exact ⟨rfl, Tree.reset_idle _, rfl, rfl, rfl, rfl, rfl, rfl, rfl⟩

/-- The state a SOFT_RESET leaves once BUSY has cleared: its act, and the status and result words of a taken command. -/
def State.softResetDone (s : State) : State :=
  { s.softReset with running := none, status := .done, results := Quad.zero }

/-- Whether its act is made at GO or left to the clearing of BUSY, a SOFT_RESET ends in one state (log 10). -/
theorem exec_softReset_busyClears (s : State) (hfree : s.running = none) :
    ∃ t, exec .softReset s = .next t ∧ t.running.isSome = true
      ∧ exec .busyClears t = .next (s.written 49 s.args).dropChoice.softResetDone := by
  have hgo : exec .softReset s = .next ((s.written 49 s.args).goWith judgeSoftReset) := rfl
  have hw : (s.written 49 s.args).running = none := hfree
  rw [hgo, State.goWith_free _ hw, State.runCommand, judgeSoftReset]
  by_cases hact : (s.written 49 s.args).nextChoice % 2 = 0
  · rw [if_pos hact]
    exact ⟨_, rfl, rfl, rfl⟩
  · rw [if_neg hact]
    exact ⟨_, rfl, rfl, rfl⟩

theorem State.dropChoice_eq (s : State) : ∃ c n, s.dropChoice = { s with choices := c, freeCount := n } := by
  unfold State.dropChoice
  split
  · exact ⟨_, _, rfl⟩
  · exact ⟨_, _, rfl⟩

/-- Settles O4: the state in which a SOFT_RESET ends, field by field. -/
theorem softResetThroughItsCompletion : Obligations.SoftResetThroughItsCompletion := by
  intro s hfree
  obtain ⟨t, ht, hbusy, hclears⟩ := exec_softReset_busyClears s hfree
  obtain ⟨c, n, hdrop⟩ := (s.written 49 s.args).dropChoice_eq
  rw [hdrop] at hclears
  refine ⟨t, _, ht, hbusy, hclears, rfl, rfl, rfl, rfl, rfl, rfl, rfl, rfl, rfl, rfl, rfl, rfl, rfl, rfl, rfl, rfl, rfl,
    rfl, rfl, rfl, rfl, rfl, fun k => ?tree⟩
  have htree := State.softReset_tree { s.written 49 s.args with choices := c, freeCount := n } k
  exact htree ▸ ⟨rfl, Tree.reset_idle 0, rfl, rfl, rfl, rfl, rfl, rfl, rfl⟩

end Sys2Proof.Machine
end

section
/-! PROOFS. The small rules of the shared operations: what each part of the state reads after it, and the parts of a tree that
the claims and the passages of an entry leave alone. -/

namespace Sys2Proof.Machine

/-! ## The parts of a tree -/

section
variable (s : State) (t : TreeId)

@[simp] theorem State.tree_modCalendar (f : Calendar → Calendar) (v : TreeId) :
    (s.modCalendar t f).tree v = if v = t then { s.tree t with calendar := f (s.tree t).calendar } else s.tree v :=
  State.tree_modTree s t v _
@[simp] theorem State.entry_modCalendar (f : Calendar → Calendar) (h : Nat) : (s.modCalendar t f).entry h = s.entry h := rfl
@[simp] theorem State.entries_modCalendar (f : Calendar → Calendar) : (s.modCalendar t f).entries = s.entries := rfl
@[simp] theorem State.markIndex_modCalendar (f : Calendar → Calendar) : (s.modCalendar t f).markIndex = s.markIndex := rfl
@[simp] theorem State.outQueue_modCalendar (f : Calendar → Calendar) : (s.modCalendar t f).outQueue = s.outQueue := rfl
@[simp] theorem State.eventQueue_modCalendar (f : Calendar → Calendar) : (s.modCalendar t f).eventQueue = s.eventQueue := rfl

@[simp] theorem State.tree_modDiscovery (f : Discovery → Discovery) (v : TreeId) :
    (s.modDiscovery t f).tree v = if v = t then { s.tree t with discovery := f (s.tree t).discovery } else s.tree v :=
  State.tree_modTree s t v _
@[simp] theorem State.entry_modDiscovery (f : Discovery → Discovery) (h : Nat) : (s.modDiscovery t f).entry h = s.entry h := rfl
@[simp] theorem State.entries_modDiscovery (f : Discovery → Discovery) : (s.modDiscovery t f).entries = s.entries := rfl
@[simp] theorem State.markIndex_modDiscovery (f : Discovery → Discovery) : (s.modDiscovery t f).markIndex = s.markIndex := rfl
@[simp] theorem State.outQueue_modDiscovery (f : Discovery → Discovery) : (s.modDiscovery t f).outQueue = s.outQueue := rfl
@[simp] theorem State.eventQueue_modDiscovery (f : Discovery → Discovery) : (s.modDiscovery t f).eventQueue = s.eventQueue := rfl

@[simp] theorem State.tree_modUpkeep (f : Upkeep → Upkeep) (v : TreeId) :
    (s.modUpkeep t f).tree v = if v = t then { s.tree t with upkeep := f (s.tree t).upkeep } else s.tree v :=
  State.tree_modTree s t v _
@[simp] theorem State.entry_modUpkeep (f : Upkeep → Upkeep) (h : Nat) : (s.modUpkeep t f).entry h = s.entry h := rfl
@[simp] theorem State.entries_modUpkeep (f : Upkeep → Upkeep) : (s.modUpkeep t f).entries = s.entries := rfl
@[simp] theorem State.markIndex_modUpkeep (f : Upkeep → Upkeep) : (s.modUpkeep t f).markIndex = s.markIndex := rfl
@[simp] theorem State.outQueue_modUpkeep (f : Upkeep → Upkeep) : (s.modUpkeep t f).outQueue = s.outQueue := rfl
@[simp] theorem State.eventQueue_modUpkeep (f : Upkeep → Upkeep) : (s.modUpkeep t f).eventQueue = s.eventQueue := rfl

@[simp] theorem State.tree_modControl (f : ControlQueue → ControlQueue) (v : TreeId) :
    (s.modControl t f).tree v = if v = t then { s.tree t with control := f (s.tree t).control } else s.tree v :=
  State.tree_modTree s t v _
@[simp] theorem State.entry_modControl (f : ControlQueue → ControlQueue) (h : Nat) : (s.modControl t f).entry h = s.entry h := rfl
@[simp] theorem State.entries_modControl (f : ControlQueue → ControlQueue) : (s.modControl t f).entries = s.entries := rfl
@[simp] theorem State.markIndex_modControl (f : ControlQueue → ControlQueue) : (s.modControl t f).markIndex = s.markIndex := rfl
@[simp] theorem State.outQueue_modControl (f : ControlQueue → ControlQueue) : (s.modControl t f).outQueue = s.outQueue := rfl
@[simp] theorem State.eventQueue_modControl (f : ControlQueue → ControlQueue) : (s.modControl t f).eventQueue = s.eventQueue := rfl

@[simp] theorem State.tree_modRogue (f : RogueMonitor → RogueMonitor) (v : TreeId) :
    (s.modRogue t f).tree v = if v = t then { s.tree t with rogue := f (s.tree t).rogue } else s.tree v :=
  State.tree_modTree s t v _
@[simp] theorem State.entry_modRogue (f : RogueMonitor → RogueMonitor) (h : Nat) : (s.modRogue t f).entry h = s.entry h := rfl
@[simp] theorem State.entries_modRogue (f : RogueMonitor → RogueMonitor) : (s.modRogue t f).entries = s.entries := rfl
@[simp] theorem State.markIndex_modRogue (f : RogueMonitor → RogueMonitor) : (s.modRogue t f).markIndex = s.markIndex := rfl
@[simp] theorem State.outQueue_modRogue (f : RogueMonitor → RogueMonitor) : (s.modRogue t f).outQueue = s.outQueue := rfl
@[simp] theorem State.eventQueue_modRogue (f : RogueMonitor → RogueMonitor) : (s.modRogue t f).eventQueue = s.eventQueue := rfl

@[simp] theorem State.tree_modSlot (c : Cycle) (f : Slot → Slot) (v : TreeId) :
    (s.modSlot t c f).tree v = if v = t then { s.tree t with calendar := (s.tree t).calendar.modSlot c f } else s.tree v :=
  State.tree_modTree s t v _
@[simp] theorem State.entry_modSlot (c : Cycle) (f : Slot → Slot) (h : Nat) : (s.modSlot t c f).entry h = s.entry h := rfl
@[simp] theorem State.entries_modSlot (c : Cycle) (f : Slot → Slot) : (s.modSlot t c f).entries = s.entries := rfl
@[simp] theorem State.markIndex_modSlot (c : Cycle) (f : Slot → Slot) : (s.modSlot t c f).markIndex = s.markIndex := rfl
@[simp] theorem State.outQueue_modSlot (c : Cycle) (f : Slot → Slot) : (s.modSlot t c f).outQueue = s.outQueue := rfl
@[simp] theorem State.eventQueue_modSlot (c : Cycle) (f : Slot → Slot) : (s.modSlot t c f).eventQueue = s.eventQueue := rfl

@[simp] theorem State.tree_countBy (c : TreeCounter) (n : Nat) (v : TreeId) :
    (s.countBy t c n).tree v =
      if v = t then
        { s.tree t with
          counters := (s.tree t).counters.put c ((s.tree t).counters.get c + BitVec.ofNat 32 n) }
      else s.tree v :=
  State.tree_modTree s t v _
@[simp] theorem State.entry_countBy (c : TreeCounter) (n : Nat) (h : Nat) : (s.countBy t c n).entry h = s.entry h := rfl
@[simp] theorem State.entries_countBy (c : TreeCounter) (n : Nat) : (s.countBy t c n).entries = s.entries := rfl
@[simp] theorem State.markIndex_countBy (c : TreeCounter) (n : Nat) : (s.countBy t c n).markIndex = s.markIndex := rfl
@[simp] theorem State.outQueue_countBy (c : TreeCounter) (n : Nat) : (s.countBy t c n).outQueue = s.outQueue := rfl
@[simp] theorem State.eventQueue_countBy (c : TreeCounter) (n : Nat) : (s.countBy t c n).eventQueue = s.eventQueue := rfl

@[simp] theorem State.tree_count (c : TreeCounter) (v : TreeId) :
    (s.count t c).tree v =
      if v = t then
        { s.tree t with
          counters := (s.tree t).counters.put c ((s.tree t).counters.get c + 1) }
      else s.tree v :=
  State.tree_modTree s t v _
@[simp] theorem State.entry_count (c : TreeCounter) (h : Nat) : (s.count t c).entry h = s.entry h := rfl
@[simp] theorem State.entries_count (c : TreeCounter) : (s.count t c).entries = s.entries := rfl
@[simp] theorem State.markIndex_count (c : TreeCounter) : (s.count t c).markIndex = s.markIndex := rfl
@[simp] theorem State.outQueue_count (c : TreeCounter) : (s.count t c).outQueue = s.outQueue := rfl
@[simp] theorem State.eventQueue_count (c : TreeCounter) : (s.count t c).eventQueue = s.eventQueue := rfl

@[simp] theorem State.tree_setDarkChg (v : TreeId) :
    (s.setDarkChg t).tree v =
      if v = t then
        { s.tree t with
          indications := { (s.tree t).indications with darkChg := true } }
      else s.tree v :=
  State.tree_modTree s t v _
@[simp] theorem State.entry_setDarkChg (h : Nat) : (s.setDarkChg t).entry h = s.entry h := rfl
@[simp] theorem State.entries_setDarkChg : (s.setDarkChg t).entries = s.entries := rfl
@[simp] theorem State.markIndex_setDarkChg : (s.setDarkChg t).markIndex = s.markIndex := rfl
@[simp] theorem State.outQueue_setDarkChg : (s.setDarkChg t).outQueue = s.outQueue := rfl
@[simp] theorem State.eventQueue_setDarkChg : (s.setDarkChg t).eventQueue = s.eventQueue := rfl

@[simp] theorem State.tree_setRogueChg (v : TreeId) :
    (s.setRogueChg t).tree v =
      if v = t then
        { s.tree t with
          indications := { (s.tree t).indications with rogueChg := true } }
      else s.tree v :=
  State.tree_modTree s t v _
@[simp] theorem State.entry_setRogueChg (h : Nat) : (s.setRogueChg t).entry h = s.entry h := rfl
@[simp] theorem State.entries_setRogueChg : (s.setRogueChg t).entries = s.entries := rfl
@[simp] theorem State.markIndex_setRogueChg : (s.setRogueChg t).markIndex = s.markIndex := rfl
@[simp] theorem State.outQueue_setRogueChg : (s.setRogueChg t).outQueue = s.outQueue := rfl
@[simp] theorem State.eventQueue_setRogueChg : (s.setRogueChg t).eventQueue = s.eventQueue := rfl

@[simp] theorem State.tree_setSweepEnd (v : TreeId) :
    (s.setSweepEnd t).tree v =
      if v = t then
        { s.tree t with
          indications := { (s.tree t).indications with sweepEnd := true } }
      else s.tree v :=
  State.tree_modTree s t v _
@[simp] theorem State.entry_setSweepEnd (h : Nat) : (s.setSweepEnd t).entry h = s.entry h := rfl
@[simp] theorem State.entries_setSweepEnd : (s.setSweepEnd t).entries = s.entries := rfl
@[simp] theorem State.markIndex_setSweepEnd : (s.setSweepEnd t).markIndex = s.markIndex := rfl
@[simp] theorem State.outQueue_setSweepEnd : (s.setSweepEnd t).outQueue = s.outQueue := rfl
@[simp] theorem State.eventQueue_setSweepEnd : (s.setSweepEnd t).eventQueue = s.eventQueue := rfl

@[simp] theorem State.tree_setTableFull (v : TreeId) :
    (s.setTableFull t).tree v =
      if v = t then
        { s.tree t with
          indications := { (s.tree t).indications with tableFull := true } }
      else s.tree v :=
  State.tree_modTree s t v _
@[simp] theorem State.entry_setTableFull (h : Nat) : (s.setTableFull t).entry h = s.entry h := rfl
@[simp] theorem State.entries_setTableFull : (s.setTableFull t).entries = s.entries := rfl
@[simp] theorem State.markIndex_setTableFull : (s.setTableFull t).markIndex = s.markIndex := rfl
@[simp] theorem State.outQueue_setTableFull : (s.setTableFull t).outQueue = s.outQueue := rfl
@[simp] theorem State.eventQueue_setTableFull : (s.setTableFull t).eventQueue = s.eventQueue := rfl

end

/-! ## Frames and records -/

section
variable (s : State)

/-- What a frame changes: the outgoing queue or, where that is full, the count of dropped frames and the repair dump. -/
theorem State.makeFrame_eq (f : LinkFrame) :
    ∃ queue dropped dump, s.makeFrame f = { s with outQueue := queue, framesDropped := dropped, dump := dump } := by
  unfold State.makeFrame
  split
  · exact ⟨_, _, _, rfl⟩
  · exact ⟨_, _, _, rfl⟩

@[simp] theorem State.tree_makeFrame (f : LinkFrame) (v : TreeId) : (s.makeFrame f).tree v = s.tree v := by
  obtain ⟨q, d, u, h⟩ := s.makeFrame_eq f
  rw [h]; rfl

@[simp] theorem State.entries_makeFrame (f : LinkFrame) : (s.makeFrame f).entries = s.entries := by
  obtain ⟨q, d, u, h⟩ := s.makeFrame_eq f
  rw [h]

@[simp] theorem State.entry_makeFrame (f : LinkFrame) (h : Nat) : (s.makeFrame f).entry h = s.entry h := by
  rw [State.entry, State.entries_makeFrame, State.entry]

@[simp] theorem State.markIndex_makeFrame (f : LinkFrame) : (s.makeFrame f).markIndex = s.markIndex := by
  obtain ⟨q, d, u, h⟩ := s.makeFrame_eq f
  rw [h]

@[simp] theorem State.eventQueue_makeFrame (f : LinkFrame) : (s.makeFrame f).eventQueue = s.eventQueue := by
  obtain ⟨q, d, u, h⟩ := s.makeFrame_eq f
  rw [h]

theorem State.makeFrame_of_room {f : LinkFrame} {s : State} (h : s.outQueue.length < 512) :
    s.makeFrame f = { s with outQueue := s.outQueue ++ [f] } := if_pos h

theorem State.makeFrame_of_full {f : LinkFrame} {s : State} (h : 512 ≤ s.outQueue.length) :
    s.makeFrame f = { s with
      framesDropped := s.framesDropped + 1
      dump := if f.needsRepair then some { cursor := 0, mode := .all } else s.dump } := if_neg (Nat.not_lt.2 h)

theorem State.outQueue_makeFrame {f : LinkFrame} {s : State} (h : s.outQueue.length < 512) :
    (s.makeFrame f).outQueue = s.outQueue ++ [f] := by rw [State.makeFrame_of_room h]

@[simp] theorem State.entries_writeEvent (kind : EventKind) (v : TreeId) (j : Nat) (extra : List EventWord) :
    (s.writeEvent kind v j extra).entries = s.entries := by
  unfold State.writeEvent
  split <;> rfl

@[simp] theorem State.outQueue_writeEvent (kind : EventKind) (v : TreeId) (j : Nat) (extra : List EventWord) :
    (s.writeEvent kind v j extra).outQueue = s.outQueue := by
  unfold State.writeEvent
  split <;> rfl

/-- A record written in a step that writes no other. -/
theorem wrote_of_writeEvent {s u w : State} {kind : EventKind} {k : TreeId} {h : Nat} {extra : List EventWord}
    (hbefore : u.eventQueue = s.eventQueue) (hafter : w.eventQueue = (u.writeEvent kind k h extra).eventQueue) :
    wrote s w kind k h extra := fun hroom => by
  rw [hafter, State.writeEvent_of_fits (by rw [hbefore]; exact hroom), hbefore]

/-! ## Entries -/

/-- An entry changed reads as changed, when the change leaves it listed. -/
theorem State.entry_modEntry_of_ne {s : State} {h : Nat} {f : Entry → Entry} {e : Entry} (he : f (s.entry h) = e)
    (hf : e.state ≠ .free) : (s.modEntry h f).entry h = e := by
  rw [State.entry_modEntry _ _ _ (by rw [he]; exact hf), he]

end

end Sys2Proof.Machine
end

section
/-! PROOFS. Tree Control: TREE_CONFIG, TREE_TUNE, ENABLE and DISABLE (R38 to R41, R43, R44, R46, R58). -/

namespace Sys2Proof.Machine

/-! ## The words that name a tree, an item, a parameter -/

theorem treeOfWord_of_lt {w : Word} (h : 3 < w.toNat) : treeOfWord w = none := dif_neg (Nat.not_lt.2 h)

theorem ConfigItem.ofWord_of_lt {w : Word} (h : 7 < w.toNat) : ConfigItem.ofWord w = none := by
  unfold ConfigItem.ofWord
  split
  case h_9 => rfl
  all_goals omega

theorem TuneParam.ofWord_of_lt {w : Word} (h : 9 < w.toNat) : TuneParam.ofWord w = none := by
  unfold TuneParam.ofWord
  split
  case h_11 => rfl
  all_goals omega

section
variable {w : Word} {s : State} {k : TreeId} (judge : TreeId → Judged)

theorem forTree_of_some (h : treeOfWord w = some k) : forTree w s judge = judge k := by rw [forTree, h]

theorem forTree_of_lt (h : 3 < w.toNat) : forTree w s judge = refusedWith s .badArg := by
  rw [forTree, treeOfWord_of_lt h]

end

theorem Tree.inService_of_disabled {x : Tree} (h : x.state = .disabled) : x.inService = false := by
  rw [Tree.inService, h]; rfl

theorem Tree.inService_of_ne {x : Tree} (h : x.state ≠ .disabled) : x.inService = true := (Tree.inService_iff x).2 h

/-! ## TREE_CONFIG (R39, R47) -/

section
variable {t : TreeId} {item : ConfigItem} {v0 v1 : Word} {s : State}

theorem judgeTreeItem_of_locked (hl : s.partLock = true) :
    judgeTreeItem t item v0 v1 s = { refusedWith s .locked with results := itemWords (s.tree t).config item } := by
  simp only [judgeTreeItem, hl, if_true]

theorem judgeTreeItem_of_inService (hl : s.partLock = false) (hs : (s.tree t).inService = true) :
    judgeTreeItem t item v0 v1 s
      = { refusedWith s .wrongTreeState with results := itemWords (s.tree t).config item } := by
  simp only [judgeTreeItem, hl, hs, Bool.false_eq_true, if_false, if_true]

theorem judgeTreeItem_of_outside (hl : s.partLock = false) (hs : (s.tree t).inService = false)
    (hw : (s.tree t).config.write item v0 v1 = none) :
    judgeTreeItem t item v0 v1 s = { refusedWith s .badArg with results := itemWords (s.tree t).config item } := by
  simp only [judgeTreeItem, hl, hs, hw, Bool.false_eq_true, if_false]

theorem judgeTreeItem_of_written {d : TreeConfig} (hl : s.partLock = false) (hs : (s.tree t).inService = false)
    (hw : (s.tree t).config.write item v0 v1 = some d) :
    judgeTreeItem t item v0 v1 s = doneWith (s.modTree t fun x => { x with config := d }) (itemWords d item) := by
  simp only [judgeTreeItem, hl, hs, hw, Bool.false_eq_true, if_false]

end

theorem judgeTreeConfig_of_badArg {a : Quad Word} {s : State} (h : 3 < a.q0.toNat ∨ 7 < a.q1.toNat) :
    judgeTreeConfig a s = refusedWith s .badArg := by
  unfold judgeTreeConfig
  split
  · next ht hi =>
    rcases h with h | h
    · exact absurd ((treeOfWord_of_lt h).symm.trans ht) nofun
    · exact absurd ((ConfigItem.ofWord_of_lt h).symm.trans hi) nofun
  · rfl

/-- Settles O15: the conditions of TREE_CONFIG in their order. -/
theorem treeConfigOutcome : Obligations.TreeConfigOutcome := by
  intro tree item v0 v1 s hfree
  let a := words tree item v0 v1
  have hexec : exec (.treeConfig tree item v0 v1) s = .next ((s.written 1 a).goWith judgeTreeConfig) := rfl
  rw [hexec]
  refine ⟨fun h => ?badArg, fun k i hk hi => ?named⟩
  case badArg => rw [State.goWith_refused hfree (judgeTreeConfig_of_badArg h)]
  case named =>
    have hjudge : judgeTreeConfig a (s.written 1 a) = judgeTreeItem k i v0 v1 (s.written 1 a) := by
      have hk' : treeOfWord a.q0 = some k := hk
      have hi' : ConfigItem.ofWord a.q1 = some i := hi
      rw [judgeTreeConfig, hk', hi']
      rfl
    refine ⟨fun hl => ?locked, fun hl hs => ?inService, fun hl hs hw => ?outside, fun d hl hs hw => ?written⟩
    case locked => rw [State.goWith_refused hfree (hjudge.trans (judgeTreeItem_of_locked hl))]; rfl
    case inService =>
      rw [State.goWith_refused hfree (hjudge.trans (judgeTreeItem_of_inService hl (Tree.inService_of_ne hs)))]; rfl
    case outside =>
      rw [State.goWith_refused hfree (hjudge.trans (judgeTreeItem_of_outside hl (Tree.inService_of_disabled hs) hw))]
      rfl
    case written =>
      have hdone := hjudge.trans (judgeTreeItem_of_written hl (Tree.inService_of_disabled hs) hw)
      rw [State.goWith_done (u := s.setTree k { s.tree k with config := d }) hfree hdone]

/-! ## TREE_TUNE (R40, R41) -/

theorem judgeTreeTune_of_badArg {a : Quad Word} {s : State} (h : 3 < a.q0.toNat ∨ 9 < a.q1.toNat) :
    judgeTreeTune a s = refusedWith s .badArg := by
  unfold judgeTreeTune
  split
  · next ht hp =>
    rcases h with h | h
    · exact absurd ((treeOfWord_of_lt h).symm.trans ht) nofun
    · exact absurd ((TuneParam.ofWord_of_lt h).symm.trans hp) nofun
  · rfl

theorem judgeTreeTune_of_named {a : Quad Word} {s : State} {k : TreeId} {p : TuneParam}
    (hk : treeOfWord a.q0 = some k) (hp : TuneParam.ofWord a.q1 = some p) :
    judgeTreeTune a s = if p.inRange a.q2.toNat then
        doneWith (s.modTree k fun x => x.tune p a.q2.toNat) (((s.tree k).tune p a.q2.toNat).tuneWords p)
      else refusedWith s .badArg := by
  rw [judgeTreeTune, hk, hp]

@[simp] theorem TuneTable.get_put {α : Type} (x : TuneTable α) (p : TuneParam) (v : α) : (x.put p v).get p = v := by
  cases p <;> rfl

theorem wordOf_toNat (w : Word) : wordOf w.toNat = w := by rw [wordOf, BitVec.ofNat_toNat, BitVec.setWidth_eq]

theorem Tree.tune_of_disabled {x : Tree} (p : TuneParam) (v : Word) (hs : x.inService = false) :
    x.tune p v.toNat = { x with tuning := x.tuning.put p v.toNat, pending := x.pending.put p none }
      ∧ (x.tune p v.toNat).tuneWords p = words v 0 0 0 := by
  have ht : x.tune p v.toNat = { x with tuning := x.tuning.put p v.toNat, pending := x.pending.put p none } := by
    rw [Tree.tune, hs]; rfl
  refine ⟨ht, ?_⟩
  rw [ht, Tree.tuneWords, TuneTable.get_put, TuneTable.get_put, wordOf_toNat]
  rfl

theorem Tree.tune_of_inService {x : Tree} (p : TuneParam) (v : Word) (hs : x.inService = true) :
    x.tune p v.toNat = { x with pending := x.pending.put p (some v.toNat) }
      ∧ (x.tune p v.toNat).tuneWords p = words (wordOf (x.tuning.get p)) v 1 0 := by
  have ht : x.tune p v.toNat = { x with pending := x.pending.put p (some v.toNat) } := by
    rw [Tree.tune, hs]; rfl
  refine ⟨ht, ?_⟩
  rw [ht, Tree.tuneWords, TuneTable.get_put, Option.getD_some, wordOf_toNat]
  rfl

/-- Settles O16: TREE_TUNE in each of its cases. -/
theorem treeTuneOutcome : Obligations.TreeTuneOutcome := by
  intro tree param v s hfree
  let a := words tree param v s.args.q3
  have hexec : exec (.treeTune tree param v) s = .next ((s.written 2 a).goWith judgeTreeTune) := rfl
  rw [hexec]
  refine ⟨fun h => ?badArg, fun k p hk hp => ?named⟩
  case badArg => rw [State.goWith_refused hfree (judgeTreeTune_of_badArg h)]
  case named =>
    have hjudge := judgeTreeTune_of_named (a := a) (s := s.written 2 a) hk hp
    rw [State.written_tree] at hjudge
    refine ⟨fun hr => ?outside, fun hr hs => ?disabled, fun hr hs => ?inService⟩
    case outside =>
      rw [State.goWith_refused hfree (hjudge.trans (if_neg (Bool.eq_false_iff.1 hr)))]
    case disabled =>
      obtain ⟨htune, hwords⟩ := Tree.tune_of_disabled p v (Tree.inService_of_disabled hs)
      have hdone := hjudge.trans (if_pos hr)
      rw [State.goWith_done (u := s.setTree k ((s.tree k).tune p v.toNat)) hfree hdone, htune]
      exact congrArg (fun r => Host.Outcome.next (commandDone _ 2 a .done r)) hwords
    case inService =>
      obtain ⟨htune, hwords⟩ := Tree.tune_of_inService p v (Tree.inService_of_ne hs)
      have hdone := hjudge.trans (if_pos hr)
      rw [State.goWith_done (u := s.setTree k ((s.tree k).tune p v.toNat)) hfree hdone, htune]
      exact congrArg (fun r => Host.Outcome.next (commandDone _ 2 a .done r)) hwords

/-! ## ENABLE (R43, R44, R58) -/

section
variable {t : TreeId} {s : State}

theorem judgeEnableOf_of_reach (h : (s.tree t).config.reachOk = false) :
    judgeEnableOf t s = { refusedWith s .config with results := words 1 0 0 0 } := by
  simp only [judgeEnableOf, h, Bool.not_false, if_true, firstWord]

theorem judgeEnableOf_of_overlap {v : TreeId} (hr : (s.tree t).config.reachOk = true) (h : s.overlapping t = some v) :
    judgeEnableOf t s = { refusedWith s .overlap with results := words 2 (wordOf v.val) 0 0 } := by
  simp [judgeEnableOf, hr, h]

theorem judgeEnableOf_of_noPart (hr : (s.tree t).config.reachOk = true) (ho : s.overlapping t = none)
    (h : (s.tree t).config.hasPart = false) :
    judgeEnableOf t s = { refusedWith s .noPart with results := words 3 0 0 0 } := by
  simp [judgeEnableOf, hr, ho, h, firstWord]

theorem judgeEnableOf_of_span (hr : (s.tree t).config.reachOk = true) (ho : s.overlapping t = none)
    (hp : (s.tree t).config.hasPart = true) (h : (s.tree t).config.spanOk = false) :
    judgeEnableOf t s = { refusedWith s .span with results := words 4 0 0 0 } := by
  simp [judgeEnableOf, hr, ho, hp, h, firstWord]

theorem judgeEnableOf_of_passed (hr : (s.tree t).config.reachOk = true) (ho : s.overlapping t = none)
    (hp : (s.tree t).config.hasPart = true) (h : (s.tree t).config.spanOk = true) :
    judgeEnableOf t s = doneWith (s.modTree t Tree.enable) Quad.zero := by
  simp [judgeEnableOf, hr, ho, hp, h]

end

/-- The handles of a window but for its base. -/
theorem Tree.usableHandles_eq (x : Tree) :
    x.usableHandles = (List.range (x.config.windowLength - 1)).map (x.config.windowBase + 1 + ·) := by
  rw [Tree.usableHandles, Tree.windowHandles]
  cases x.config.windowLength with
  | zero => rfl
  | succ n =>
    rw [List.range_succ_eq_map, List.map_cons, List.drop_one, List.tail_cons, List.map_map, Nat.add_sub_cancel]
    exact List.map_congr_left fun i _ => by simp only [Function.comp_apply]; omega

theorem ringAtEnable_bare : ∀ y ∈ ringAtEnable, y.reservations = [] ∧ y.stray = false := by
  intro y hy
  obtain ⟨i, -, rfl⟩ := List.mem_map.1 hy
  exact ⟨rfl, rfl⟩

theorem ringAtEnable_states : ringAtEnable.map Slot.state
    = [.closing, .arriving] ++ List.replicate 6 .sent ++ List.replicate 8 .opened := by decide

/-- Settles O17: the refusals of ENABLE in their order, and the tree that enters service. -/
theorem enableOutcome : Obligations.EnableOutcome := by
  intro tree s hfree
  let a := oneArg s tree
  have hexec : exec (.enable tree) s = .next ((s.written 3 a).goWith judgeEnable) := rfl
  rw [hexec]
  refine ⟨fun h => ?badArg, fun k hk => ?named⟩
  case badArg => rw [State.goWith_refused hfree (forTree_of_lt _ h)]
  case named =>
    have hjudge : judgeEnable a (s.written 3 a) = if (s.tree k).inService then refusedWith (s.written 3 a) .wrongTreeState
        else judgeEnableOf k (s.written 3 a) := forTree_of_some _ hk
    refine ⟨fun hs => ?inService, fun hs => ?disabled⟩
    case inService => rw [State.goWith_refused hfree (hjudge.trans (if_pos hs))]
    case disabled =>
      rw [if_neg (Bool.eq_false_iff.1 (Tree.inService_of_disabled hs))] at hjudge
      refine ⟨fun hr => ?reach, fun v hr ho => ?overlap, fun hr ho hp => ?noPart, fun hr ho hp hsp => ?span,
        fun hr ho hp hsp => ?passed⟩
      case reach => rw [State.goWith_refused hfree (hjudge.trans (judgeEnableOf_of_reach hr))]
      case overlap => rw [State.goWith_refused hfree (hjudge.trans (judgeEnableOf_of_overlap hr ho))]
      case noPart => rw [State.goWith_refused hfree (hjudge.trans (judgeEnableOf_of_noPart hr ho hp))]
      case span => rw [State.goWith_refused hfree (hjudge.trans (judgeEnableOf_of_span hr ho hp hsp))]
      case passed =>
        have hdone := hjudge.trans (judgeEnableOf_of_passed hr ho hp hsp)
        refine ⟨(s.tree k).enable, ?_, rfl, rfl, rfl, rfl, Tree.usableHandles_eq _, ringAtEnable_cycles,
          ringAtEnable_bare, ringAtEnable_states, rfl, rfl, rfl, rfl, rfl, rfl, rfl, rfl, rfl, rfl, rfl, rfl, rfl⟩
        rw [State.goWith_done (u := s.setTree k (s.tree k).enable) hfree hdone]

/-! ## DISABLE (R46) -/

/-- Frames made one after another join the queue in their order, while there is room for them all. -/
theorem State.outQueue_makeFrames {α : Type} (f : α → LinkFrame) (l : List α) (s : State)
    (h : s.outQueue.length + l.length ≤ 512) :
    (l.foldl (fun s c => s.makeFrame (f c)) s).outQueue = s.outQueue ++ l.map f := by
  induction l generalizing s with
  | nil => simp
  | cons c l ih =>
    rw [List.length_cons] at h
    have hc := State.outQueue_makeFrame (s := s) (f := f c) (by omega)
    rw [List.foldl_cons, ih _ (by rw [hc, List.length_append, List.length_singleton]; omega), hc, List.map_cons,
      List.append_assoc, List.singleton_append]

/-- Frames change no more than a queue, a count and a dump. -/
theorem State.makeFrames_eq {α : Type} (f : α → LinkFrame) (l : List α) (s : State) :
    ∃ queue dropped dump, l.foldl (fun s c => s.makeFrame (f c)) s
      = { s with outQueue := queue, framesDropped := dropped, dump := dump } := by
  induction l generalizing s with
  | nil => exact ⟨_, _, _, rfl⟩
  | cons c l ih =>
    obtain ⟨q, d, u, h⟩ := s.makeFrame_eq (f c)
    obtain ⟨q', d', u', h'⟩ := ih (s.makeFrame (f c))
    rw [h] at h'
    exact ⟨q', d', u', by rw [List.foldl_cons, h, h']⟩

/-- What DISABLE clears, before the frames that tell of it. -/
def State.tornDown (s : State) (t : TreeId) : State :=
  { s.modTree t Tree.disable with
    entries := s.entries.filter fun e => !(s.tree t).inWindow e.1
    markIndex := s.markIndex.filter fun m => !(s.tree t).inWindow m.2
    bars := s.bars.filter fun b => !b.setBy t }

theorem State.disableTree_eq (s : State) (t : TreeId) :
    s.disableTree t = ((s.tree t).calendar.windowCycles.foldl (fun u c => u.makeFrame (.quietCancel t c))
      (s.tornDown t)).makeFrame (.rosterClear t) := rfl

/-- The teardown and its frames: all else is as torn down, and with room the frames stand in their order. -/
theorem State.disableTree_frames (s : State) (t : TreeId) : ∃ queue dropped dump,
    s.disableTree t = { s.tornDown t with outQueue := queue, framesDropped := dropped, dump := dump }
      ∧ (s.outQueue.length + (s.tree t).calendar.windowCycles.length < 512 →
        queue = s.outQueue ++ (s.tree t).calendar.windowCycles.map (LinkFrame.quietCancel t)
          ++ [LinkFrame.rosterClear t]) := by
  let cycles := (s.tree t).calendar.windowCycles
  obtain ⟨q, d, u, h⟩ := State.makeFrames_eq (LinkFrame.quietCancel t) cycles (s.tornDown t)
  obtain ⟨q', d', u', h'⟩ := State.makeFrame_eq { s.tornDown t with outQueue := q, framesDropped := d, dump := u }
    (.rosterClear t)
  refine ⟨q', d', u', by rw [State.disableTree_eq, h, h'], fun hroom => ?_⟩
  have hq : q = s.outQueue ++ cycles.map (LinkFrame.quietCancel t) := by
    have hmade := State.outQueue_makeFrames (LinkFrame.quietCancel t) cycles (s.tornDown t) hroom.le
    rw [h] at hmade
    exact hmade
  have hlast : q.length < 512 := by rw [hq, List.length_append, List.length_map]; exact hroom
  have hmade := State.makeFrame_of_room (f := .rosterClear t)
    (s := { s.tornDown t with outQueue := q, framesDropped := d, dump := u }) hlast
  rw [← hq]
  exact (congrArg State.outQueue h').symm.trans (congrArg State.outQueue hmade)

/-- Settles O19: the refusals of DISABLE, and what the teardown leaves. -/
theorem disableOutcome : Obligations.DisableOutcome := by
  intro tree s hfree
  let a := oneArg s tree
  have hexec : exec (.disable tree) s = .next ((s.written 6 a).goWith judgeDisable) := rfl
  rw [hexec]
  refine ⟨fun h => ?badArg, fun k hk => ?named⟩
  case badArg => rw [State.goWith_refused hfree (forTree_of_lt _ h)]
  case named =>
    have hjudge : judgeDisable a (s.written 6 a) = if (s.tree k).inService
        then doneWith ((s.written 6 a).disableTree k) Quad.zero
        else refusedWith (s.written 6 a) .wrongTreeState := forTree_of_some _ hk
    refine ⟨fun hs => ?disabled, fun hs => ?inService⟩
    case disabled =>
      rw [State.goWith_refused hfree (hjudge.trans (if_neg (Bool.eq_false_iff.1 (Tree.inService_of_disabled hs))))]
    case inService =>
      have hdone := hjudge.trans (if_pos hs)
      obtain ⟨q, d, u, htorn, hframes⟩ := (s.written 6 a).disableTree_frames k
      rw [State.goWith_written hfree hdone, htorn]
      have htree : ((s.written 6 a).tornDown k).tree k = (s.tree k).disable :=
        (State.tree_modTree _ _ _ _).trans (if_pos rfl)
      refine ⟨_, rfl, ?state, ?idle, ?config, ?tuning, ?pending, ?n, ?counters, ?indications, ?enables, rfl, rfl, rfl,
        rfl, fun v hv => ?others, hframes⟩
      case idle => exact htree ▸ Tree.disable_idle _
      case others => exact (State.tree_modTree _ _ _ _).trans (if_neg hv)
      all_goals exact htree ▸ rfl

end Sys2Proof.Machine
end

section
/-! PROOFS. A tree changed twice is changed once; the Control Queue as one change of a tree; an entry that passes from state
to state (R23, R159 to R165). -/

namespace Sys2Proof.Machine

/-! ## One tree changed again -/

@[simp] theorem Quad.set_set {α : Type} (q : Quad α) (t : TreeId) (x y : α) : (q.set t x).set t y = q.set t y := by
  fin_cases t <;> rfl

@[simp] theorem Quad.set_get {α : Type} (q : Quad α) (t : TreeId) : q.set t (q.get t) = q := by
  fin_cases t <;> rfl

theorem State.setTree_tree (s : State) (t : TreeId) : s.setTree t (s.tree t) = s := by
  rw [State.setTree, State.tree, Quad.set_get]

/-- Two changes of a tree are one, of the second after the first. -/
theorem State.modTree_modTree (s : State) (t : TreeId) (f g : Tree → Tree) :
    (s.modTree t f).modTree t g = s.modTree t fun x => g (f x) := by
  have hmid : (s.modTree t f).tree t = f (s.tree t) := (State.tree_modTree s t t f).trans (if_pos rfl)
  rw [State.modTree, hmid]
  simp only [State.modTree, State.setTree, Quad.set_set]

theorem State.modTree_of_fixed {s : State} {t : TreeId} {f : Tree → Tree} (h : f (s.tree t) = s.tree t) :
    s.modTree t f = s := by rw [State.modTree, h, State.setTree_tree]

theorem State.modControl_modControl (s : State) (t : TreeId) (f g : ControlQueue → ControlQueue) :
    (s.modControl t f).modControl t g = s.modControl t fun q => g (f q) := State.modTree_modTree _ _ _ _

theorem State.modCalendar_modCalendar (s : State) (t : TreeId) (f g : Calendar → Calendar) :
    (s.modCalendar t f).modCalendar t g = s.modCalendar t fun w => g (f w) := State.modTree_modTree _ _ _ _

theorem State.modDiscovery_modDiscovery (s : State) (t : TreeId) (f g : Discovery → Discovery) :
    (s.modDiscovery t f).modDiscovery t g = s.modDiscovery t fun d => g (f d) := State.modTree_modTree _ _ _ _

/-! ## The Control Queue (R159 to R164) -/

/-- The queue with the copy that an entry owes joined, if it owes one. -/
def Entry.joins (e : Entry) (h : Nat) (queue : List QueuedMessage) : List QueuedMessage :=
  match e.owed with
  | some o => insertMessage (e.copyFor h o.kind) queue
  | none => queue

/-- The control queue with its free places filled from the backlog, an entry's copy being the one the state gives. -/
def ControlQueue.filled (q : ControlQueue) (entry : Nat → Entry) : ControlQueue :=
  { queue := (q.backlog.take (32 - q.queue.length)).foldl (fun queue h => (entry h).joins h queue) q.queue
    backlog := q.backlog.drop (32 - q.queue.length) }

section
variable (s : State) (t : TreeId) (h : Nat)

theorem State.joinCopy_eq :
    s.joinCopy t h = s.modControl t fun q => { q with queue := (s.entry h).joins h q.queue } := by
  unfold State.joinCopy
  split
  · next o ho => simp only [Entry.joins, ho]
  · next ho =>
    refine (State.modTree_of_fixed ?_).symm
    simp only [Entry.joins, ho]

/-- Copies joined one after another change the queue alone. -/
theorem State.joinCopies_eq (l : List Nat) (s : State) :
    l.foldl (fun s h => s.joinCopy t h) s = s.modControl t fun q =>
      { q with queue := l.foldl (fun queue h => (s.entry h).joins h queue) q.queue } := by
  induction l generalizing s with
  | nil => exact (State.modTree_of_fixed rfl).symm
  | cons h l ih =>
    rw [List.foldl_cons, ih, State.joinCopy_eq, State.modControl_modControl]
    rfl

theorem State.fillBacklog_eq : s.fillBacklog t = s.modControl t fun q => q.filled s.entry := by
  rw [State.fillBacklog, State.joinCopies_eq, State.modControl_modControl]
  rfl

theorem State.dropTrim_eq : s.dropTrim t h = s.modControl t fun q =>
    ControlQueue.filled { q with queue := q.queue.filter fun m => !m.isTrimFor h } s.entry := by
  rw [State.dropTrim, State.fillBacklog_eq, State.modControl_modControl]
  rfl

/-- An owed message recorded: the entry holds it, and of the trees the Control Queue of one alone changes (R161). -/
theorem State.recordOwed_eq (kind : OwedKind) (sends : Nat) : ∃ f : ControlQueue → ControlQueue,
    s.recordOwed t h kind sends
      = (s.modEntry h fun e => { e with owed := some { kind := kind, sends := sends } }).modControl t f := by
  unfold State.recordOwed
  dsimp only
  split
  · rw [State.joinCopy_eq, State.modControl_modControl]
    exact ⟨_, rfl⟩
  · rw [State.modControl_modControl]
    exact ⟨_, rfl⟩

/-- The TRIM of an entry that left the roster is taken from the Control Queue, and all else stays (R154, R164). -/
theorem State.dropTrimAfter_eq (left : EntryState) : ∃ f : ControlQueue → ControlQueue,
    s.dropTrimAfter t h left = s.modControl t f := by
  unfold State.dropTrimAfter
  split
  · exact ⟨_, s.dropTrim_eq t h⟩
  · exact ⟨_, s.dropTrim_eq t h⟩
  all_goals exact ⟨id, (State.modTree_of_fixed rfl).symm⟩

end

/-- A message that is no TRIM for the handle joins a queue without one. -/
theorem mem_insertMessage {m x : QueuedMessage} {l : List QueuedMessage} : x ∈ insertMessage m l ↔ x = m ∨ x ∈ l := by
  induction l with
  | nil => simp [insertMessage]
  | cons y l ih =>
    unfold insertMessage
    split
    · exact List.mem_cons
    · rw [List.mem_cons, ih, List.mem_cons]
      tauto

theorem Entry.copyFor_isTrimFor (e : Entry) (j h : Nat) (kind : OwedKind) : (e.copyFor j kind).isTrimFor h = false := by
  cases kind <;> rfl

theorem Entry.joins_noTrim {e : Entry} {j h : Nat} {queue : List QueuedMessage}
    (hq : ∀ m ∈ queue, m.isTrimFor h = false) : ∀ m ∈ e.joins j queue, m.isTrimFor h = false := by
  intro m hm
  unfold Entry.joins at hm
  split at hm
  · rcases mem_insertMessage.1 hm with rfl | hm
    · exact e.copyFor_isTrimFor _ _ _
    · exact hq m hm
  · exact hq m hm

/-- The backlog holds no TRIM: a queue without a TRIM for the handle is filled without one. -/
theorem ControlQueue.filled_noTrim {q : ControlQueue} {h : Nat} (entry : Nat → Entry)
    (hq : ∀ m ∈ q.queue, m.isTrimFor h = false) : ∀ m ∈ (q.filled entry).queue, m.isTrimFor h = false := by
  have hfold : ∀ (l : List Nat) (queue : List QueuedMessage), (∀ m ∈ queue, m.isTrimFor h = false) →
      ∀ m ∈ l.foldl (fun queue j => (entry j).joins j queue) queue, m.isTrimFor h = false := by
    intro l
    induction l with
    | nil => exact fun _ h => h
    | cons j l ih => exact fun queue hqueue => ih _ (Entry.joins_noTrim hqueue)
  exact hfold _ _ hq

/-- A TRIM dropped leaves none for its handle (R154). -/
theorem State.dropTrim_noTrim (s : State) (t : TreeId) (h : Nat) :
    ∀ m ∈ ((s.dropTrim t h).tree t).control.queue, m.isTrimFor h = false := by
  rw [State.dropTrim_eq, State.tree_modControl, if_pos rfl]
  refine ControlQueue.filled_noTrim _ fun m hm => ?_
  simpa using (List.mem_filter.1 hm).2

/-! ## An entry that passes from state to state -/

/-- The entry of h is e but for a measure cycle; the other entries, the Mark Index and the Bar List are kept. -/
structure PassedTo (e : Entry) (h : Nat) (s u : State) : Prop where
  entry : sameButClaim e (u.entry h)
  others : othersKept h s u
  markIndex : u.markIndex = s.markIndex
  bars : u.bars = s.bars

section
variable {e : Entry} {h : Nat} {s u w : State}

theorem sameButClaim.of_eq {e f : Entry} (h : f = e) : sameButClaim e f := by subst h; rfl

theorem PassedTo.of_modEntry {f : Entry → Entry} (he : f (s.entry h) = e) (hf : e.state ≠ .free) :
    PassedTo e h s (s.modEntry h f) where
  entry := .of_eq (State.entry_modEntry_of_ne he hf)
  others j hj := by
    rw [State.entry_modEntry_ne _ _ _ _ hj]
    exact entryKept.rfl' _
  markIndex := rfl
  bars := rfl

theorem sameButClaim.state {e f : Entry} (h : sameButClaim e f) : f.state = e.state := by rw [h]

/-- What moves no more than measure cycles keeps the passage. -/
theorem PassedTo.claims (hp : PassedTo e h s u) (he : e.state ≠ .free) (hc : ClaimsOnly u w) : PassedTo e h s w where
  entry := hp.entry.trans (hc.entry_eq (by rw [hp.entry.state]; exact he))
  others j hj := (hp.others j hj).trans (hc.entries j)
  markIndex := hc.markIndex.trans hp.markIndex
  bars := hc.bars.trans hp.bars

/-- What leaves the Terminal Register and the Bar List keeps the passage. -/
theorem PassedTo.of_same (hp : PassedTo e h s u) (hentries : w.entries = u.entries)
    (hindex : w.markIndex = u.markIndex) (hbars : w.bars = u.bars) : PassedTo e h s w := by
  have hentry : ∀ j, w.entry j = u.entry j := fun j => by rw [State.entry, hentries, State.entry]
  exact ⟨by rw [hentry]; exact hp.entry, fun j hj => by rw [hentry]; exact hp.others j hj,
    hindex.trans hp.markIndex, hbars.trans hp.bars⟩

theorem PassedTo.writeEvent (hp : PassedTo e h s u) (kind : EventKind) (v : TreeId) (j : Nat)
    (extra : List EventWord) : PassedTo e h s (u.writeEvent kind v j extra) :=
  hp.of_same (State.entries_writeEvent ..) (State.markIndex_writeEvent ..) (State.bars_writeEvent ..)

end

section
variable (s : State) (t : TreeId) (h : Nat)

/-- A departure, but for its event (R165, R167). -/
theorem State.departEntry_passed (reason : DepartureReason) (sends : Nat) :
    PassedTo { (s.entry h).toDeparting reason with owed := some { kind := .release, sends := sends } } h s
        (s.departEntry t h reason sends)
      ∧ (s.departEntry t h reason sends).eventQueue = s.eventQueue := by
  obtain ⟨hentry, hothers, hindex, hbars, hqueue⟩ := s.departEntry_outcome t h reason sends
  exact ⟨⟨hentry, hothers, hindex, hbars⟩, hqueue⟩

/-- A hush (R165, R170, R178). -/
theorem State.hushEntry_passed (bySweep : Bool) :
    PassedTo { (s.entry h).toHushed bySweep with owed := some { kind := .hush, sends := 3 } } h s
        (s.hushEntry t h bySweep)
      ∧ wrote s (s.hushEntry t h bySweep) .hushed t h [halves (s.entry h).state.code (yesNo bySweep)] := by
  obtain ⟨hentry, hothers, hindex, hbars, hqueue⟩ := s.hushEntry_outcome t h bySweep
  exact ⟨⟨hentry, hothers, hindex, hbars⟩, hqueue⟩

/-- The passage into RERANGING: the new record, and RERANGE written with the delay held (R137). -/
theorem State.rerange_passed (origin : RangingOrigin) (reason : Nat) :
    PassedTo ((s.entry h).toReranging origin) h s (s.rerange t h origin reason)
      ∧ wrote s (s.rerange t h origin reason) .rerange t h [halves reason ((s.entry h).delay.getD 0)] := by
  let u := s.modEntry h fun e => e.toReranging origin
  have hu : PassedTo ((s.entry h).toReranging origin) h s u := .of_modEntry rfl nofun
  have hleft : ClaimsOnly u ((u.rosterLeft t h).dropTrim t h) := ((ClaimsOnly.refl u).rosterLeft h).dropTrim h
  let w := ((u.rosterLeft t h).dropTrim t h).writeEvent .rerange t h [halves reason ((s.entry h).delay.getD 0)]
  have hreq : ClaimsOnly w (w.requestRanging t h) := (ClaimsOnly.refl w).requestRanging h
  exact ⟨((hu.claims nofun hleft).writeEvent _ _ _ _).claims nofun hreq,
    wrote_of_writeEvent hleft.eventQueue hreq.eventQueue⟩

/-- A return from HUSHED to RERANGING (R171). -/
theorem State.unhushToReranging_passed :
    PassedTo { (s.entry h).toReranging .rerange with owed := some { kind := .unhush, sends := 1 } } h s
        (s.unhushToReranging t h)
      ∧ wrote s (s.unhushToReranging t h) .unhushed t h [oneField EntryState.reranging.code] := by
  let u := s.modEntry h fun e => e.toReranging .rerange
  obtain ⟨hentry, hothers, hindex, hbars, hqueue⟩ := State.passage s t h (fun e => e.toReranging .rerange) .unhush 1
    (by simp [Entry.toReranging]) (ClaimsOnly.refl _)
  have hpassed : PassedTo { (s.entry h).toReranging .rerange with owed := some { kind := .unhush, sends := 1 } } h s
      (u.recordOwed t h .unhush 1) := ⟨hentry, hothers, hindex, hbars⟩
  let w := (u.recordOwed t h .unhush 1).writeEvent .unhushed t h [oneField EntryState.reranging.code]
  have hreq : ClaimsOnly w (w.requestRanging t h) := (ClaimsOnly.refl w).requestRanging h
  exact ⟨(hpassed.writeEvent _ _ _ _).claims nofun hreq, wrote_of_writeEvent hqueue hreq.eventQueue⟩

/-- A return from HUSHED to REGISTERED: the new record as a whole, ROSTER and UNHUSHED (R171, R179). -/
theorem State.unhushToRegistered_outcome :
    let e := { (s.entry h).toUnhushedRegistered (s.tree t).n with owed := some { kind := .unhush, sends := 1 } }
    (s.unhushToRegistered t h).entry h = e ∧ PassedTo e h s (s.unhushToRegistered t h)
      ∧ wrote s (s.unhushToRegistered t h) .unhushed t h [oneField EntryState.registered.code]
      ∧ (s.outQueue.length < 512 → (s.unhushToRegistered t h).outQueue
        = s.outQueue ++ [.roster t h .registered ((s.entry h).termClass.getD 0)]) := by
  intro e
  obtain ⟨f, hf⟩ := (s.modEntry h fun e => e.toUnhushedRegistered (s.tree t).n).recordOwed_eq t h .unhush 1
  let v := s.modEntry h fun e => e.toUnhushedRegistered (s.tree t).n
  let owing : Entry → Entry := fun e => { e with owed := some { kind := .unhush, sends := 1 } }
  let u := (v.modEntry h owing).modControl t f
  have heq : s.unhushToRegistered t h
      = (u.rosterNotice t h .registered).writeEvent .unhushed t h [oneField EntryState.registered.code] := by
    rw [State.unhushToRegistered, hf]
  have hv : v.entry h = (s.entry h).toUnhushedRegistered (s.tree t).n := State.entry_modEntry _ _ _ nofun
  have hentry : u.entry h = e :=
    (State.entry_modEntry v h owing (by rw [hv]; exact nofun)).trans (congrArg owing hv)
  have hothers : ∀ j, j ≠ h → u.entry j = s.entry j := fun j hj =>
    (State.entry_modEntry_ne v h j owing hj).trans (State.entry_modEntry_ne s h j _ hj)
  have hsame : PassedTo e h s u := ⟨.of_eq hentry, fun j hj => by rw [hothers j hj]; exact entryKept.rfl' _, rfl, rfl⟩
  rw [heq]
  refine ⟨?_, (hsame.claims nofun ((ClaimsOnly.refl u).rosterNotice t h _)).writeEvent _ _ _ _, ?_, fun hroom => ?_⟩
  · rw [State.entry_writeEvent, State.rosterNotice, State.entry_makeFrame, hentry]
  · exact wrote_of_writeEvent (u := u.rosterNotice t h .registered) (State.eventQueue_makeFrame _ _) rfl
  · rw [State.outQueue_writeEvent, State.rosterNotice, State.outQueue_makeFrame (show u.outQueue.length < 512 from hroom),
      hentry]
    rfl

end

/-- A mark that joins the Mark Index names its handle; the other marks name what they named (R26). -/
theorem State.findMark_enterEntry {m : Mark} (hm : invalidMark m = false) (s : State) (h : Nat) (e : Entry) (o : Mark) :
    (s.enterEntry h m e).findMark o = if o = m then some h else s.findMark o := by
  have hset : (s.enterEntry h m e).markIndex = NumMap.set s.markIndex m.toNat h := rfl
  rw [State.findMark, State.findMark, hset, NumMap.get?_set]
  simp only [BitVec.toNat_inj]
  split
  · next h0 =>
    rw [if_neg]
    rintro rfl
    exact absurd (hm.symm.trans h0) nofun
  · rfl

end Sys2Proof.Machine
end

section
/-! PROOFS. The host commands on handles: RESERVE, RELEASE, HUSH, UNHUSH and FORCE_RANGE (R52, R138, R166, R170, R171), and
what the commands on handles leave alone. -/

namespace Sys2Proof.Machine

/-! ## RESERVE (R52) -/

section
variable {a : Quad Word} {m : Mark} {s : State} {t : TreeId} (ha : markOfWords a.q0 a.q1 a.q2 = m)
include ha

theorem judgeReserve_of_badArg (h : invalidMark m = true ∨ 512 ≤ a.q3.toNat) :
    judgeReserve a s = refusedWith s .badArg := by
  rw [judgeReserve, ha]
  exact if_pos h

variable (hargs : ¬(invalidMark m = true ∨ 512 ≤ a.q3.toNat))
include hargs

theorem judgeReserve_of_noTree (ht : s.treeOf a.q3.toNat = none) : judgeReserve a s = refusedWith s .notInWindow := by
  rw [judgeReserve, ha]
  exact (if_neg hargs).trans (by rw [ht])

variable (ht : s.treeOf a.q3.toNat = some t)
include ht

theorem judgeReserve_of_base (hb : a.q3.toNat = (s.tree t).config.windowBase) :
    judgeReserve a s = refusedWith s .notInWindow := by
  rw [judgeReserve, ha]
  refine (if_neg hargs).trans ?_
  rw [ht]
  exact if_pos hb

variable (hb : a.q3.toNat ≠ (s.tree t).config.windowBase)
include hb

theorem judgeReserve_of_notFree (hf : a.q3.toNat ∉ (s.tree t).freePool) :
    judgeReserve a s = refusedWith s .notFree := by
  rw [judgeReserve, ha]
  refine (if_neg hargs).trans ?_
  rw [ht]
  exact (if_neg hb).trans (if_pos (by simpa using hf))

variable (hf : a.q3.toNat ∈ (s.tree t).freePool)
include hf

theorem judgeReserve_of_known (hm : (s.findMark m).isSome = true) : judgeReserve a s = refusedWith s .markKnown := by
  rw [judgeReserve, ha]
  refine (if_neg hargs).trans ?_
  rw [ht]
  exact (if_neg hb).trans ((if_neg (by simpa using hf)).trans (if_pos hm))

theorem judgeReserve_of_unknown (hm : s.findMark m = none) :
    judgeReserve a s = doneWith ((s.modTree t fun x => { x with freePool := x.freePool.erase a.q3.toNat }).enterEntry
      a.q3.toNat m (Entry.toReserved m)) Quad.zero := by
  rw [judgeReserve, ha]
  refine (if_neg hargs).trans ?_
  rw [ht]
  exact (if_neg hb).trans ((if_neg (by simpa using hf)).trans (if_neg (by rw [hm]; exact nofun)))

end

/-- Settles O20: the refusals of RESERVE in their order, and what a taken one enters. -/
theorem reserveOutcome : Obligations.ReserveOutcome := by
  intro m handle s hfree args h
  have hexec : exec (.reserve m handle) s = .next ((s.written 16 args).goWith judgeReserve) := rfl
  have ha : markOfWords args.q0 args.q1 args.q2 = m := markOfWords_words_of_mark m
  rw [hexec]
  refine ⟨fun hbad => ?badArg, fun h0 h1 hh => ?valid⟩
  case badArg =>
    have hbad' : invalidMark m = true ∨ 512 ≤ args.q3.toNat := by
      rw [invalidMark_eq_true_iff, or_assoc]
      exact hbad
    rw [State.goWith_refused hfree (judgeReserve_of_badArg ha hbad')]
  case valid =>
    have hvalid := invalidMark_eq_false h0 h1
    have hargs : ¬(invalidMark m = true ∨ 512 ≤ args.q3.toNat) := by
      rw [hvalid]
      rintro (h | h)
      · exact Bool.noConfusion h
      · exact Nat.not_le.2 (Nat.lt_succ_of_le hh) h
    refine ⟨fun ht => ?noTree, fun k ht => ⟨fun hb => ?base, fun hb hf => ?notFree, fun hb hf hm => ?known,
      fun hb hf hm => ?reserved⟩⟩
    case noTree => rw [State.goWith_refused hfree (judgeReserve_of_noTree ha hargs ht)]
    case base => rw [State.goWith_refused hfree (judgeReserve_of_base ha hargs ht hb)]
    case notFree => rw [State.goWith_refused hfree (judgeReserve_of_notFree ha hargs ht hb hf)]
    case known => rw [State.goWith_refused hfree (judgeReserve_of_known ha hargs ht hb hf hm)]
    case reserved =>
      let u := (s.modTree k fun x => { x with freePool := x.freePool.erase h }).enterEntry h m (Entry.toReserved m)
      have hentry : ∀ j, u.entry j = if j = h then Entry.toReserved m else s.entry j := fun j =>
        State.entry_enterEntry _ h j m _ nofun
      have htree : ∀ v, u.tree v = if v = k then { s.tree k with freePool := (s.tree k).freePool.erase h } else s.tree v :=
        fun v => State.tree_modTree s k v fun x => { x with freePool := x.freePool.erase h }
      have hmark : ∀ o, u.findMark o = if o = m then some h else s.findMark o :=
        State.findMark_enterEntry hvalid _ h _
      have hdone := judgeReserve_of_unknown (s := s.written 16 args) ha hargs ht hb hf hm
      exact ⟨u, by rw [State.goWith_done (u := u) hfree hdone], (htree k).trans (if_pos rfl),
        fun v hv => (htree v).trans (if_neg hv), (hentry h).trans (if_pos rfl),
        fun j hj => (hentry j).trans (if_neg hj), (hmark m).trans (if_pos rfl),
        fun o ho => (hmark o).trans (if_neg ho), rfl, rfl, rfl⟩

/-! ## A command that names a handle whose entry must be in a state it takes -/

section
variable {w : Word} {s : State} {takes : EntryState → Bool} {act : TreeId → Nat → State}

theorem onEntry_of_lt (h : 511 < w.toNat) : onEntry w s takes act = refusedWith s .badArg := forHandle_of_lt s _ h

theorem onEntry_of_refused (h : w.toNat ≤ 511) (ht : takes (s.entry w.toNat).state = false) :
    onEntry w s takes act
      = { refusedWith s .wrongEntryState with results := words (wordOf (s.entry w.toNat).state.code) 0 0 0 } := by
  rw [onEntry, forHandle_of_le _ _ h]
  dsimp only
  rw [ht]
  rfl

theorem onEntry_of_taken {k : TreeId} (h : w.toNat ≤ 511) (ht : takes (s.entry w.toNat).state = true)
    (hk : s.treeOf w.toNat = some k) :
    onEntry w s takes act = doneWith (act k w.toNat) (words (wordOf (s.entry w.toNat).state.code) 0 0 0) := by
  rw [onEntry, forHandle_of_le _ _ h]
  dsimp only
  rw [ht, hk]
  rfl

end

theorem State.tellMonitor_of_notOwned {s : State} {t : TreeId} {h : Nat} {e : Entry} (he : e.sweepOwned ≠ some true) :
    s.tellMonitor t h e = s := if_neg (by simpa [Entry.isSweepOwned] using he)

/-! ## What a judged command leaves, said of the state before its words were written -/

section
variable {s u : State} {code : Nat} {args : Quad Word} (r : Option Running)

theorem PassedTo.of_command {e : Entry} {h : Nat} (hp : PassedTo e h (s.written code args) u) :
    PassedTo e h s { u with running := r } := ⟨hp.entry, hp.others, hp.markIndex, hp.bars⟩

theorem wrote.of_command {kind : EventKind} {k : TreeId} {h : Nat} {extra : List EventWord}
    (hw : wrote (s.written code args) u kind k h extra) : wrote s { u with running := r } kind k h extra :=
  fun hroom => hw hroom

theorem EngineFrame.of_command {t : TreeId} (hf : EngineFrame t (s.written code args) u) :
    ∀ v, v ≠ t → ({ u with running := r } : State).tree v = s.tree v := hf.others

theorem State.entry_of_command {h : Nat} {e : Entry} (he : u.entry h = e) :
    ({ u with running := r } : State).entry h = e := he

theorem State.outQueue_of_command {frames : List LinkFrame}
    (hu : (s.written code args).outQueue.length < 512 → u.outQueue = (s.written code args).outQueue ++ frames) :
    s.outQueue.length < 512 → ({ u with running := r } : State).outQueue = s.outQueue ++ frames := hu

end

/-! ## RELEASE (R166) -/

theorem EntryState.releasable_eq_true : ∀ {x : EntryState}, x ≠ .free → x ≠ .reserved → x ≠ .departing →
    x.releasable = true
  | .candidate, _, _, _ | .settling, _, _, _ | .registered, _, _, _ | .lost, _, _, _ | .reranging, _, _, _
  | .hushed, _, _, _ => rfl
  | .free, h, _, _ | .reserved, _, h, _ | .departing, _, _, h => absurd rfl h

/-- Settles O24: the refusals of RELEASE, and the departure of an entry it takes. -/
theorem releaseOutcome : Obligations.ReleaseOutcome := by
  intro handle s hfree h found
  let a := oneArg s handle
  have hexec : exec (.release handle) s = .next ((s.written 20 a).goWith judgeRelease) := rfl
  rw [hexec]
  refine ⟨fun hh => ?badArg, fun hh hs => ?refused, fun k hh hf hr hd ho hk => ?taken⟩
  case badArg => rw [State.goWith_refused hfree (onEntry_of_lt hh)]
  case refused =>
    have htakes : (s.entry h).state.releasable = false := by rcases hs with hs | hs | hs <;> rw [hs] <;> rfl
    rw [State.goWith_refused hfree (onEntry_of_refused (s := s.written 20 a) hh htakes)]
    rfl
  case taken =>
    have hdone := onEntry_of_taken (w := handle) (s := s.written 20 a) (takes := EntryState.releasable)
      (act := fun t h => ((s.written 20 a).departEntry t h .host 3).tellMonitor t h ((s.written 20 a).entry h))
      hh (EntryState.releasable_eq_true hf hr hd) hk
    rw [State.tellMonitor_of_notOwned (e := (s.written 20 a).entry handle.toNat) ho] at hdone
    obtain ⟨hpassed, hqueue⟩ := (s.written 20 a).departEntry_passed k h .host 3
    have hframe := (EngineFrame.refl k (s.written 20 a)).departEntry h .host 3
    rw [State.goWith_written hfree hdone]
    have hp := hpassed.of_command (some (ran 20 a .done found))
    exact ⟨_, rfl, hp.entry, hqueue, hp.bars, hp.markIndex, hp.others, hframe.of_command _, rfl⟩

/-! ## HUSH (R170) -/

theorem EntryState.hushable_eq_true : ∀ {x : EntryState}, x ≠ .free → x ≠ .reserved → x ≠ .hushed →
    x ≠ .departing → x.hushable = true
  | .candidate, _, _, _, _ | .settling, _, _, _, _ | .registered, _, _, _, _ | .lost, _, _, _, _
  | .reranging, _, _, _, _ => rfl
  | .free, h, _, _, _ | .reserved, _, h, _, _ | .hushed, _, _, h, _ | .departing, _, _, _, h => absurd rfl h

/-- Settles O25: the refusals of HUSH, and the passage into HUSHED of an entry it takes. -/
theorem hushOutcome : Obligations.HushOutcome := by
  intro handle s hfree h found
  let a := oneArg s handle
  have hexec : exec (.hush handle) s = .next ((s.written 21 a).goWith judgeHush) := rfl
  rw [hexec]
  refine ⟨fun hh => ?badArg, fun hh hs => ?refused, fun k hh hf hr hu hd hk => ?taken⟩
  case badArg => rw [State.goWith_refused hfree (onEntry_of_lt hh)]
  case refused =>
    have htakes : (s.entry h).state.hushable = false := by rcases hs with hs | hs | hs | hs <;> rw [hs] <;> rfl
    rw [State.goWith_refused hfree (onEntry_of_refused (s := s.written 21 a) hh htakes)]
    rfl
  case taken =>
    have hdone := onEntry_of_taken (w := handle) (s := s.written 21 a) (takes := EntryState.hushable)
      (act := fun t h => (s.written 21 a).hushEntry t h false) hh (EntryState.hushable_eq_true hf hr hu hd) hk
    obtain ⟨hpassed, hwrote⟩ := (s.written 21 a).hushEntry_passed k h false
    have hframe := (EngineFrame.refl k (s.written 21 a)).hushEntry h false
    rw [State.goWith_written hfree hdone]
    have hp := hpassed.of_command (some (ran 21 a .done found))
    exact ⟨_, rfl, hp.entry, hwrote.of_command _, hp.bars, hp.markIndex, hp.others, hframe.of_command _, rfl⟩

/-! ## UNHUSH (R171) -/

section
variable {a : Quad Word} {s : State} {k : TreeId}

theorem judgeUnhush_of_refused (hh : a.q0.toNat ≤ 511) (hs : (s.entry a.q0.toNat).state ≠ .hushed) :
    judgeUnhush a s = refusedWith s .wrongEntryState := by
  rw [judgeUnhush, forHandle_of_le _ _ hh]
  split
  · next h _ => exact absurd h hs
  · rfl

theorem judgeUnhush_of_hushed (hh : a.q0.toNat ≤ 511) (hs : (s.entry a.q0.toNat).state = .hushed)
    (hk : s.treeOf a.q0.toNat = some k) :
    judgeUnhush a s = doneWith ((s.unhushEntry k a.q0.toNat).tellMonitor k a.q0.toNat (s.entry a.q0.toNat))
      (words (wordOf (s.entry a.q0.toNat).unhushedState.code) 0 0 0) := by
  rw [judgeUnhush, forHandle_of_le _ _ hh, hs, hk]
  rfl

end

/-- Settles O26: the refusals of UNHUSH, and the two paths out of HUSHED. -/
theorem unhushOutcome : Obligations.UnhushOutcome := by
  intro handle s hfree h
  let a := oneArg s handle
  have hexec : exec (.unhush handle) s = .next ((s.written 22 a).goWith judgeUnhush) := rfl
  rw [hexec]
  refine ⟨fun hh => ?badArg, fun hh hs => ?refused, fun k hh hs ho hk => ?taken⟩
  case badArg => rw [State.goWith_refused hfree (forHandle_of_lt _ _ hh)]
  case refused => rw [State.goWith_refused hfree (judgeUnhush_of_refused (a := a) (s := s.written 22 a) hh hs)]
  case taken =>
    have hdone := judgeUnhush_of_hushed (a := a) (s := s.written 22 a) hh hs hk
    rw [State.tellMonitor_of_notOwned (e := (s.written 22 a).entry a.q0.toNat) ho, State.unhushEntry,
      Entry.unhushedState] at hdone
    refine ⟨fun hd => ?registered, fun hd => ?reranging⟩
    case registered =>
      have hd' : ((s.written 22 a).entry a.q0.toNat).delay.isSome = true := hd
      rw [if_pos hd', if_pos hd'] at hdone
      obtain ⟨hentry, hpassed, hwrote, hroster⟩ := (s.written 22 a).unhushToRegistered_outcome k h
      have hframe := (EngineFrame.refl k (s.written 22 a)).unhushToRegistered h
      rw [State.goWith_written hfree hdone]
      have hp := hpassed.of_command (some (ran 22 a .done (words 4 0 0 0)))
      exact ⟨_, rfl, State.entry_of_command _ hentry, hwrote.of_command _, State.outQueue_of_command _ hroster, hp.bars,
        hp.markIndex, hp.others, hframe.of_command _, rfl⟩
    case reranging =>
      have hd' : ¬((s.written 22 a).entry a.q0.toNat).delay.isSome = true := by
        rw [show ((s.written 22 a).entry a.q0.toNat).delay = none from hd]
        exact nofun
      rw [if_neg hd', if_neg hd'] at hdone
      obtain ⟨hpassed, hwrote⟩ := (s.written 22 a).unhushToReranging_passed k h
      have hframe := (EngineFrame.refl k (s.written 22 a)).unhushToReranging h
      rw [State.goWith_written hfree hdone]
      have hp := hpassed.of_command (some (ran 22 a .done (words 6 0 0 0)))
      exact ⟨_, rfl, hp.entry, hwrote.of_command _, hp.bars, hp.markIndex, hp.others, hframe.of_command _, rfl⟩

/-! ## FORCE_RANGE (R138) -/

theorem Entry.inRoster_eq (e : Entry) : e.inRoster = e.state.rostered := by
  unfold Entry.inRoster
  cases e.state <;> rfl

/-- Settles O27: the refusals of FORCE_RANGE, and the passage into RERANGING of a rostered entry. -/
theorem forceRangeOutcome : Obligations.ForceRangeOutcome := by
  intro handle s hfree h found
  let a := oneArg s handle
  have hexec : exec (.forceRange handle) s = .next ((s.written 23 a).goWith judgeForceRange) := rfl
  rw [hexec]
  refine ⟨fun hh => ?badArg, fun hh hs => ?refused, fun k hh hs hk => ?taken⟩
  case badArg => rw [State.goWith_refused hfree (onEntry_of_lt hh)]
  case refused =>
    have htakes : (s.entry h).state.rostered = false := (Entry.inRoster_eq _).symm.trans hs
    rw [State.goWith_refused hfree (onEntry_of_refused (s := s.written 23 a) hh htakes)]
    rfl
  case taken =>
    have htakes : (s.entry h).state.rostered = true := (Entry.inRoster_eq _).symm.trans hs
    have hdone := onEntry_of_taken (w := handle) (s := s.written 23 a) (takes := EntryState.rostered)
      (act := fun t h => (s.written 23 a).rerange t h .forced rerangeForced) hh htakes hk
    obtain ⟨hpassed, hwrote⟩ := (s.written 23 a).rerange_passed k h .forced rerangeForced
    have hframe := (EngineFrame.refl k (s.written 23 a)).rerange h .forced rerangeForced
    rw [State.goWith_written hfree hdone]
    have hp := hpassed.of_command (some (ran 23 a .done found))
    exact ⟨_, rfl, hp.entry, hwrote.of_command _, hp.bars, hp.markIndex, hp.others, hframe.of_command _, rfl⟩

end Sys2Proof.Machine
end

section
/-! PROOFS. What the commands on handles and the sweep leave alone, and what the reading commands change (R34, R35, R45, R84,
R165, R170, R177, R182, R188). -/

namespace Sys2Proof.Machine

/-! ## The Bar List under the judgements -/

section
variable (a : Quad Word) (s : State)

theorem onEntry_bars {w : Word} {takes : EntryState → Bool} {act : TreeId → Nat → State}
    (h : ∀ t j, (act t j).bars = s.bars) : (onEntry w s takes act).state.bars = s.bars := by
  refine forHandle_state (P := fun u => u.bars = s.bars) rfl fun j => ?_
  dsimp only
  split
  · exact h _ _
  · rfl

@[simp] theorem State.bars_tellMonitor (t : TreeId) (h : Nat) (e : Entry) : (s.tellMonitor t h e).bars = s.bars := by
  unfold State.tellMonitor
  split
  · exact s.bars_sweepOverride t h
  · rfl

@[simp] theorem State.bars_unhushEntry (t : TreeId) (h : Nat) : (s.unhushEntry t h).bars = s.bars := by
  unfold State.unhushEntry
  split
  · exact s.bars_unhushToRegistered t h
  · exact s.bars_unhushToReranging t h

theorem judgeReserve_bars : (judgeReserve a s).state.bars = s.bars := by
  unfold judgeReserve
  dsimp only
  repeat' split
  all_goals rfl

theorem judgeUnreserve_bars : (judgeUnreserve a s).state.bars = s.bars := by
  refine forHandle_state (P := fun u => u.bars = s.bars) rfl fun j => ?_
  split <;> rfl

theorem judgeRelease_bars : (judgeRelease a s).state.bars = s.bars := onEntry_bars s fun t j => by
  rw [State.bars_tellMonitor, State.bars_departEntry]

theorem judgeHush_bars : (judgeHush a s).state.bars = s.bars := onEntry_bars s fun t j => s.bars_hushEntry t j false

theorem judgeForceRange_bars : (judgeForceRange a s).state.bars = s.bars :=
  onEntry_bars s fun t j => s.bars_rerange t j .forced rerangeForced

theorem judgeUnhush_bars : (judgeUnhush a s).state.bars = s.bars := by
  refine forHandle_state (P := fun u => u.bars = s.bars) rfl fun j => ?_
  split
  · exact (State.bars_tellMonitor _ _ _ _).trans (State.bars_unhushEntry _ _ _)
  · rfl

theorem judgeSweepStart_bars : (judgeSweepStart a s).state.bars = s.bars := by
  unfold judgeSweepStart
  dsimp only
  split
  · rfl
  · refine forTree_state (P := fun u => u.bars = s.bars) rfl fun t => ?_
    split
    · rfl
    · split
      · rfl
      · split
        · rfl
        · exact s.bars_sweepStep _ _ _ _

theorem judgeSweepAbort_bars : (judgeSweepAbort a s).state.bars = s.bars := by
  refine forTree_state (P := fun u => u.bars = s.bars) rfl fun t => ?_
  split
  · exact s.bars_sweepAbort t _
  · rfl

end

/-! ## The frame of the commands on handles -/

/-- What the commands on handles and the sweep leave unchanged. -/
structure HandleFrame (s t : State) : Prop where
  partLock : t.partLock = s.partLock
  bars : t.bars = s.bars
  linkUp : t.linkUp = s.linkUp
  silenceTimer : t.silenceTimer = s.silenceTimer
  sending : t.sending = s.sending
  transmitterHold : t.transmitterHold = s.transmitterHold
  linkCheckErrors : t.linkCheckErrors = s.linkCheckErrors
  enables : t.enables = s.enables
  half : t.half = s.half
  status : t.status = s.status
  results : t.results = s.results
  events : ∃ more, t.eventQueue = s.eventQueue ++ more
  frames : ∃ more, t.outQueue = s.outQueue ++ more
  trees : ∀ k, TreeKept (s.tree k) (t.tree k)

theorem HandleFrame.of_engine {k : TreeId} {s u : State} (h : EngineFrame k s u) (hb : u.bars = s.bars) :
    HandleFrame s u where
  partLock := congrArg PortPart.partLock h.port
  bars := hb
  linkUp := congrArg PortPart.linkUp h.port
  silenceTimer := congrArg PortPart.silenceTimer h.port
  sending := congrArg PortPart.sending h.port
  transmitterHold := congrArg PortPart.transmitterHold h.port
  linkCheckErrors := congrArg PortPart.linkCheckErrors h.port
  enables := congrArg PortPart.enables h.port
  half := congrArg PortPart.half h.port
  status := congrArg PortPart.status h.port
  results := congrArg PortPart.results h.port
  events := h.events
  frames := h.frames
  trees v := by
    by_cases hv : v = k
    · rw [hv]; exact h.tree
    · rw [h.others v hv]; exact TreeKept.rfl' _

theorem HandleFrame.of_command {s u : State} {code : Nat} {args : Quad Word} (h : HandleFrame (s.written code args) u)
    (r : Option Running) (i : PartIndications) : HandleFrame s { u with running := r, indications := i } :=
  ⟨h.partLock, h.bars, h.linkUp, h.silenceTimer, h.sending, h.transmitterHold, h.linkCheckErrors, h.enables, h.half,
    h.status, h.results, h.events, h.frames, h.trees⟩

/-- A judgement within the frame, taken or refused while BUSY. -/
theorem HandleFrame.goWith {judge : Quad Word → State → Judged} (s : State) (code : Nat) (args : Quad Word)
    (hf : ∃ k, EngineFrame k (s.written code args) (judge args (s.written code args)).state)
    (hb : (judge args (s.written code args)).state.bars = s.bars) :
    HandleFrame s ((s.written code args).goWith judge) := by
  obtain ⟨k, hf⟩ := hf
  cases hr : s.running with
  | none =>
    have hw : (s.written code args).running = none := hr
    rw [State.goWith_free judge hw]
    exact (HandleFrame.of_engine hf hb).of_command _ _
  | some r =>
    have hw : (s.written code args).running.isSome = true := (congrArg Option.isSome hr).trans rfl
    rw [State.goWith_busy judge hw]
    exact (HandleFrame.of_engine (EngineFrame.refl 0 _) rfl).of_command _ _

theorem engineOnly.exists_frame {s u : State} (h : engineOnly s u) : ∃ k, EngineFrame k s u := by
  obtain rfl | ⟨t, -, h⟩ := h
  · exact ⟨0, .refl 0 _⟩
  · exact ⟨t, h⟩

theorem judgeSweepAbort_exists_frame (a : Quad Word) (s : State) :
    ∃ k, EngineFrame k s (judgeSweepAbort a s).state := by
  obtain h | ⟨t, -, h⟩ := judgeSweepAbort_frame a s
  · rw [h]; exact ⟨0, .refl 0 s⟩
  · exact ⟨t, h⟩

theorem exec_handleFrame {c : Instr} {s t : State}
    (hc : c matches .reserve .. | .unreserve _ | .release _ | .hush _ | .unhush _ | .forceRange _ | .sweepStart ..
      | .sweepAbort _) (h : exec c s = .next t) : HandleFrame s t := by
  cases c
  case reserve m w =>
    obtain rfl := Host.Outcome.next.inj h
    exact .goWith s 16 (words (markUpper m) (markMiddle m) (markLower m) w) (judgeReserve_frame _ _).exists_frame
      (judgeReserve_bars _ _)
  case unreserve w =>
    obtain rfl := Host.Outcome.next.inj h
    exact .goWith s 17 (oneArg s w) (judgeUnreserve_frame _ _).exists_frame (judgeUnreserve_bars _ _)
  case release w =>
    obtain rfl := Host.Outcome.next.inj h
    exact .goWith s 20 (oneArg s w) (judgeRelease_frame _ _).exists_frame (judgeRelease_bars _ _)
  case hush w =>
    obtain rfl := Host.Outcome.next.inj h
    exact .goWith s 21 (oneArg s w) (judgeHush_frame _ _).exists_frame (judgeHush_bars _ _)
  case unhush w =>
    obtain rfl := Host.Outcome.next.inj h
    exact .goWith s 22 (oneArg s w) (judgeUnhush_frame _ _).exists_frame (judgeUnhush_bars _ _)
  case forceRange w =>
    obtain rfl := Host.Outcome.next.inj h
    exact .goWith s 23 (oneArg s w) (judgeForceRange_frame _ _).exists_frame (judgeForceRange_bars _ _)
  case sweepStart w d =>
    obtain rfl := Host.Outcome.next.inj h
    exact .goWith s 40 (words w d s.args.q2 s.args.q3) (judgeSweepStart_frame _ _).exists_frame (judgeSweepStart_bars _ _)
  case sweepAbort w =>
    obtain rfl := Host.Outcome.next.inj h
    exact .goWith s 41 (oneArg s w) (judgeSweepAbort_exists_frame _ _) (judgeSweepAbort_bars _ _)
  all_goals exact Bool.noConfusion hc

/-! ## The reading commands -/

/-- A judgement that changes no state leaves no more than a command in the mailbox and BUSY set. -/
theorem State.goWith_reads {judge : Quad Word → State → Judged} {s t : State} {code : Nat} {args : Quad Word}
    (hfree : s.running = none) (hj : (judge args (s.written code args)).state = s.written code args)
    (ht : (s.written code args).goWith judge = t) :
    t = { s with commandCode := t.commandCode, args := t.args, running := t.running } := by
  have hw : (s.written code args).running = none := hfree
  have hargs : (s.written code args).args = args := rfl
  rw [State.goWith_free judge hw, State.runCommand, hargs, hj] at ht
  subst ht
  rfl

/-- Settles O29: the engines' frame for the commands on handles, and the three kinds of reading command. -/
theorem handleCommandsFrame : Obligations.HandleCommandsFrame := by
  refine ⟨fun c s t hc h => ?handles, fun c s t hc hfree h => ?reads, fun tree number clear s t hfree h => ?counters⟩
  case handles =>
    have hf := exec_handleFrame hc h
    exact ⟨hf.partLock, hf.bars, hf.linkUp, hf.silenceTimer, hf.sending, hf.transmitterHold, hf.linkCheckErrors,
      hf.enables, hf.half, hf.status, hf.results, hf.events, hf.frames, fun k => by
        obtain ⟨hstate, hconfig, htuning, hpending, hn, henables, hquiet⟩ := hf.trees k
        exact ⟨hconfig, htuning, hpending, hstate, hn, henables, hquiet⟩⟩
  case reads =>
    cases c
    case readEntry w p =>
      exact State.goWith_reads (code := 24) (args := words w p s.args.q2 s.args.q3) hfree (judgeReadEntry_state _ _)
        (Host.Outcome.next.inj h)
    case findMark m =>
      exact State.goWith_reads (code := 25) (args := markArgs s m) hfree (judgeFindMark_state _ _)
        (Host.Outcome.next.inj h)
    case readSlot w o i p =>
      exact State.goWith_reads (code := 32) (args := words w o i p) hfree (judgeReadSlot_state _ _)
        (Host.Outcome.next.inj h)
    all_goals exact Bool.noConfusion hc
  case counters =>
    let args := words tree number clear s.args.q3
    have hw : (s.written 33 args).running = none := hfree
    have ht : (s.written 33 args).goWith judgeReadCounters = t := Host.Outcome.next.inj h
    rw [State.goWith_free judgeReadCounters hw, State.runCommand] at ht
    rcases judgeReadCounters_state args (s.written 33 args) with ⟨v, f, hstate⟩ | ⟨link, report, frames, hstate⟩
    · rw [show (s.written 33 args).args = args from rfl, hstate] at ht
      refine ⟨s.modTree v fun x => { x with counters := f x }, ?_, rfl, fun k => ?_⟩
      · subst ht; rfl
      · rw [State.tree_modTree]
        split
        · next hk => rw [hk]
        · rfl
    · rw [show (s.written 33 args).args = args from rfl, hstate] at ht
      refine ⟨{ s with linkCheckErrors := link, reportErrors := report, framesDropped := frames }, ?_, rfl, fun k => rfl⟩
      subst ht
      rfl

end Sys2Proof.Machine
end

section
/-! PROOFS. The words that the reading commands give: READ_ENTRY, FIND_MARK, READ_SLOT and READ_COUNTERS (R34, R35, R84,
R187, R188). -/

namespace Sys2Proof.Machine

/-! ## The fields of a word (R187) -/

@[simp] theorem packWord_toNat (fields : List Nat) : (packWord fields).toNat = fields.sum % 65536 := BitVec.toNat_ofNat _ _

@[simp] theorem wordOf_toNat_eq (v : Nat) : (wordOf v).toNat = v % 65536 := BitVec.toNat_ofNat _ _

theorem yesNo_lt (b : Bool) : yesNo b < 2 := by cases b <;> decide

theorem EntryState.code_lt (x : EntryState) : x.code < 16 := by cases x <;> decide

theorem trimCode_lt (x : Option TrimState) : trimCode x < 4 := by
  rcases x with _ | _ | _ | _ <;> simp [trimCode]

theorem RangingOrigin.code_lt (x : Option RangingOrigin) : (x.map RangingOrigin.code).getD 0 < 4 := by
  rcases x with _ | _ | _ | _ <;> decide

theorem OwedKind.code_lt (x : Option Owed) : (x.map fun o => o.kind.code).getD 0 < 4 := by
  rcases x with _ | ⟨_ | _ | _, _⟩ <;> simp [OwedKind.code]

theorem DepartureReason.code_lt (x : Option DepartureReason) : (x.map DepartureReason.code).getD 0 < 4 := by
  rcases x with _ | _ | _ | _ | _ <;> decide

/-! ## READ_ENTRY (R34, R187) -/

theorem Entry.page0_q0 (e : Entry) {tree : Nat} {t : Option TreeId} (hfree : e.state = .free ∨ t = none → tree = 4)
    (hheld : ∀ k : TreeId, e.state ≠ .free → t = some k → tree = k.val) :
    (e.page0 t).q0.toNat = e.state.code * 2 ^ 12 + tree * 2 ^ 9 + yesNo (e.reservedByHost.getD false) * 2 ^ 8
      + e.termClass.getD 0 % 8 * 2 ^ 5 + yesNo e.reservedByHost.isSome * 4 + yesNo e.termClass.isSome * 2
      + yesNo e.mark.isSome := by
  have htree : treeNumber (if e.state = .free then none else t) = tree := by
    split
    · next h => exact (hfree (Or.inl h)).symm
    · next h =>
      cases t with
      | none => exact (hfree (Or.inr rfl)).symm
      | some k => exact (hheld k h rfl).symm
  have hbound : tree < 8 := by
    rw [← htree]
    cases (if e.state = .free then none else t) with
    | none => decide
    | some k => exact k.isLt.trans (by decide)
  have hcode := e.state.code_lt
  have h1 := yesNo_lt (e.reservedByHost.getD false)
  have h2 := yesNo_lt e.reservedByHost.isSome
  have h3 := yesNo_lt e.termClass.isSome
  have h4 := yesNo_lt e.mark.isSome
  simp only [Entry.page0, words, packWord_toNat, fieldAt, presenceFlags, flagField, htree, List.sum_cons, List.sum_nil,
    List.foldl_cons, List.foldl_nil]
  omega

theorem Entry.page0_mark (e : Entry) (t : Option TreeId) :
    (e.page0 t).q1 ++ (e.page0 t).q2 ++ (e.page0 t).q3 = e.mark.getD 0 := markOfWords_words_of_mark _

theorem Entry.page1_q1 (e : Entry) : e.page1.q1.toNat = e.generation.getD 0 % 8 * 2 ^ 13 + e.missCount.getD 0 % 16 * 2 ^ 9
    + yesNo (e.probeInFlight.getD false) * 2 ^ 8 + trimCode e.trim * 2 ^ 6
    + yesNo e.delay.isSome * 16 + yesNo e.generation.isSome * 8 + yesNo e.missCount.isSome * 4
    + yesNo e.probeInFlight.isSome * 2 + yesNo e.driftPending.isSome := by
  have h0 := trimCode_lt e.trim
  have h1 := yesNo_lt (e.probeInFlight.getD false)
  have h2 := yesNo_lt e.delay.isSome
  have h3 := yesNo_lt e.generation.isSome
  have h4 := yesNo_lt e.missCount.isSome
  have h5 := yesNo_lt e.probeInFlight.isSome
  have h6 := yesNo_lt e.driftPending.isSome
  simp only [Entry.page1, words, packWord_toNat, fieldAt, presenceFlags, flagField, List.sum_cons, List.sum_nil,
    List.foldl_cons, List.foldl_nil]
  omega

theorem Entry.page2_q1 (e : Entry) : e.page2.q1.toNat = e.measureAttempts.getD 0 % 8 * 2 ^ 13
    + (e.origin.map RangingOrigin.code).getD 0 * 2 ^ 11 + e.settleAttempts.getD 0 % 4 * 2 ^ 9
    + yesNo e.lastSample.isSome * 64 + yesNo e.measureAttempts.isSome * 32 + yesNo e.origin.isSome * 16
    + yesNo e.measureCycle.isSome * 8 + yesNo e.settleSample.isSome * 4 + yesNo e.settleAttempts.isSome * 2
    + yesNo e.settleEchoCycle.isSome := by
  have h0 := RangingOrigin.code_lt e.origin
  have h1 := yesNo_lt e.lastSample.isSome
  have h2 := yesNo_lt e.measureAttempts.isSome
  have h3 := yesNo_lt e.origin.isSome
  have h4 := yesNo_lt e.measureCycle.isSome
  have h5 := yesNo_lt e.settleSample.isSome
  have h6 := yesNo_lt e.settleAttempts.isSome
  have h7 := yesNo_lt e.settleEchoCycle.isSome
  simp only [Entry.page2, words, packWord_toNat, fieldAt, presenceFlags, List.sum_cons, List.sum_nil,
    List.foldl_cons, List.foldl_nil]
  omega

theorem Entry.page3_q3 (e : Entry) : e.page3.q3.toNat = (e.owed.map fun o => o.kind.code).getD 0 * 2 ^ 14
    + (e.owed.map Owed.sends).getD 0 % 4 * 2 ^ 12 + (e.reason.map DepartureReason.code).getD 0 * 2 ^ 10
    + yesNo (e.sweepOwned.getD false) * 2 ^ 9 + yesNo (e.leavingSeen.getD false) * 2 ^ 8
    + yesNo e.lastObserved.isSome * 64 + yesNo e.lostSince.isSome * 32 + yesNo e.graceCount.isSome * 16
    + yesNo e.owed.isSome * 8 + yesNo e.reason.isSome * 4 + yesNo e.sweepOwned.isSome * 2
    + yesNo e.leavingSeen.isSome := by
  have h0 := OwedKind.code_lt e.owed
  have h1 := DepartureReason.code_lt e.reason
  have h2 := yesNo_lt (e.sweepOwned.getD false)
  have h3 := yesNo_lt (e.leavingSeen.getD false)
  have h4 := yesNo_lt e.lastObserved.isSome
  have h5 := yesNo_lt e.lostSince.isSome
  have h6 := yesNo_lt e.graceCount.isSome
  have h7 := yesNo_lt e.owed.isSome
  have h8 := yesNo_lt e.reason.isSome
  have h9 := yesNo_lt e.sweepOwned.isSome
  have h10 := yesNo_lt e.leavingSeen.isSome
  simp only [Entry.page3, words, packWord_toNat, fieldAt, presenceFlags, flagField, List.sum_cons, List.sum_nil,
    List.foldl_cons, List.foldl_nil]
  omega

/-- The four words of a page of READ_ENTRY. -/
def Entry.page (e : Entry) (t : Option TreeId) : Nat → Quad Word
  | 0 => e.page0 t
  | 1 => e.page1
  | 2 => e.page2
  | _ => e.page3

theorem judgeReadEntry_of_badArg {a : Quad Word} {s : State} (h : 511 < a.q0.toNat ∨ 3 < a.q1.toNat) :
    judgeReadEntry a s = refusedWith s .badArg := by
  by_cases hh : 511 < a.q0.toNat
  · exact forHandle_of_lt _ _ hh
  · rw [judgeReadEntry, forHandle_of_le _ _ (Nat.not_lt.1 hh)]
    dsimp only
    split
    case h_5 => rfl
    all_goals omega

theorem judgeReadEntry_of_page {a : Quad Word} {s : State} (hh : a.q0.toNat ≤ 511) (hp : a.q1.toNat ≤ 3) :
    judgeReadEntry a s
      = doneWith s ((s.entry a.q0.toNat).page (s.treeOf a.q0.toNat) a.q1.toNat) := by
  rw [judgeReadEntry, forHandle_of_le _ _ hh]
  have hpage : a.q1.toNat = 0 ∨ a.q1.toNat = 1 ∨ a.q1.toNat = 2 ∨ a.q1.toNat = 3 := by omega
  rcases hpage with h | h | h | h <;> rw [h] <;> rfl

/-! ## FIND_MARK (R35, R187) -/

section
variable {s : State} {m : Mark}

theorem State.indexAnswer_of_none (h : s.findMark m = none) : s.indexAnswer m = (0, 0) := by
  rw [State.indexAnswer, h]

theorem State.indexAnswer_of_some {h : Nat} (hm : s.findMark m = some h) :
    (s.indexAnswer m).1.toNat = 2 ^ 15 + (s.entry h).state.code * 2 ^ 11 + treeNumber (s.treeOf h) % 4 * 2 ^ 9
      ∧ (s.indexAnswer m).2 = wordOf h := by
  rw [State.indexAnswer, hm]
  have hcode := (s.entry h).state.code_lt
  refine ⟨?_, rfl⟩
  simp only [packWord_toNat, fieldAt, List.sum_cons, List.sum_nil]
  omega

theorem State.barAnswer_of_none (h : s.findBar m = none) : s.barAnswer m = (0, 0) := by
  rw [State.barAnswer, h]
  rfl

theorem State.barAnswer_of_permanent {b : BarRecord} (h : s.findBar m = some b) (hb : b.kind = .permanent) :
    s.barAnswer m = (0x4000, 0) := by
  rw [State.barAnswer, h, Option.map_some, hb]
  rfl

theorem State.barAnswer_of_timed {b : BarRecord} {k : TreeId} {n c : Nat} (h : s.findBar m = some b)
    (hb : b.kind = .timed k n c) :
    (s.barAnswer m).1.toNat = 2 ^ 15 + k.val * 2 ^ 12 ∧ (s.barAnswer m).2 = wordOf n := by
  rw [State.barAnswer, h, Option.map_some, hb]
  have hk := k.isLt
  refine ⟨?_, rfl⟩
  simp only [packWord_toNat, fieldAt, List.sum_cons, List.sum_nil]
  omega

theorem judgeFindMark_of_invalid {a : Quad Word} (ha : markOfWords a.q0 a.q1 a.q2 = m) (hm : invalidMark m = true) :
    judgeFindMark a s = refusedWith s .badArg := by
  rw [judgeFindMark, ha]
  exact if_pos hm

theorem judgeFindMark_of_valid {a : Quad Word} (ha : markOfWords a.q0 a.q1 a.q2 = m) (hm : invalidMark m = false) :
    judgeFindMark a s
      = doneWith s (words (s.indexAnswer m).1 (s.indexAnswer m).2 (s.barAnswer m).1 (s.barAnswer m).2) := by
  rw [judgeFindMark, ha]
  exact if_neg (by rw [hm]; exact nofun)

end

/-- Settles O30: the four pages of READ_ENTRY, and the two answers of FIND_MARK. -/
theorem readEntryAndFindMarkOutcome : Obligations.ReadEntryAndFindMarkOutcome := by
  refine ⟨fun handle page s hfree => ?readEntry, fun m s hfree => ?findMark⟩
  case readEntry =>
    intro args e
    have hexec : exec (.readEntry handle page) s = .next ((s.written 24 args).goWith judgeReadEntry) := rfl
    rw [hexec]
    refine ⟨fun hbad => ?badArg, fun hh hp => ?page⟩
    case badArg => rw [State.goWith_refused hfree (judgeReadEntry_of_badArg hbad)]
    case page =>
      have hdone := judgeReadEntry_of_page (a := args) (s := s.written 24 args) hh hp
      refine ⟨e.page (s.treeOf handle.toNat) page.toNat, ?_, fun h0 => ?p0, fun h1 => ?p1, fun h2 => ?p2, fun h3 => ?p3⟩
      · rw [State.goWith_done (u := s) hfree hdone]
        rfl
      case p0 =>
        subst h0
        exact ⟨fun tree hnone hsome => e.page0_q0 hnone hsome, e.page0_mark _⟩
      case p1 =>
        subst h1
        exact ⟨rfl, e.page1_q1, rfl, rfl⟩
      case p2 =>
        subst h2
        refine ⟨rfl, e.page2_q1.trans ?_, rfl, rfl⟩
        rcases e.origin with _ | _ | _ | _ <;> rfl
      case p3 =>
        subst h3
        refine ⟨rfl, rfl, rfl, e.page3_q3.trans ?_⟩
        rcases e.owed with _ | ⟨_ | _ | _, _⟩ <;> rcases e.reason with _ | _ | _ | _ | _ <;> rfl
  case findMark =>
    let a := markArgs s m
    have hexec : exec (.findMark m) s = .next ((s.written 25 a).goWith judgeFindMark) := rfl
    have ha : markOfWords a.q0 a.q1 a.q2 = m := markOfWords_words_of_mark m
    rw [hexec]
    refine ⟨fun hbad => ?badMark, fun h0 h1 => ?answer⟩
    case badMark =>
      rw [State.goWith_refused hfree (judgeFindMark_of_invalid ha ((invalidMark_eq_true_iff m).2 hbad))]
    case answer =>
      have hdone := judgeFindMark_of_valid (s := s.written 25 a) ha (invalidMark_eq_false h0 h1)
      refine ⟨_, by rw [State.goWith_done (u := s) hfree hdone], fun hm => ?unknown, fun h hm => ?known, fun hb => ?free,
        fun b hb hk => ?permanent, fun b k n c hb hk => ?timed⟩
      case unknown =>
        have hanswer := State.indexAnswer_of_none (s := s.written 25 a) hm
        exact ⟨congrArg Prod.fst hanswer, congrArg Prod.snd hanswer⟩
      case known =>
        obtain ⟨hword, hhandle⟩ := State.indexAnswer_of_some (s := s.written 25 a) hm
        have hcode := (s.entry h).state.code_lt
        have htree : treeNumber (s.treeOf h) % 4 < 4 := Nat.mod_lt _ (by decide)
        refine ⟨?flag, hhandle, ?code, fun k hk => ?tree⟩
        case flag =>
          rw [BitVec.getLsbD, Nat.testBit_eq_decide_div_mod_eq, decide_eq_true_eq]
          refine (congrArg (fun v => v / 2 ^ 15 % 2) hword).trans ?_
          simp only [State.written_entry, State.written_treeOf]
          omega
        case code =>
          refine (congrArg (fun v => v / 2 ^ 11 % 16) hword).trans ?_
          simp only [State.written_entry, State.written_treeOf]
          omega
        case tree =>
          refine hword.trans ?_
          rw [State.written_treeOf, hk, treeNumber, Nat.mod_eq_of_lt k.isLt]
          rfl
      case free =>
        have hanswer := State.barAnswer_of_none (s := s.written 25 a) hb
        exact ⟨congrArg Prod.fst hanswer, congrArg Prod.snd hanswer⟩
      case permanent =>
        have hanswer := State.barAnswer_of_permanent (s := s.written 25 a) hb hk
        exact ⟨congrArg Prod.fst hanswer, congrArg Prod.snd hanswer⟩
      case timed =>
        obtain ⟨hword, hhold⟩ := State.barAnswer_of_timed (s := s.written 25 a) hb hk
        have hk := k.isLt
        exact ⟨(congrArg (fun v => v / 2 ^ 14) hword).trans (by omega),
          (congrArg (fun v => v / 2 ^ 12 % 4) hword).trans (by omega), hhold⟩

end Sys2Proof.Machine
end

section
/-! PROOFS. The words of READ_SLOT, and READ_COUNTERS (R84, R187, R188). -/

namespace Sys2Proof.Machine

/-! ## READ_SLOT (R84, R187) -/

theorem SlotState.code_lt (x : SlotState) : x.code < 8 := by cases x <;> decide

theorem ReservationKind.code_lt (x : ReservationKind) : x.code < 8 := by cases x <;> decide

theorem ReportResult.code_lt (x : Option Burst) : (x.map fun b => b.result.code).getD 0 < 8 := by
  rcases x with _ | ⟨_ | _ | _ | _ | _, _⟩ <;> simp [ReportResult.code]

section
variable {k : Slot} {x : Reservation} {i : Nat}

theorem Slot.summaryWords_q1 (w : Calendar) :
    (k.summaryWords w).q1.toNat = k.state.code * 2 ^ 13 + k.reservations.length % 128 := by
  have hcode := k.state.code_lt
  simp only [Slot.summaryWords, words, packWord_toNat, fieldAt, List.sum_cons, List.sum_nil]
  omega

theorem Slot.summaryWords_q2 (w : Calendar) :
    (k.summaryWords w).q2.toNat = yesNo k.stray * 2 ^ 15 + w.claims.length % 1024 := by
  have hstray := yesNo_lt k.stray
  simp only [Slot.summaryWords, words, packWord_toNat, fieldAt, List.sum_cons, List.sum_nil]
  omega

theorem Slot.indexWords_of_none (page : Nat) (h : k.reservations[i]? = none) :
    k.indexWords i page = words k.cycle (packWord [fieldAt k.state.code 3 13]) 0 0 := by
  rw [Slot.indexWords, h]

theorem Slot.stateWord_toNat (k : Slot) : (packWord [fieldAt k.state.code 3 13]).toNat = k.state.code * 2 ^ 13 := by
  have hcode := k.state.code_lt
  simp only [packWord_toNat, fieldAt, List.sum_cons, List.sum_nil]
  omega

theorem Slot.indexWords_page0 (h : k.reservations[i]? = some x) : k.indexWords i 0 = words k.cycle
    (packWord [fieldAt k.state.code 3 13, fieldAt 1 1 12, fieldAt x.kind.code 3 9, fieldAt (x.handle.getD 0) 9 0])
    (wordOf x.start) (wordOf x.length) := by
  rw [Slot.indexWords, h]
  rfl

theorem Slot.indexWords_page1 (h : k.reservations[i]? = some x) : k.indexWords i 1 = words k.cycle
    (packWord [fieldAt k.state.code 3 13, fieldAt 1 1 12, fieldAt x.kind.code 3 9]) x.ownItems 0 := by
  rw [Slot.indexWords, h]
  rfl

theorem Slot.indexWord0_toNat (k : Slot) (x : Reservation) :
    (packWord [fieldAt k.state.code 3 13, fieldAt 1 1 12, fieldAt x.kind.code 3 9, fieldAt (x.handle.getD 0) 9 0]).toNat
      = k.state.code * 2 ^ 13 + 2 ^ 12 + x.kind.code * 2 ^ 9 + x.handle.getD 0 % 512 := by
  have hcode := k.state.code_lt
  have hkind := x.kind.code_lt
  simp only [packWord_toNat, fieldAt, List.sum_cons, List.sum_nil]
  omega

theorem Slot.indexWord1_toNat (k : Slot) (x : Reservation) :
    (packWord [fieldAt k.state.code 3 13, fieldAt 1 1 12, fieldAt x.kind.code 3 9]).toNat
      = k.state.code * 2 ^ 13 + 2 ^ 12 + x.kind.code * 2 ^ 9 := by
  have hcode := k.state.code_lt
  have hkind := x.kind.code_lt
  simp only [packWord_toNat, fieldAt, List.sum_cons, List.sum_nil]
  omega

theorem Reservation.takesOutcome_of {x : Reservation} (h : x.kind = .grant ∨ x.kind = .echo) : x.takesOutcome = true := by
  rcases h with h | h <;> rw [Reservation.takesOutcome, h] <;> rfl

theorem Reservation.takesOutcome_of_quiet {x : Reservation} (h : x.kind = .quietCall ∨ x.kind = .quietMeasure) :
    x.takesOutcome = false := by
  rcases h with h | h <;> rw [Reservation.takesOutcome, h] <;> rfl

theorem Reservation.ownItems_outcome (h : x.kind = .grant ∨ x.kind = .echo) :
    x.ownItems.toNat = yesNo (x.purpose == some .settle) * 2 ^ 15 + yesNo x.outcome.isSome * 2 ^ 14
      + (x.outcome.map fun b => b.result.code).getD 0 := by
  rw [Reservation.ownItems, if_pos (x.takesOutcome_of h)]
  have h0 := yesNo_lt (x.purpose == some .settle)
  have h1 := yesNo_lt x.outcome.isSome
  have h2 := ReportResult.code_lt x.outcome
  simp only [packWord_toNat, fieldAt, List.sum_cons, List.sum_nil]
  omega

theorem Reservation.ownItems_quiet (h : x.kind = .quietCall ∨ x.kind = .quietMeasure) :
    x.ownItems.toNat = (x.head.map MarkHead.bits).getD 0 % 32 * 2 ^ 11 + x.bursts.length % 32 * 2 ^ 6
      + yesNo x.ended * 2 ^ 5 := by
  rw [Reservation.ownItems, if_neg (by rw [x.takesOutcome_of_quiet h]; exact nofun)]
  have h0 := yesNo_lt x.ended
  simp only [packWord_toNat, fieldAt, List.sum_cons, List.sum_nil]
  omega

end

section
variable {a : Quad Word} {s : State}

theorem judgeReadSlot_of_badArg (h : 3 < a.q0.toNat ∨ 15 < a.q1.toNat ∨ 69 < a.q2.toNat ∨ 1 < a.q3.toNat) :
    judgeReadSlot a s = refusedWith s .badArg := by
  unfold judgeReadSlot
  split
  · rfl
  · next hrest => exact forTree_of_lt _ (h.resolve_right hrest)

theorem judgeReadSlot_of_named {k : TreeId} (hk : treeOfWord a.q0 = some k) (h1 : a.q1.toNat ≤ 15)
    (h2 : a.q2.toNat ≤ 69) (h3 : a.q3.toNat ≤ 1) :
    judgeReadSlot a s = if (s.tree k).inService then
        doneWith s ((s.tree k).calendar.slotWords a.q1.toNat a.q2.toNat a.q3.toNat)
      else refusedWith s .wrongTreeState := by
  rw [judgeReadSlot, if_neg (by omega)]
  exact forTree_of_some _ hk

theorem Calendar.slotWords_of_some {w : Calendar} {offset i page : Nat} {k : Slot} (h : w.ring[offset]? = some k) :
    w.slotWords offset i page = if i = 69 then k.summaryWords w else k.indexWords i page := by
  rw [Calendar.slotWords, h]

end

/-! ## READ_COUNTERS (R188) -/

theorem TreeCounters.get_put (x : TreeCounters) (c d : TreeCounter) (v : Count) :
    (x.put c v).get d = if d = c then v else x.get d := by
  cases c <;> cases d <;> rfl

theorem TreeCounter.ofNumber_of_lt {n : Nat} (h : 13 < n) : TreeCounter.ofNumber n = none := by
  unfold TreeCounter.ofNumber
  split
  case h_15 => rfl
  all_goals omega

section
variable {a : Quad Word} {s : State}

theorem judgeReadCounters_of_badFlag (h : 1 < a.q2.toNat) : judgeReadCounters a s = refusedWith s .badArg := if_pos h

theorem judgeReadCounters_of_part (hc : a.q2.toNat ≤ 1) (h : a.q0.toNat = 4) :
    judgeReadCounters a s = readPartCounter a.q1.toNat (a.q2 == 1) s := by
  rw [judgeReadCounters, if_neg (by omega), if_pos h]

theorem judgeReadCounters_of_ne (hc : a.q2.toNat ≤ 1) (h : a.q0.toNat ≠ 4) :
    judgeReadCounters a s = forTree a.q0 s fun t => readTreeCounter t a.q1.toNat (a.q2 == 1) s := by
  rw [judgeReadCounters, if_neg (by omega), if_neg h]

theorem treeOfWord_some_lt {w : Word} {k : TreeId} (h : treeOfWord w = some k) : w.toNat < 4 := by
  by_contra hlt
  exact absurd ((treeOfWord_of_lt (by omega)).symm.trans h) nofun

theorem judgeReadCounters_of_tree {k : TreeId} (hc : a.q2.toNat ≤ 1) (hk : treeOfWord a.q0 = some k) :
    judgeReadCounters a s = readTreeCounter k a.q1.toNat (a.q2 == 1) s := by
  have hlt := treeOfWord_some_lt hk
  rw [judgeReadCounters_of_ne hc (by omega), forTree_of_some _ hk]

theorem readPartCounter_of_lt {n : Nat} {clear : Bool} (h : 2 < n) : readPartCounter n clear s = refusedWith s .badArg := by
  unfold readPartCounter
  split
  case h_4 => rfl
  all_goals omega

theorem readTreeCounter_of_lt {t : TreeId} {n : Nat} {clear : Bool} (h : 15 < n) :
    readTreeCounter t n clear s = refusedWith s .badArg := by
  simp only [readTreeCounter, TreeCounter.ofNumber_of_lt (by omega : 13 < n)]
  rw [if_neg (by omega), if_neg (by omega)]

theorem readTreeCounter_of_counter {t : TreeId} {n : Nat} {clear : Bool} {c : TreeCounter}
    (h : TreeCounter.ofNumber n = some c) :
    readTreeCounter t n clear s
      = doneWith (if clear then s.modTree t fun x => { x with counters := x.counters.put c 0 } else s)
        (countWords ((s.tree t).counters.get c)) := by
  simp only [readTreeCounter, h]

theorem judgeReadCounters_of_badArg (h : 4 < a.q0.toNat ∨ 1 < a.q2.toNat ∨ (a.q0.toNat < 4 ∧ 15 < a.q1.toNat)
    ∨ (a.q0 = 4 ∧ 2 < a.q1.toNat)) : judgeReadCounters a s = refusedWith s .badArg := by
  by_cases hc : 1 < a.q2.toNat
  · exact judgeReadCounters_of_badFlag hc
  have hc' : a.q2.toNat ≤ 1 := Nat.not_lt.1 hc
  rcases h with h | h | ⟨ht, hn⟩ | ⟨ht, hn⟩
  · rw [judgeReadCounters_of_ne hc' (by omega), forTree_of_lt _ (by omega)]
  · exact absurd h hc
  · rw [judgeReadCounters_of_tree hc' (dif_pos ht), readTreeCounter_of_lt hn]
  · rw [judgeReadCounters_of_part hc' (by rw [ht]; rfl), readPartCounter_of_lt hn]

end

theorem countWords_toNat (n : Nat) :
    ((countWords (BitVec.ofNat 32 n)).q0 ++ (countWords (BitVec.ofNat 32 n)).q1).toNat = n % 2 ^ 32 := by
  have hjoin : ∀ v : Count, v.extractLsb' 16 16 ++ v.extractLsb' 0 16 = v := fun v => by
    rw [BitVec.extractLsb'_append_extractLsb'_eq_extractLsb' (by decide)]
    exact BitVec.extractLsb'_eq_self
  rw [countWords, words, hjoin, BitVec.toNat_ofNat]

theorem Word.eq_of_toNat_le_one {w : Word} (h : w.toNat ≤ 1) : w = 0 ∨ w = 1 := by
  rcases Nat.le_one_iff_eq_zero_or_eq_one.1 h with h | h
  · exact Or.inl (BitVec.eq_of_toNat_eq h)
  · exact Or.inr (BitVec.eq_of_toNat_eq h)

/-- Settles O31: the words of READ_SLOT, index by index and page by page, and the counters that READ_COUNTERS reads. -/
theorem readSlotAndCountersOutcome : Obligations.ReadSlotAndCountersOutcome := by
  refine ⟨fun tree offset index page s hfree => ?slot, fun tree number clear s hfree => ?counters⟩
  case slot =>
    let a := words tree offset index page
    have hexec : exec (.readSlot tree offset index page) s = .next ((s.written 32 a).goWith judgeReadSlot) := rfl
    rw [hexec]
    refine ⟨fun hbad => ?badArg, fun k hk h1 h2 h3 => ⟨fun hs => ?disabled, fun slot hs hslot => ?read⟩⟩
    case badArg => rw [State.goWith_refused hfree (judgeReadSlot_of_badArg hbad)]
    case disabled =>
      have hj := judgeReadSlot_of_named (a := a) (s := s.written 32 a) hk h1 h2 h3
      rw [State.goWith_refused hfree (hj.trans (if_neg (Bool.eq_false_iff.1 (Tree.inService_of_disabled hs))))]
    case read =>
      have hj := judgeReadSlot_of_named (a := a) (s := s.written 32 a) hk h1 h2 h3
      have hdone := hj.trans (if_pos hs)
      rw [State.written_tree, Calendar.slotWords_of_some (offset := a.q1.toNat) hslot] at hdone
      refine ⟨_, by rw [State.goWith_done (u := s) hfree hdone], ?_⟩
      by_cases hi : a.q2.toNat = 69
      · have hindex : index = 69 := BitVec.eq_of_toNat_eq hi
        rw [if_pos hi]
        have hcode := slot.state.code_lt
        have hq1 := Slot.summaryWords_q1 (k := slot) (s.tree k).calendar
        exact ⟨rfl, (congrArg (fun v => v / 2 ^ 13) hq1).trans (by omega), fun _ => ⟨hq1, Slot.summaryWords_q2 _, rfl⟩,
          fun hne => absurd hindex hne,
          fun x hne => absurd hindex hne⟩
      · have hindex : index ≠ 69 := fun he => hi (congrArg BitVec.toNat he)
        rw [if_neg hi]
        have hcode := slot.state.code_lt
        cases hx : slot.reservations[index.toNat]? with
        | none =>
          rw [Slot.indexWords_of_none (i := a.q2.toNat) _ hx]
          have hq1 := slot.stateWord_toNat
          exact ⟨rfl, (congrArg (fun v => v / 2 ^ 13) hq1).trans (by omega), fun he => absurd he hindex,
            fun _ _ => ⟨hq1, rfl, rfl⟩, fun x _ h => absurd h nofun⟩
        | some x =>
          have hkind := x.kind.code_lt
          have h0 := slot.indexWord0_toNat x
          have h1 := slot.indexWord1_toNat x
          have hhandle : x.handle.getD 0 % 512 < 512 := Nat.mod_lt _ (by decide)
          rcases Word.eq_of_toNat_le_one h3 with rfl | rfl
          · rw [show (a.q3.toNat) = 0 from rfl, Slot.indexWords_page0 (i := a.q2.toNat) hx]
            refine ⟨rfl, (congrArg (fun v => v / 2 ^ 13) h0).trans (by omega), fun he => absurd he hindex,
              fun _ h => absurd h nofun, fun y _ hy => ?_⟩
            obtain rfl := Option.some.inj hy
            exact ⟨fun _ => ⟨h0, rfl, rfl⟩, fun h => absurd h (by decide)⟩
          · rw [show (a.q3.toNat) = 1 from rfl, Slot.indexWords_page1 (i := a.q2.toNat) hx]
            refine ⟨rfl, (congrArg (fun v => v / 2 ^ 13) h1).trans (by omega), fun he => absurd he hindex,
              fun _ h => absurd h nofun, fun y _ hy => ?_⟩
            obtain rfl := Option.some.inj hy
            refine ⟨fun h => absurd h (by decide), fun _ => ⟨h1, rfl, fun hk => ?_, fun hk => ?_⟩⟩
            · refine (Reservation.ownItems_outcome hk).trans ?_
              cases x.outcome <;> rfl
            · refine (Reservation.ownItems_quiet hk).trans ?_
              cases x.head <;> rfl
  case counters =>
    intro a
    have hexec : exec (.readCounters tree number clear) s = .next ((s.written 33 a).goWith judgeReadCounters) := rfl
    rw [hexec]
    refine ⟨fun hbad => ?badArg, fun k c hk hc => ?counter, fun k hk hclear => ?lengths, fun ht hclear => ?part⟩
    case badArg => rw [State.goWith_refused hfree (judgeReadCounters_of_badArg hbad)]
    case counter =>
      refine ⟨fun hz => ?read, fun ho => ?cleared⟩
      case read =>
        subst hz
        have hdone := (judgeReadCounters_of_tree (a := a) (s := s.written 33 a) (show (0 : Word).toNat ≤ 1 by decide) hk).trans
          (readTreeCounter_of_counter hc)
        rw [State.goWith_done (u := s) hfree hdone]
        rfl
      case cleared =>
        subst ho
        have hdone := (judgeReadCounters_of_tree (a := a) (s := s.written 33 a) (show (1 : Word).toNat ≤ 1 by decide) hk).trans
          (readTreeCounter_of_counter hc)
        let u := s.modTree k fun x => { x with counters := x.counters.put c 0 }
        have htree : u.tree k = { s.tree k with counters := (s.tree k).counters.put c 0 } :=
          (State.tree_modTree s k k _).trans (if_pos rfl)
        refine ⟨u, by rw [State.goWith_done (u := u) hfree hdone]; rfl, ?_, fun d hd => ?_⟩
        · rw [htree, TreeCounters.get_put, if_pos rfl]
        · rw [htree, TreeCounters.get_put, if_neg hd]
    case lengths =>
      have hj := judgeReadCounters_of_tree (a := a) (s := s.written 33 a) hclear hk
      refine ⟨fun hn => ?free, fun hn => ?cooling⟩
      case free =>
        subst hn
        exact ⟨_, by rw [State.goWith_done (u := s) hfree hj]; rfl, countWords_toNat _⟩
      case cooling =>
        subst hn
        exact ⟨_, by rw [State.goWith_done (u := s) hfree hj]; rfl, countWords_toNat _⟩
    case part =>
      subst ht
      have hj := judgeReadCounters_of_part (a := a) (s := s.written 33 a) hclear rfl
      rcases Word.eq_of_toNat_le_one hclear with rfl | rfl
      · refine ⟨fun hn => ?_, fun hn => ?_, fun hn => ?_⟩ <;> subst hn
        · rw [State.goWith_done (u := s) hfree hj]; rfl
        · rw [State.goWith_done (u := s) hfree hj]; rfl
        · rw [State.goWith_done (u := s) hfree hj]; rfl
      · refine ⟨fun hn => ?_, fun hn => ?_, fun hn => ?_⟩ <;> subst hn
        · rw [State.goWith_done (u := { s with linkCheckErrors := 0 }) hfree hj]; rfl
        · rw [State.goWith_done (u := { s with reportErrors := 0 }) hfree hj]; rfl
        · rw [State.goWith_done (u := { s with framesDropped := 0 }) hfree hj]; rfl

end Sys2Proof.Machine
end

section
/-! PROOFS. The scheduler link: its state, the bytes of its frames, the outgoing queue and the roster dump (R17, R85 to R88,
R98). -/

namespace Sys2Proof.Machine

/-! ## The link state (R85, R86) -/

theorem State.linkTraffic_of_up {s : State} (h : s.linkUp = true) :
    s.linkTraffic = { s with silenceTimer := some 2048 } := by
  simp only [State.linkTraffic, h, if_true, Config.silenceMicros]

theorem State.linkTraffic_of_silent {s : State} (h : s.linkUp = false) :
    s.linkTraffic = { ({ s with linkUp := true }.setLinkChg).writeEvent .linkUp 0 0 [] with silenceTimer := some 2048 } := by
  simp only [State.linkTraffic, h, Bool.false_eq_true, if_false, Config.silenceMicros]

theorem exec_silenceTimerExpiry_of_running {s : State} (h : s.silenceTimer.isSome = true) :
    exec .silenceTimerExpiry s
      = .next (({ s with linkUp := false, silenceTimer := none }.setLinkChg).writeEvent .linkSilent 0 0 []) :=
  congrArg Host.Outcome.next (if_pos h)

/-- A record without further words changes the link's part of a full queue's state no more than any other. -/
theorem State.writeEvent_keeps_link (s : State) (kind : EventKind) (v : TreeId) (j : Nat) (extra : List EventWord) :
    (s.writeEvent kind v j extra).linkUp = s.linkUp
      ∧ (s.writeEvent kind v j extra).indications.linkChg = s.indications.linkChg := by
  have hport := ((EngineFrame.refl 0 s).writeEvent kind v j extra).port
  exact ⟨congrArg PortPart.linkUp hport, congrArg PortPart.linkChg hport⟩

/-- Settles O55: the two sides of the link state, with room for the record and without. -/
theorem linkFollowsItsTraffic : Obligations.LinkFollowsItsTraffic := by
  intro s
  have hidle : exec .idle s = .next s.linkTraffic := rfl
  rw [hidle]
  refine ⟨fun hup => ?up, fun hsilent hroom => ?wakes, fun hrun hroom => ?expires, fun hfull => ?fullIdle,
    fun hrun hfull => ?fullExpiry, fun bytes hbytes => ?invalid⟩
  case up => rw [State.linkTraffic_of_up hup]
  case wakes =>
    rw [State.linkTraffic_of_silent hsilent, State.writeEvent_of_fits (show s.eventQueue.length + (1 + 0) ≤ 1024 from hroom)]
    rfl
  case expires =>
    rw [exec_silenceTimerExpiry_of_running hrun,
      State.writeEvent_of_fits (show s.eventQueue.length + (1 + 0) ≤ 1024 from hroom)]
    rfl
  case fullIdle =>
    refine ⟨_, rfl, ?_⟩
    cases hlink : s.linkUp with
    | true => rw [State.linkTraffic_of_up hlink]; exact ⟨hlink, rfl⟩
    | false =>
      rw [State.linkTraffic_of_silent hlink]
      exact ⟨(State.writeEvent_keeps_link _ _ _ _ _).1,
        (State.writeEvent_of_full (show 1024 < s.eventQueue.length + (1 + 0) from Nat.lt_succ_of_le hfull)).1⟩
  case fullExpiry =>
    refine ⟨_, exec_silenceTimerExpiry_of_running hrun, ?_⟩
    obtain ⟨hup, hchg⟩ := State.writeEvent_keeps_link ({ s with linkUp := false, silenceTimer := none }.setLinkChg)
      .linkSilent 0 0 []
    exact ⟨hup, hchg,
      (State.writeEvent_of_full (show 1024 < s.eventQueue.length + (1 + 0) from Nat.lt_succ_of_le hfull)).1⟩
  case invalid =>
    have hexec : exec (.invalidFrame bytes) s = execInvalidFrame bytes s := rfl
    rw [hexec, execInvalidFrame, hbytes]

/-! ## The bytes of a frame (R17, R86) -/

theorem bytesOf_one (v : Nat) : bytesOf 1 v = [BitVec.ofNat 8 v] := by
  simp only [bytesOf, Nat.pow_zero, Nat.div_one]

theorem bytesOf_two (v : Nat) : bytesOf 2 v = [BitVec.ofNat 8 (v / 256), BitVec.ofNat 8 v] := by
  simp only [bytesOf, Nat.pow_zero, Nat.div_one, Nat.pow_one]

/-- The two bytes of a number spell it again. -/
theorem ofNat_append_ofNat (v : Nat) : BitVec.ofNat 8 (v / 256) ++ BitVec.ofNat 8 v = BitVec.ofNat 16 v := by
  refine BitVec.eq_of_toNat_eq ?_
  have hlow : v % 2 ^ 8 < 2 ^ 8 := Nat.mod_lt _ (by decide)
  rw [BitVec.toNat_append, BitVec.toNat_ofNat, BitVec.toNat_ofNat, BitVec.toNat_ofNat,
    ← Nat.shiftLeft_add_eq_or_of_lt hlow, Nat.shiftLeft_eq]
  omega

theorem word_of_bytes (w : Word) : BitVec.ofNat 8 (w.toNat / 256) ++ BitVec.ofNat 8 w.toNat = w := by
  rw [ofNat_append_ofNat, BitVec.ofNat_toNat, BitVec.setWidth_eq]

/-- A frame with a body of a length that two bytes hold decodes as its type and body do. -/
theorem decodeFrame_frameOf (kind : Nat) {body : List Byte} (h : body.length < 65536) :
    decodeFrame (frameOf kind body) = decodeBody (BitVec.ofNat 8 kind) body := by
  let front := bytesOf 1 kind ++ bytesOf 2 body.length ++ body
  have hfront : front = BitVec.ofNat 8 kind :: BitVec.ofNat 8 (body.length / 256) :: BitVec.ofNat 8 body.length :: body := by
    simp only [front, bytesOf_one, bytesOf_two, List.cons_append, List.nil_append]
  obtain ⟨c1, c0, hcheck⟩ : ∃ c1 c0, bytesOf 2 (checkCode front).toNat = [c1, c0] := ⟨_, _, bytesOf_two _⟩
  have hframe : frameOf kind body = BitVec.ofNat 8 kind :: BitVec.ofNat 8 (body.length / 256)
      :: BitVec.ofNat 8 body.length :: (body ++ [c1, c0]) := by
    have hsealed : frameOf kind body = front ++ [c1, c0] := congrArg (front ++ ·) hcheck
    rw [hsealed, hfront]
    rfl
  have hlength : (BitVec.ofNat 8 (body.length / 256) ++ BitVec.ofNat 8 body.length : BitVec 16).toNat = body.length := by
    rw [ofNat_append_ofNat, BitVec.toNat_ofNat, Nat.mod_eq_of_lt h]
  have htaken : (frameOf kind body).take (3 + body.length) = front := by
    rw [hframe, hfront, Nat.add_comm 3]
    simp
  have hcode : frameOf kind body = withCheck ((frameOf kind body).take (3 + body.length)) := by rw [htaken]; rfl
  rw [hframe] at hcode
  rw [hframe, decodeFrame, hlength, if_pos (by simp; omega), if_pos hcode, List.take_left]

theorem decodeGrants_flatMap (grants : List PlanGrant) : decodeGrants (grants.flatMap PlanGrant.bytes) = grants := by
  induction grants with
  | nil => rfl
  | cons g grants ih =>
    rw [List.flatMap_cons, PlanGrant.bytes, bytesOf_two, bytesOf_two, bytesOf_two]
    simp only [List.cons_append, List.nil_append, decodeGrants, ih, word_of_bytes]

theorem length_flatMap_planGrant_bytes (grants : List PlanGrant) :
    (grants.flatMap PlanGrant.bytes).length = 6 * grants.length := by
  induction grants with
  | nil => rfl
  | cons g grants ih =>
    rw [List.flatMap_cons, List.length_append, ih, List.length_cons]
    have hbytes : g.bytes.length = 6 := rfl
    omega

theorem decodeFrame_plan (tree : Byte) (cycle : Word) {grants : List PlanGrant} (h : grants.length ≤ 255) :
    decodeFrame (ReceivedFrame.plan tree cycle grants).bytes = some (.plan tree cycle grants) := by
  have hlength := length_flatMap_planGrant_bytes grants
  have hcount : (BitVec.ofNat 8 grants.length).toNat = grants.length := by
    rw [BitVec.toNat_ofNat, Nat.mod_eq_of_lt (by omega)]
  rw [ReceivedFrame.bytes, bytesOf_one, bytesOf_two, decodeFrame_frameOf _ (by simp [hlength]; omega)]
  simp only [List.cons_append, List.nil_append]
  rw [decodeBody]
  · simp only [hcount, hlength, if_true, decodeGrants_flatMap, word_of_bytes]
  · rfl

/-- The bytes of a frame, from those of its type, length and body. -/
theorem frameOf_of_front {kind : Nat} {body front : List Byte} (length : Nat) (hlength : body.length = length)
    (h : bytesOf 1 kind ++ bytesOf 2 length ++ body = front) :
    frameOf kind body = front ++ bytesOf 2 (checkCode front).toNat := by
  rw [frameOf, hlength, h, withCheck]

theorem length_flatMap_struck (struck : List (Nat × StrikeReason)) :
    (struck.flatMap fun x => bytesOf 1 x.1 ++ bytesOf 1 x.2.code).length = 2 * struck.length := by
  induction struck with
  | nil => rfl
  | cons x struck ih =>
    rw [List.flatMap_cons, List.length_append, ih, List.length_cons]
    have hbytes : (bytesOf 1 x.1 ++ bytesOf 1 x.2.code).length = 2 := rfl
    omega

/-- Settles O56: a frame decodes as its body does, and each kind's bytes are those of its layout. -/
theorem linkFramesHaveTheirBytes : Obligations.LinkFramesHaveTheirBytes := by
  refine ⟨fun tree cycle grants h => decodeFrame_plan tree cycle h, ?sync, ?idle,
    fun k tree c start length h termClass struck => ?parts⟩
  case sync => exact decodeFrame_frameOf 2 (by decide)
  case idle => exact decodeFrame_frameOf 3 (by decide)
  case parts =>
    intro sealed t reasonOf
    refine ⟨?cycle, ?quiet, ?cancel, ?accepted, fun reason => ?refused, fun r => ?roster, ?clear, ?ends⟩
    case cycle => exact frameOf_of_front 3 rfl (by simp only [bytesOf_one, bytesOf_two]; rfl)
    case quiet => exact frameOf_of_front 7 rfl (by simp only [bytesOf_one, bytesOf_two]; rfl)
    case cancel => exact frameOf_of_front 3 rfl (by simp only [bytesOf_one, bytesOf_two]; rfl)
    case accepted =>
      have hcodes : (struck.flatMap fun x => bytesOf 1 x.1 ++ bytesOf 1 x.2.code)
          = struck.flatMap fun x => [BitVec.ofNat 8 x.1, reasonOf x.2] := by
        refine congrArg (List.flatMap · struck) (funext fun x => ?_)
        rw [bytesOf_one, bytesOf_one]
        cases x.2 <;> rfl
      have hlength : ([tree] ++ bytesOf 2 c.toNat ++ bytesOf 1 (yesNo (none : Option PlanReason).isSome) ++ bytesOf 1 0
          ++ bytesOf 1 struck.length ++ struck.flatMap fun x => bytesOf 1 x.1 ++ bytesOf 1 x.2.code).length
          = 6 + 2 * struck.length := by
        rw [List.length_append, length_flatMap_struck, bytesOf_one, bytesOf_two]
        rfl
      refine frameOf_of_front _ hlength ?_
      rw [hcodes]
      simp only [bytesOf_one, List.append_assoc]
      rfl
    case refused =>
      refine frameOf_of_front 6 rfl ?_
      simp only [bytesOf_one, bytesOf_two]
      cases reason <;> rfl
    case roster =>
      refine frameOf_of_front 5 rfl ?_
      simp only [bytesOf_one, bytesOf_two]
      cases r <;> rfl
    case clear => exact frameOf_of_front 1 rfl (by simp only [bytesOf_one, bytesOf_two]; rfl)
    case ends => exact frameOf_of_front 0 rfl (by simp only [bytesOf_one, bytesOf_two]; rfl)

/-! ## The roster dump (R98) -/

theorem find?_range_of_lowest {p : Nat → Bool} {n h : Nat} (hn : h < n) (hp : p h = true)
    (hlow : ∀ j, j < h → p j = false) : (List.range n).find? p = some h := by
  rw [List.find?_range_eq_some]
  exact ⟨hp, List.mem_range.2 hn, fun j hj => by rw [hlow j hj]; rfl⟩

section
variable {s : State}

theorem exec_rosterDumpStep_of_ready {d : RosterDump} (hhold : s.transmitterHold = none) (hq : s.outQueue = [])
    (hd : s.dump = some d) : exec .rosterDumpStep s = .next (s.dumpStep d) := by
  have hexec : exec .rosterDumpStep s = execRosterDumpStep s := rfl
  rw [hexec, execRosterDumpStep, hhold, hq, hd]

theorem State.dumpNext_of_lowest {d : RosterDump} {h : Nat} (hc : d.cursor ≤ h) (hh : h < Config.handles)
    (hs : s.dumpSelects d.mode h = true) (hlow : ∀ j, d.cursor ≤ j → j < h → s.dumpSelects d.mode j = false) :
    s.dumpNext d = some h := by
  unfold State.dumpNext
  refine find?_range_of_lowest hh (by rw [hs, decide_eq_true hc]; rfl) fun j hj => ?_
  by_cases hcj : d.cursor ≤ j
  · rw [hlow j hcj hj, Bool.and_false]
  · rw [decide_eq_false hcj, Bool.false_and]

theorem State.dumpNext_of_none {d : RosterDump}
    (h : ∀ j, d.cursor ≤ j → j < Config.handles → s.dumpSelects d.mode j = false) : s.dumpNext d = none := by
  unfold State.dumpNext
  rw [List.find?_eq_none]
  intro j hj
  by_cases hc : d.cursor ≤ j
  · rw [h j hc (List.mem_range.1 hj), Bool.and_false]; exact nofun
  · rw [decide_eq_false hc, Bool.false_and]; exact nofun

/-- A dump step at the lowest handle that the mode selects. -/
theorem State.dumpStep_of_some {d : RosterDump} {h : Nat} (hnext : s.dumpNext d = some h) :
    s.dumpStep d = { s with sending := some (s.dumpFrame h), dump := some { d with cursor := h + 1 } } := by
  unfold State.dumpStep
  rw [hnext]

/-- A dump step when the mode selects no handle any more. -/
theorem State.dumpStep_of_none {d : RosterDump} (hnext : s.dumpNext d = none) :
    s.dumpStep d = { s with sending := some .syncEnd, dump := none } := by
  unfold State.dumpStep
  rw [hnext]

theorem State.dumpSelects_all_of_some {h : Nat} {k : TreeId} (ht : s.treeOf h = some k) :
    s.dumpSelects .all h = (h != (s.tree k).config.windowBase) := by
  simp only [State.dumpSelects, ht]

theorem State.dumpSelects_all_eq_false {h : Nat}
    (hb : ∀ k, s.treeOf h = some k → h = (s.tree k).config.windowBase) : s.dumpSelects .all h = false := by
  cases ht : s.treeOf h with
  | none => simp only [State.dumpSelects, ht]
  | some k => rw [State.dumpSelects_all_of_some ht, ← hb k ht, bne_self_eq_false]

theorem State.dumpFrame_of_tree {h : Nat} {k : TreeId} (ht : s.treeOf h = some k) : s.dumpFrame h = .roster k h
    (if (s.entry h).state = .registered then .registered else if (s.entry h).state = .lost then .lost else .removed)
    ((s.entry h).termClass.getD 0) := by
  rw [State.dumpFrame, ht]
  cases (s.entry h).state <;> rfl

theorem State.dumpFrame_of_roster {h : Nat} (hr : (s.entry h).inRoster = true) : s.dumpFrame h
    = .roster ((s.treeOf h).getD 0) h (if (s.entry h).state = .registered then .registered else .lost)
      ((s.entry h).termClass.getD 0) := by
  rw [Entry.inRoster_eq] at hr
  rw [State.dumpFrame]
  cases hs : (s.entry h).state
  case registered => rfl
  case lost => rfl
  all_goals exact absurd ((congrArg EntryState.rostered hs).symm.trans hr) nofun

end

/-- What a SYNC does to the dump, whatever it does to the link. -/
theorem exec_sync (s : State) : exec .sync s = .next s.linkTraffic.startDump := rfl

theorem State.linkTraffic_dump (s : State) : s.linkTraffic.dump = s.dump ∧ s.linkTraffic.outQueue = s.outQueue := by
  have hwrite : ∀ u : State, (u.writeEvent .linkUp 0 0 []).dump = u.dump := fun u => by
    unfold State.writeEvent
    split <;> rfl
  cases hlink : s.linkUp with
  | true => rw [State.linkTraffic_of_up hlink]; exact ⟨rfl, rfl⟩
  | false =>
    rw [State.linkTraffic_of_silent hlink]
    exact ⟨hwrite _, State.outQueue_writeEvent _ _ _ _ _⟩

/-- Settles O60: a frame made, the transmitter, SYNC, and the steps of a dump in its two modes. -/
theorem outgoingQueueAndRosterDump : Obligations.OutgoingQueueAndRosterDump := by
  refine ⟨fun f s => ⟨State.makeFrame_of_room, State.makeFrame_of_full, rfl, fun rest hhold hq => ?transmit,
    fun hhold => ?holds⟩, fun s => ?sync, fun cursor s hhold hq hd => ?rostered, fun cursor s hhold hq hd => ?all⟩
  case transmit =>
    have hexec : exec .frameTransmit s = execFrameTransmit s := rfl
    rw [hexec, execFrameTransmit, hhold, hq]
  case holds =>
    obtain ⟨n, hn⟩ := Option.isSome_iff_exists.1 hhold
    have hexec : exec .frameTransmit s = execFrameTransmit s := rfl
    rw [hexec, execFrameTransmit, hn]
  case sync =>
    obtain ⟨hdump, hqueue⟩ := s.linkTraffic_dump
    refine ⟨_, exec_sync s, hqueue, fun hmode => ?_, fun d hd hmode => ?_⟩
    · rw [State.startDump, hdump]
      cases hd : s.dump with
      | none => rfl
      | some d =>
        have hrostered : d.mode = .rostered := by
          cases hm : d.mode with
          | rostered => rfl
          | all => exact absurd hm (hmode d hd)
        simp only [hrostered]
    · rw [State.startDump, hdump, hd]
      simp only [hmode]
  case rostered =>
    rw [exec_rosterDumpStep_of_ready hhold hq hd]
    refine ⟨fun h hc hh hr hlow => ?_, fun hnone => ?_⟩
    · have hnext := State.dumpNext_of_lowest (d := { cursor := cursor, mode := .rostered }) hc hh hr hlow
      rw [State.dumpStep_of_some hnext, State.dumpFrame_of_roster hr]
    · rw [State.dumpStep_of_none (State.dumpNext_of_none hnone)]
  case all =>
    rw [exec_rosterDumpStep_of_ready hhold hq hd]
    refine ⟨fun h k hc hh ht hb hlow => ?_, fun hnone => ?_⟩
    · have hselects : s.dumpSelects .all h = true := by
        rw [State.dumpSelects_all_of_some ht]
        exact bne_iff_ne.2 hb
      have hbelow : ∀ j, cursor ≤ j → j < h → s.dumpSelects .all j = false := fun j hcj hj =>
        State.dumpSelects_all_eq_false fun v hv => hlow j v hcj hj hv
      have hnext := State.dumpNext_of_lowest (d := { cursor := cursor, mode := .all }) hc hh hselects hbelow
      rw [State.dumpStep_of_some hnext, State.dumpFrame_of_tree ht]
    · rw [State.dumpStep_of_none (State.dumpNext_of_none fun j hc hj =>
        State.dumpSelects_all_eq_false fun k hk => hnone j k hc hj hk)]

end Sys2Proof.Machine
end

section
/-! PROOFS. Plans: the plan-level judgement, and the judgement of each grant (R60, R90, R91). -/

namespace Sys2Proof.Machine

/-! ## The plan level (R90) -/

theorem toNat_setWidth_byte (b : Byte) : (b.setWidth 16).toNat = b.toNat := by
  rw [BitVec.toNat_setWidth, Nat.mod_eq_of_lt (b.isLt.trans (by decide))]

theorem treeOfWord_of_byte {tree : Byte} {k : TreeId} (h : k.val = tree.toNat) :
    treeOfWord (tree.setWidth 16) = some k := by
  have hlt : (tree.setWidth 16).toNat < 4 := by rw [toNat_setWidth_byte, ← h]; exact k.isLt
  rw [treeOfWord, dif_pos hlt]
  exact congrArg some (Fin.ext ((toNat_setWidth_byte tree).trans h.symm))

theorem treeOfWord_of_large {tree : Byte} (h : 3 < tree.toNat) : treeOfWord (tree.setWidth 16) = none :=
  treeOfWord_of_lt (by rw [toNat_setWidth_byte]; exact h)

section
variable {s : State} {tree : Byte} {cycle : Word} {count : Nat} {k : TreeId}

theorem State.judgePlan_of_noTree
    (h : 3 < tree.toNat ∨ ∃ k : TreeId, k.val = tree.toNat ∧ (s.tree k).state = .disabled) :
    s.judgePlan tree cycle count = .inr .tree := by
  rcases h with h | ⟨k, hk, hs⟩
  · rw [State.judgePlan, treeOfWord_of_large h]
  · rw [State.judgePlan, treeOfWord_of_byte hk]
    simp only [Tree.inService_of_disabled hs, Bool.not_false, if_true]

variable (hk : k.val = tree.toNat) (hs : (s.tree k).inService = true)
include hk hs

theorem State.judgePlan_of_horizon
    (h : Cycle.distance (s.tree k).n cycle < 7 ∨ 14 < Cycle.distance (s.tree k).n cycle) :
    s.judgePlan tree cycle count = .inr .horizon := by
  rw [State.judgePlan, treeOfWord_of_byte hk]
  simp only [hs, Bool.not_true, Bool.false_eq_true, if_false]
  exact if_pos h

theorem State.judgePlan_of_count (h7 : 7 ≤ Cycle.distance (s.tree k).n cycle)
    (h14 : Cycle.distance (s.tree k).n cycle ≤ 14) (h : 64 < count) : s.judgePlan tree cycle count = .inr .count := by
  rw [State.judgePlan, treeOfWord_of_byte hk]
  simp only [hs, Bool.not_true, Bool.false_eq_true, if_false]
  exact (if_neg (show ¬(Cycle.distance (s.tree k).n cycle < 7 ∨ 14 < Cycle.distance (s.tree k).n cycle) by omega)).trans
    (if_pos h)

theorem State.judgePlan_of_passed (h7 : 7 ≤ Cycle.distance (s.tree k).n cycle)
    (h14 : Cycle.distance (s.tree k).n cycle ≤ 14) (h : count ≤ 64) : s.judgePlan tree cycle count = .inl k := by
  rw [State.judgePlan, treeOfWord_of_byte hk]
  simp only [hs, Bool.not_true, Bool.false_eq_true, if_false]
  exact (if_neg (show ¬(Cycle.distance (s.tree k).n cycle < 7 ∨ 14 < Cycle.distance (s.tree k).n cycle) by omega)).trans
    (if_neg (Nat.not_lt.2 h))

end

section
variable {s : State} {tree : Byte} {cycle : Word} {grants : List PlanGrant} {k : TreeId}

/-- A plan refused at the plan level is answered by one VERDICT, after a late one was noted. -/
theorem State.takePlan_of_refused {reason : PlanReason} (h : s.judgePlan tree cycle grants.length = .inr reason) :
    s.takePlan tree cycle grants
      = (s.notePlanLate tree cycle reason).makeFrame (.verdict tree cycle (some reason) []) := by
  rw [State.takePlan, h]

theorem State.notePlanLate_of_ne {reason : PlanReason} (h : reason ≠ .horizon) :
    s.notePlanLate tree cycle reason = s := by
  cases reason with
  | horizon => exact absurd rfl h
  | tree => rfl
  | count => rfl

theorem State.planLate_iff : s.planLate k cycle = true
    ↔ Cycle.distance (s.tree k).n cycle < 7 ∨ Cycle.distance (s.tree k).n cycle = 65535 := by
  rw [State.planLate, Bool.or_eq_true, beq_iff_eq, decide_eq_true_eq, or_comm, ← Nat.lt_succ_iff]
  rfl

theorem State.notePlanLate_of_late (hk : k.val = tree.toNat) (h : s.planLate k cycle = true) :
    s.notePlanLate tree cycle .horizon = (s.count k .plansLate).writeEvent .planLate k 0 [oneField cycle.toNat] := by
  simp only [State.notePlanLate, treeOfWord_of_byte hk, h, if_true]

theorem State.notePlanLate_of_notLate (hk : k.val = tree.toNat) (h : s.planLate k cycle = false) :
    s.notePlanLate tree cycle .horizon = s := by
  simp only [State.notePlanLate, treeOfWord_of_byte hk, h, Bool.false_eq_true, if_false]

end

/-- The state with one VERDICT made: it waits, or a full queue drops and counts it (R87). -/
def State.answered (s : State) (tree : Byte) (cycle : Word) (reason : PlanReason) : State :=
  if s.outQueue.length < 512 then { s with outQueue := s.outQueue ++ [.verdict tree cycle (some reason) []] }
  else { s with framesDropped := s.framesDropped + 1 }

theorem State.answered_eq (s : State) (tree : Byte) (cycle : Word) (reason : PlanReason) :
    s.makeFrame (.verdict tree cycle (some reason) []) = s.answered tree cycle reason := rfl

/-- Of the answer the queue and the count of dropped frames follow from those before it. -/
theorem State.answered_link {u v : State} {tree : Byte} {cycle : Word} {reason : PlanReason}
    (hq : v.outQueue = u.outQueue) (hd : v.framesDropped = u.framesDropped) :
    (v.answered tree cycle reason).outQueue = (u.answered tree cycle reason).outQueue
      ∧ (v.answered tree cycle reason).framesDropped = (u.answered tree cycle reason).framesDropped := by
  unfold State.answered
  rw [hq]
  split
  · exact ⟨rfl, hd⟩
  · exact ⟨rfl, congrArg (· + 1) hd⟩

theorem State.framesDropped_writeEvent (s : State) (kind : EventKind) (v : TreeId) (j : Nat) (extra : List EventWord) :
    (s.writeEvent kind v j extra).framesDropped = s.framesDropped := by
  unfold State.writeEvent
  split <;> rfl

theorem State.tree_linkTraffic (s : State) (k : TreeId) : s.linkTraffic.tree k = s.tree k := by
  rw [State.tree, State.trees_linkTraffic, State.tree]

theorem exec_plan_of_idle {s u : State} (h : exec .idle s = .next u) (tree : Byte) (cycle : Word)
    (grants : List PlanGrant) :
    exec (.plan tree cycle grants) s = .next (u.takePlan tree cycle grants) ∧ ∀ k, u.tree k = s.tree k := by
  obtain rfl : s.linkTraffic = u := Host.Outcome.next.inj h
  exact ⟨rfl, s.tree_linkTraffic⟩

/-- Settles O57: the refusals of the plan level, after what the frame did to the link. -/
theorem planRefusedAtPlanLevel : Obligations.PlanRefusedAtPlanLevel := by
  intro tree cycle grants s u hidle answered
  obtain ⟨hexec, htrees⟩ := exec_plan_of_idle hidle tree cycle grants
  rw [hexec]
  refine ⟨fun h => ?noTree, fun k hk hs => ?inService⟩
  case noTree =>
    have hrefused : u.judgePlan tree cycle grants.length = .inr .tree :=
      State.judgePlan_of_noTree (h.imp id fun ⟨k, hk, hs⟩ => ⟨k, hk, by rw [htrees]; exact hs⟩)
    rw [State.takePlan_of_refused hrefused, State.notePlanLate_of_ne (reason := .tree) (by decide), State.answered_eq]
    rfl
  case inService =>
    rw [← htrees k] at hs ⊢
    refine ⟨fun hd => ?horizon, fun hd => ?late, fun h7 h14 hc => ?count⟩
    case horizon =>
      obtain ⟨hd14, hd65535⟩ := hd
      have hlate : u.planLate k cycle = false := by
        rw [← Bool.not_eq_true, State.planLate_iff]
        omega
      rw [State.takePlan_of_refused (State.judgePlan_of_horizon hk hs (Or.inr hd14)),
        State.notePlanLate_of_notLate hk hlate, State.answered_eq]
      rfl
    case late =>
      have houtside : Cycle.distance (u.tree k).n cycle < 7 ∨ 14 < Cycle.distance (u.tree k).n cycle := by omega
      let v := (u.count k .plansLate).writeEvent .planLate k 0 [oneField cycle.toNat]
      have hv : u.takePlan tree cycle grants = v.answered tree cycle .horizon := by
        rw [State.takePlan_of_refused (State.judgePlan_of_horizon hk hs houtside),
          State.notePlanLate_of_late hk (State.planLate_iff.2 hd), State.answered_eq]
      have htree : (v.answered tree cycle .horizon).tree k
          = { u.tree k with counters := (u.tree k).counters.put .plansLate ((u.tree k).counters.get .plansLate + 1) } := by
        rw [← State.answered_eq, State.tree_makeFrame, State.tree_writeEvent, State.tree_count, if_pos rfl]
      obtain ⟨hqueue, hdropped⟩ := State.answered_link (u := u) (v := v) (tree := tree) (cycle := cycle)
        (reason := .horizon) (State.outQueue_writeEvent _ _ _ _ _) (State.framesDropped_writeEvent _ _ _ _ _)
      refine ⟨_, congrArg Host.Outcome.next hv, hqueue, hdropped, by rw [htree]; rfl, by rw [htree], ?_⟩
      exact wrote_of_writeEvent (u := u.count k .plansLate) rfl
        (by rw [← State.answered_eq, State.eventQueue_makeFrame])
    case count =>
      rw [State.takePlan_of_refused (State.judgePlan_of_count hk hs h7 h14 hc),
        State.notePlanLate_of_ne (reason := .count) (by decide),
        State.answered_eq]
      rfl

/-! ## The judgement of a grant (R60, R91) -/

theorem keepsGuard_symm {s1 l1 s2 l2 : Nat} (h : keepsGuard s1 l1 s2 l2 = true) : keepsGuard s2 l2 s1 l1 = true := by
  simp only [keepsGuard, decide_eq_true_eq] at h ⊢
  exact h.symm

theorem clearOf_iff {start length : Nat} {rs : List Reservation} :
    clearOf start length rs = true ↔ ∀ r ∈ rs, keepsGuard start length r.start r.length = true := List.all_eq_true

theorem clearOf_quiet_iff {start length : Nat} {rs : List Reservation} :
    clearOf start length (rs.filter Reservation.isQuiet) = true
      ↔ ∀ r ∈ rs, r.isQuiet = true → keepsGuard start length r.start r.length = true := by
  simp only [clearOf_iff, List.mem_filter, and_imp]

theorem SegmentUse.admitsGrant_iff (x : SegmentUse) : x.admitsGrant = true ↔ x = .sched ∨ x = .shared := by
  cases x <;> simp [SegmentUse.admitsGrant]

theorem TreeConfig.liesIn_grant_iff {c : TreeConfig} {start length : Nat} :
    c.liesIn SegmentUse.admitsGrant start length = true
      ↔ ∀ n < 16, start < 1000 * (n + 1) → 1000 * n < start + length → c.segment n = .sched ∨ c.segment n = .shared := by
  simp only [TreeConfig.liesIn, touchedSegments, List.all_eq_true, List.mem_filter, List.mem_range, decide_eq_true_eq,
    SegmentUse.admitsGrant_iff, and_imp]
  exact Iff.rfl

/-- What a grant must be to be accepted into a slot beside those accepted before it (R91). -/
structure GrantFits (s : State) (k : TreeId) (slot : Slot) (accepted : List Reservation) (g : PlanGrant) : Prop where
  long : 32 ≤ g.length.toNat
  within : g.start.toNat + g.length.toNat ≤ 16000
  window : (s.tree k).inWindow g.handle.toNat = true
  notBase : g.handle.toNat ≠ (s.tree k).config.windowBase
  rostered : (s.entry g.handle.toNat).inRoster = true
  segments : (s.tree k).config.liesIn SegmentUse.admitsGrant g.start.toNat g.length.toNat = true
  quiet : ∀ q ∈ slot.reservations, q.isQuiet = true → keepsGuard g.start.toNat g.length.toNat q.start q.length = true
  apart : ∀ a ∈ accepted, keepsGuard g.start.toNat g.length.toNat a.start a.length = true

section
variable {s : State} {k : TreeId} {slot : Slot} {accepted : List Reservation} {g : PlanGrant}

theorem GrantFits.of_judgeGrant (h : s.judgeGrant k slot accepted g = none) : GrantFits s k slot accepted g := by
  simp only [State.judgeGrant] at h
  split at h
  · exact absurd h nofun
  next hbounds =>
  split at h
  · exact absurd h nofun
  next hwindow =>
  split at h
  · exact absurd h nofun
  next hrostered =>
  split at h
  · exact absurd h nofun
  next hsegments =>
  split at h
  · exact absurd h nofun
  next hquiet =>
  split at h
  · exact absurd h nofun
  next hapart =>
  simp only [withinCycle, Bool.not_eq_true', decide_eq_false_iff_not, not_or, not_not, Nat.not_lt] at hbounds
  simp only [Bool.not_eq_true', not_or, Bool.not_eq_false] at hwindow hrostered hsegments hquiet hapart
  obtain ⟨hlong, hwithin⟩ := hbounds
  obtain ⟨hin, hbase⟩ := hwindow
  exact ⟨hlong, hwithin, hin, hbase, hrostered, hsegments, clearOf_quiet_iff.1 hquiet,
    clearOf_iff.1 hapart⟩

end

section
variable (s : State) (k : TreeId) (slot : Slot)

/-- The reservation of an accepted grant. -/
def grantReservation (g : PlanGrant) : Reservation :=
  Reservation.grantFor g.handle.toNat g.start.toNat g.length.toNat

theorem State.judgeGrants_cons_struck {i : Nat} {accepted : List Reservation} {g : PlanGrant} {rest : List PlanGrant}
    {reason : StrikeReason} (h : s.judgeGrant k slot accepted g = some reason) :
    s.judgeGrants k slot i accepted (g :: rest)
      = ((s.judgeGrants k slot (i + 1) accepted rest).1, (i, reason) :: (s.judgeGrants k slot (i + 1) accepted rest).2) := by
  rw [State.judgeGrants, h]

theorem State.judgeGrants_cons_accepted {i : Nat} {accepted : List Reservation} {g : PlanGrant} {rest : List PlanGrant}
    (h : s.judgeGrant k slot accepted g = none) :
    s.judgeGrants k slot i accepted (g :: rest)
      = s.judgeGrants k slot (i + 1) (accepted ++ [grantReservation g]) rest := by
  rw [State.judgeGrants, h]
  rfl

theorem State.judgeGrants_length (grants : List PlanGrant) (i : Nat) (accepted : List Reservation) :
    (s.judgeGrants k slot i accepted grants).1.length + (s.judgeGrants k slot i accepted grants).2.length
      = accepted.length + grants.length := by
  induction grants generalizing i accepted with
  | nil => rfl
  | cons g grants ih =>
    cases hg : s.judgeGrant k slot accepted g with
    | none =>
      rw [State.judgeGrants_cons_accepted s k slot hg, ih, List.length_append, List.length_singleton, List.length_cons]
      omega
    | some reason =>
      have hrest := ih (i + 1) accepted
      rw [State.judgeGrants_cons_struck s k slot hg]
      simp only [List.length_cons]
      omega

/-- The grants accepted before stay in front. -/
theorem State.judgeGrants_prefix (grants : List PlanGrant) (i : Nat) (accepted : List Reservation) :
    accepted <+: (s.judgeGrants k slot i accepted grants).1 := by
  induction grants generalizing i accepted with
  | nil => exact List.prefix_rfl
  | cons g grants ih =>
    cases hg : s.judgeGrant k slot accepted g with
    | none =>
      rw [State.judgeGrants_cons_accepted s k slot hg]
      exact (List.prefix_append _ _).trans (ih _ _)
    | some reason =>
      rw [State.judgeGrants_cons_struck s k slot hg]
      exact ih _ _

/-- Each grant is judged beside those accepted of the grants before it, and struck with its index or accepted (R91). -/
theorem State.judgeGrants_judges {g : PlanGrant} (grants : List PlanGrant) (i j : Nat) (accepted : List Reservation)
    (hg : grants[j]? = some g) :
    let before := (s.judgeGrants k slot i accepted (grants.take j)).1
    (∀ reason, s.judgeGrant k slot before g = some reason →
        (i + j, reason) ∈ (s.judgeGrants k slot i accepted grants).2)
      ∧ (s.judgeGrant k slot before g = none → grantReservation g ∈ (s.judgeGrants k slot i accepted grants).1) := by
  induction grants generalizing i j accepted with
  | nil => exact absurd hg nofun
  | cons x grants ih =>
    cases j with
    | zero =>
      obtain rfl : x = g := Option.some.inj hg
      refine ⟨fun reason h => ?_, fun h => ?_⟩
      · rw [State.judgeGrants_cons_struck s k slot (accepted := accepted) h]
        exact List.mem_cons_self
      · rw [State.judgeGrants_cons_accepted s k slot (accepted := accepted) h]
        exact (State.judgeGrants_prefix s k slot _ _ _).subset (by simp)
    | succ j =>
      rw [List.take_succ_cons]
      cases hx : s.judgeGrant k slot accepted x with
      | none =>
        rw [State.judgeGrants_cons_accepted s k slot hx, State.judgeGrants_cons_accepted s k slot hx,
          ← Nat.add_assoc, Nat.add_right_comm]
        exact ih (i + 1) j _ hg
      | some reason =>
        rw [State.judgeGrants_cons_struck s k slot hx, State.judgeGrants_cons_struck s k slot hx]
        obtain ⟨hstruck, haccepted⟩ := ih (i + 1) j accepted hg
        exact ⟨fun r h => List.mem_cons_of_mem _ (by rw [← Nat.add_assoc, Nat.add_right_comm]; exact hstruck r h), haccepted⟩

/-- The law that every accepted grant obeys (R60). -/
def Lawful (r : Reservation) : Prop :=
  r.kind = .grant ∧ 32 ≤ r.length ∧ r.start + r.length ≤ 16000
    ∧ (∃ h, r.handle = some h ∧ (s.tree k).inWindow h = true ∧ h ≠ (s.tree k).config.windowBase
      ∧ (s.entry h).inRoster = true)
    ∧ (s.tree k).config.liesIn SegmentUse.admitsGrant r.start r.length = true
    ∧ ∀ q ∈ slot.reservations, q.isQuiet = true → keepsGuard r.start r.length q.start q.length = true

theorem GrantFits.lawful {s : State} {k : TreeId} {slot : Slot} {accepted : List Reservation} {g : PlanGrant}
    (h : GrantFits s k slot accepted g) : Lawful s k slot (grantReservation g) :=
  ⟨rfl, h.long, h.within, ⟨_, rfl, h.window, h.notBase, h.rostered⟩, h.segments, h.quiet⟩

theorem State.judgeGrants_lawful (grants : List PlanGrant) (i : Nat) (accepted : List Reservation)
    (hl : ∀ r ∈ accepted, Lawful s k slot r)
    (hp : accepted.Pairwise fun a b => keepsGuard a.start a.length b.start b.length = true) :
    (∀ r ∈ (s.judgeGrants k slot i accepted grants).1, Lawful s k slot r)
      ∧ (s.judgeGrants k slot i accepted grants).1.Pairwise
        fun a b => keepsGuard a.start a.length b.start b.length = true := by
  induction grants generalizing i accepted with
  | nil => exact ⟨hl, hp⟩
  | cons g grants ih =>
    cases hg : s.judgeGrant k slot accepted g with
    | none =>
      have hfits := GrantFits.of_judgeGrant hg
      rw [State.judgeGrants_cons_accepted s k slot hg]
      refine ih _ _ (fun r hr => ?_) ?_
      · rcases List.mem_append.1 hr with hr | hr
        · exact hl r hr
        · rw [List.mem_singleton.1 hr]
          exact hfits.lawful
      · refine List.pairwise_append.2 ⟨hp, List.pairwise_singleton _ _, fun a ha b hb => ?_⟩
        rw [List.mem_singleton.1 hb]
        exact keepsGuard_symm (hfits.apart a ha)
    | some reason =>
      rw [State.judgeGrants_cons_struck s k slot hg]
      exact ih _ _ hl hp

end

/-- Settles O59: the six checks in their order, and the accepted grants by induction on the plan. -/
theorem acceptedGrantsObeyTheLaw : Obligations.AcceptedGrantsObeyTheLaw := by
  refine ⟨fun k slot accepted g s => ?checks, fun k slot grants s => ?grants⟩
  case checks =>
    intro x h start length judged bounds window rostered segments quiet apart
    have hbounds : (length < Config.minGrant ∨ (!withinCycle start length) = true) ↔ ¬bounds := by
      simp only [withinCycle, Bool.not_eq_true', decide_eq_false_iff_not, ← Nat.not_le, ← not_and_or]
      exact Iff.rfl
    have hwindow : ((!x.inWindow h) = true ∨ h = x.config.windowBase) ↔ ¬window := by
      simp only [window, not_and_or, not_not, Bool.not_eq_true', ← Bool.not_eq_true]
    have hrostered : (!(s.entry h).inRoster) = true ↔ ¬rostered := by
      simp only [rostered, Entry.inRoster, Bool.not_eq_true', ← Bool.not_eq_true, Bool.or_eq_true, beq_iff_eq]
    have hsegments : (!x.config.liesIn SegmentUse.admitsGrant start length) = true ↔ ¬segments := by
      rw [Bool.not_eq_true', ← Bool.not_eq_true, TreeConfig.liesIn_grant_iff]
    have hquiet : (!clearOf start length (slot.reservations.filter Reservation.isQuiet)) = true ↔ ¬quiet := by
      rw [Bool.not_eq_true', ← Bool.not_eq_true, clearOf_quiet_iff]
    have hapart : (!clearOf start length accepted) = true ↔ ¬apart := by
      rw [Bool.not_eq_true', ← Bool.not_eq_true, clearOf_iff]
    have hjudged : judged = if ¬bounds then some .bounds else if ¬window then some .window
        else if ¬rostered then some .roster else if ¬segments then some .segment else if ¬quiet then some .quiet
        else if ¬apart then some .overlap else none := by
      simp only [← hbounds, ← hwindow, ← hrostered, ← hsegments, ← hquiet, ← hapart]
      rfl
    rw [hjudged]
    refine ⟨fun h0 => ?_, fun h0 h1 => ?_, fun h0 h1 h2 => ?_, fun h0 h1 h2 h3 => ?_, fun h0 h1 h2 h3 h4 => ?_,
      fun h0 h1 h2 h3 h4 h5 => ?_, fun h0 h1 h2 h3 h4 h5 => ?_⟩
    all_goals simp only [*, not_true, not_false_iff, if_true, if_false]
  case grants =>
    have hlength := s.judgeGrants_length k slot grants 0 []
    have hjudges := fun i g hg => s.judgeGrants_judges k slot (g := g) grants 0 i [] hg
    obtain ⟨hlawful, hpairwise⟩ := s.judgeGrants_lawful k slot grants 0 [] (fun r hr => absurd hr List.not_mem_nil) .nil
    rcases hg : s.judgeGrants k slot 0 [] grants with ⟨accepted, struck⟩
    rw [hg] at hlength hlawful hpairwise
    simp only [hg, Nat.zero_add] at hjudges
    exact ⟨hlength.trans (Nat.zero_add _), hjudges, hlawful, hpairwise⟩

end Sys2Proof.Machine
end

section
/-! PROOFS. The slots of a calendar, the placement of echo slots, the Cool-down Queue and the TIMED bars (R32, R55, R57, R72,
R73). -/

namespace Sys2Proof.Machine

/-! ## The slot of a cycle (R57) -/

theorem Calendar.slot?_cycle {w : Calendar} {c : Cycle} {k : Slot} (h : w.slot? c = some k) : k.cycle = c :=
  beq_iff_eq.1 (List.find?_some (p := fun k : Slot => k.cycle == c) h)

theorem Calendar.mem_of_slot? {w : Calendar} {c : Cycle} {k : Slot} (h : w.slot? c = some k) : k ∈ w.ring :=
  List.mem_of_find?_eq_some h

/-- A slot changed is found changed; every other slot is found as it was. -/
theorem Calendar.slot?_modSlot (w : Calendar) (c d : Cycle) {f : Slot → Slot} (hf : ∀ k, (f k).cycle = k.cycle) :
    (w.modSlot c f).slot? d = if d = c then (w.slot? c).map f else w.slot? d := by
  have hsame : ((fun k : Slot => k.cycle == d) ∘ fun k => if k.cycle = c then f k else k) = fun k => k.cycle == d := by
    funext k
    simp only [Function.comp_apply]
    split
    · rw [hf]
    · rfl
  have hmap : (w.modSlot c f).slot? d = (w.slot? d).map fun k => if k.cycle = c then f k else k := by
    rw [Calendar.modSlot, Calendar.slot?, List.find?_map, hsame, Calendar.slot?]
  rw [hmap]
  cases hk : w.slot? d with
  | none =>
    split
    · next h => rw [← h, hk]; rfl
    · rfl
  | some k =>
    have hcycle := Calendar.slot?_cycle hk
    split
    · next h => rw [← h, hk, Option.map_some, Option.map_some, hcycle, if_pos rfl]
    · next h => rw [Option.map_some, hcycle, if_neg h]

theorem Calendar.slot?_modSlot_of_some {w : Calendar} {c : Cycle} {f : Slot → Slot} {k : Slot}
    (hf : ∀ k, (f k).cycle = k.cycle) (h : w.slot? c = some k) : (w.modSlot c f).slot? c = some (f k) := by
  rw [Calendar.slot?_modSlot w c c hf, if_pos rfl, h, Option.map_some]

theorem Calendar.slot?_modSlot_ne {w : Calendar} {c d : Cycle} {f : Slot → Slot} (hf : ∀ k, (f k).cycle = k.cycle)
    (h : d ≠ c) : (w.modSlot c f).slot? d = w.slot? d := by
  rw [Calendar.slot?_modSlot w c d hf, if_neg h]

/-! ## The lowest start of an echo slot (R73) -/

theorem exists_greatest_le {l : List Nat} {g x : Nat} (hx : x ∈ l) (hxg : x ≤ g) :
    ∃ m ∈ l, m ≤ g ∧ ∀ y ∈ l, y ≤ g → y ≤ m := by
  have hmem : x ∈ l.filter (· ≤ g) := List.mem_filter.2 ⟨hx, decide_eq_true hxg⟩
  cases hmax : (l.filter (· ≤ g)).max? with
  | none => exact absurd (List.max?_eq_none_iff.1 hmax ▸ hmem) List.not_mem_nil
  | some m =>
    obtain ⟨hm, hle⟩ := List.max?_eq_some_iff.1 hmax
    obtain ⟨hml, hmg⟩ := List.mem_filter.1 hm
    exact ⟨m, hml, of_decide_eq_true hmg, fun y hy hyg => hle y (List.mem_filter.2 ⟨hy, decide_eq_true hyg⟩)⟩

section
variable {c : TreeConfig} {rs : List Reservation} {g m : Nat}

theorem echoFits_iff : c.echoFits rs g = true ↔ g + 80 ≤ 16000
    ∧ (∀ n < 16, g < 1000 * (n + 1) → 1000 * n < g + 80 → (c.segment n).admitsEcho = true)
    ∧ ∀ r ∈ rs, g + 80 + 16 ≤ r.start ∨ r.start + r.length + 16 ≤ g := by
  simp only [TreeConfig.echoFits, withinCycle, TreeConfig.liesIn, touchedSegments, clearOf, keepsGuard, Bool.and_eq_true,
    List.all_eq_true, List.mem_filter, List.mem_range, decide_eq_true_eq, and_imp, and_assoc]
  exact Iff.rfl

theorem mem_echoCandidates : m ∈ echoCandidates rs
    ↔ (∃ n < 16, m = 1000 * n) ∨ ∃ r ∈ rs, m = r.start + r.length + 16 := by
  simp only [echoCandidates, List.mem_append, List.mem_map, List.mem_range, eq_comm (a := m)]
  exact Iff.rfl

/-- Below every grain that fits there is a candidate that fits: the greatest candidate at or below it. -/
theorem exists_candidate_le (hg : c.echoFits rs g = true) : ∃ m ∈ echoCandidates rs, m ≤ g ∧ c.echoFits rs m = true := by
  obtain ⟨hwithin, hsegments, hclear⟩ := echoFits_iff.1 hg
  have hsegment : 1000 * (g / 1000) ∈ echoCandidates rs := mem_echoCandidates.2 (Or.inl ⟨g / 1000, by omega, rfl⟩)
  obtain ⟨m, hm, hmg, hgreatest⟩ := exists_greatest_le (g := g) hsegment (by omega)
  have hbase := hgreatest _ hsegment (by omega)
  refine ⟨m, hm, hmg, echoFits_iff.2 ⟨by omega, fun n hn h1 h2 => hsegments n hn (by omega) (by omega), fun r hr => ?_⟩⟩
  rcases hclear r hr with h | h
  · exact Or.inl (by omega)
  · exact Or.inr (hgreatest _ (mem_echoCandidates.2 (Or.inr ⟨r, hr, rfl⟩)) h)

theorem echoStart_eq_some_iff {start : Nat} : c.echoStart rs = some start
    ↔ c.echoFits rs start = true ∧ ∀ g, c.echoFits rs g = true → start ≤ g := by
  rw [TreeConfig.echoStart, List.min?_eq_some_iff]
  constructor
  · rintro ⟨hmem, hleast⟩
    refine ⟨(List.mem_filter.1 hmem).2, fun g hg => ?_⟩
    obtain ⟨m, hm, hmg, hfits⟩ := exists_candidate_le hg
    exact (hleast m (List.mem_filter.2 ⟨hm, hfits⟩)).trans hmg
  · rintro ⟨hfits, hleast⟩
    obtain ⟨m, hm, hms, hmfits⟩ := exists_candidate_le hfits
    obtain rfl : m = start := Nat.le_antisymm hms (hleast m hmfits)
    exact ⟨List.mem_filter.2 ⟨hm, hfits⟩, fun g hg => hleast g (List.mem_filter.1 hg).2⟩

theorem echoStart_eq_none_iff : c.echoStart rs = none ↔ ∀ g, c.echoFits rs g = false := by
  constructor
  · intro h g
    by_contra hg
    rw [Bool.not_eq_false] at hg
    obtain ⟨m, hm, -, hfits⟩ := exists_candidate_le hg
    rw [TreeConfig.echoStart, List.min?_eq_none_iff] at h
    exact absurd (h ▸ List.mem_filter.2 ⟨hm, hfits⟩) List.not_mem_nil
  · intro h
    rw [TreeConfig.echoStart, List.min?_eq_none_iff, List.filter_eq_nil_iff]
    exact fun m _ => Bool.eq_false_iff.1 (h m)

end

/-! ## An echo slot placed (R73) -/

/-- The echo slot of a candidate. -/
def echoSlot (purpose : EchoPurpose) (h start : Nat) : Reservation :=
  { Reservation.bare .echo start 80 with handle := some h, purpose := some purpose }

section
variable (s : State) (t : TreeId) (c : Cycle) (h start : Nat)

/-- The tree with an echo slot joined to the slot of cycle c. -/
def Tree.withEcho (x : Tree) (c : Cycle) (r : Reservation) : Tree :=
  { x with calendar := x.calendar.modSlot c fun k => { k with reservations := insertReservation r k.reservations } }

theorem State.tree_placeEcho_settle : (s.placeEcho t c .settle h start).tree t
    = { (s.tree t).withEcho c (echoSlot .settle h start) with
        calendar := { ((s.tree t).withEcho c (echoSlot .settle h start)).calendar with
          settleDue := (s.tree t).calendar.settleDue.filter (· != h) } } := by
  simp only [State.placeEcho, State.dropSettleDue, State.modEntry_tree, State.tree_modCalendar, State.tree_modSlot,
    if_true]
  rfl

theorem State.tree_placeEcho_probe : (s.placeEcho t c .probe h start).tree t
    = { (s.tree t).withEcho c (echoSlot .probe h start) with
        upkeep := { (s.tree t).upkeep with probeDue := (s.tree t).upkeep.probeDue.filter (· != h) } } := by
  simp only [State.placeEcho, State.modEntry_tree, State.tree_modUpkeep, State.tree_modSlot, if_true]
  rfl

variable {s h} (hfree : (s.entry h).state ≠ .free)
include hfree

theorem State.entry_placeEcho_settle : (s.placeEcho t c .settle h start).entry h
    = { s.entry h with settleAttempts := (s.entry h).settleAttempts.map (· + 1), settleEchoCycle := some c } :=
  State.entry_modEntry _ h _ hfree

theorem State.entry_placeEcho_probe :
    (s.placeEcho t c .probe h start).entry h = { s.entry h with probeInFlight := some true } :=
  State.entry_modEntry _ h _ hfree

end

/-- Settles O47: the lowest start, the candidates in turn, and what placing one does. -/
theorem echoSlotTakesTheLowestStart : Obligations.EchoSlotTakesTheLowestStart := by
  refine ⟨fun c rs => ⟨fun start => echoStart_eq_some_iff, echoStart_eq_none_iff⟩,
    fun x => ⟨List.length_take_le _ _, List.take_prefix _ _⟩,
    fun k c s => ⟨rfl, fun purpose h rest => ⟨fun start hs => ?placed, fun hs => ?stops⟩⟩,
    fun k c h start slot s hfree hslot => ?places⟩
  case placed => rw [State.placeEchoes, hs]
  case stops => rw [State.placeEchoes, hs]
  case places =>
    intro echo settled probed
    have hsettled := s.tree_placeEcho_settle k c h start
    have hprobed := s.tree_placeEcho_probe k c h start
    have hplaced : ∀ r, ((s.tree k).withEcho c r).calendar.slot? c
        = some { slot with reservations := insertReservation r slot.reservations } := fun r =>
      Calendar.slot?_modSlot_of_some (fun _ => rfl) hslot
    refine ⟨?_, congrArg (·.calendar.settleDue) hsettled, (congrArg Tree.upkeep hsettled).trans rfl,
      State.entry_placeEcho_settle k c start hfree, ?_, congrArg (·.upkeep.probeDue) hprobed,
      (congrArg (·.calendar.settleDue) hprobed).trans rfl, State.entry_placeEcho_probe k c start hfree⟩
    · exact (congrArg (·.calendar.slot? c) hsettled).trans (hplaced (echoSlot .settle h start))
    · exact (congrArg (·.calendar.slot? c) hprobed).trans (hplaced (echoSlot .probe h start))

/-! ## The Cool-down Queue (R55) -/

theorem Tree.cooled_of_append {x : Tree} {cooled rest : List CoolRecord} (h : x.coolDown = cooled ++ rest)
    (hcooled : ∀ r ∈ cooled, 32 ≤ Cycle.distance r.released x.n)
    (hrest : ∀ r, rest.head? = some r → Cycle.distance r.released x.n < 32) : x.cooled = cooled := by
  have hpos : ∀ r ∈ cooled, decide (Config.coolingCycles ≤ Cycle.distance r.released x.n) = true := fun r hr =>
    decide_eq_true (hcooled r hr)
  rw [Tree.cooled, h, List.takeWhile_append_of_pos hpos]
  cases rest with
  | nil => rw [List.takeWhile_nil, List.append_nil]
  | cons r rest =>
    have hneg : ¬decide (Config.coolingCycles ≤ Cycle.distance r.released x.n) = true := by
      rw [decide_eq_true_eq]
      exact Nat.not_le.2 (hrest r rfl)
    rw [List.takeWhile_cons, if_neg hneg, List.append_nil]

/-! ## The TIMED bars (R32) -/

theorem BarRecord.ended_iff (b : BarRecord) (k : TreeId) : b.ended k = true ↔ ∃ c, b.kind = .timed k 0 c := by
  cases hb : b.kind with
  | permanent => simp only [BarRecord.ended, hb, Bool.false_eq_true, reduceCtorEq, exists_false]
  | timed setter holdOff units =>
    simp only [BarRecord.ended, hb, Bool.and_eq_true, beq_iff_eq, BarKind.timed.injEq, exists_and_left, exists_eq', and_true]

theorem BarRecord.countBoundary_timed (k : TreeId) (m : Mark) (h c : Nat) :
    BarRecord.countBoundary { mark := m, kind := .timed k h c } k
      = { mark := m, kind := if c + 1 = 256 then .timed k (h - 1) 0 else .timed k h (c + 1) } := by
  simp only [BarRecord.countBoundary, if_true]
  rfl

theorem BarRecord.countBoundary_iterate (k : TreeId) (m : Mark) (h n : Nat) :
    (fun b : BarRecord => b.countBoundary k)^[n] { mark := m, kind := .timed k h 0 }
      = { mark := m, kind := .timed k (h - n / 256) (n % 256) } := by
  induction n with
  | zero => rfl
  | succ n ih =>
    rw [Function.iterate_succ_apply', ih, BarRecord.countBoundary_timed]
    split
    · next hfull => rw [show (n + 1) / 256 = n / 256 + 1 by omega, show (n + 1) % 256 = 0 by omega, Nat.sub_add_eq]
    · next hpart => rw [show (n + 1) / 256 = n / 256 by omega, show (n + 1) % 256 = n % 256 + 1 by omega]

/-- Settles O52: the two expiries, and the count of a TIMED bar by induction on the boundaries. -/
theorem coolingAndBarExpiries : Obligations.CoolingAndBarExpiries := by
  refine ⟨fun k cooled rest s h hcooled hrest => ?cooling, fun k s => ?bars,
    fun k m h n _ => BarRecord.countBoundary_iterate k m h n, fun k b hb => ?others⟩
  case cooling =>
    have hc := Tree.cooled_of_append h hcooled hrest
    have hexec : exec (.coolingExpiry k) s = .next (s.takeCooled k) := rfl
    rw [hexec, State.takeCooled, State.modTree, hc, h, List.drop_left]
  case bars =>
    refine ⟨_, rfl, List.filter_sublist, fun b hb => ?_⟩
    rw [List.mem_filter, Bool.not_eq_true', ← Bool.not_eq_true, BarRecord.ended_iff, not_exists]
    exact and_iff_right hb
  case others =>
    unfold BarRecord.countBoundary
    split
    · rfl
    · next setter holdOff units hk => exact if_neg fun he : setter = k => hb holdOff units (he ▸ hk)

end Sys2Proof.Machine
end

section
/-! PROOFS. The choice of a send, and what sending each message does (R152, R159, R162 to R164, R169, R179). -/

namespace Sys2Proof.Machine

/-! ## The precedence pass of a send (R162) -/

/-- The index of the first reservation that names a handle. -/
def placeOf (rs : List Reservation) (h : Nat) : Nat := rs.findIdx fun r => r.handle == some h

theorem placeOf_lt {rs : List Reservation} {h : Nat} (hh : h ∈ rs.filterMap Reservation.handle) :
    placeOf rs h < rs.length := by
  obtain ⟨r, hr, hrh⟩ := List.mem_filterMap.1 hh
  exact List.findIdx_lt_length_of_exists ⟨r, hr, by rw [hrh, beq_self_eq_true]⟩

theorem placeOf_append_of_mem {rs : List Reservation} {h : Nat} (hh : h ∈ rs.filterMap Reservation.handle)
    (more : List Reservation) : placeOf (rs ++ more) h = placeOf rs h :=
  List.findIdx_append.trans (if_pos (placeOf_lt hh))

theorem le_placeOf_append {rs : List Reservation} {h : Nat} (hh : h ∉ rs.filterMap Reservation.handle)
    (more : List Reservation) : rs.length ≤ placeOf (rs ++ more) h := by
  have hnone : ∀ r ∈ rs, (r.handle == some h) = false := fun r hr => by
    rw [beq_eq_false_iff_ne]
    exact fun he => hh (List.mem_filterMap.2 ⟨r, hr, he⟩)
  have hlength : rs.findIdx (fun r => r.handle == some h) = rs.length := List.findIdx_eq_length.2 hnone
  rw [placeOf, List.findIdx_append, hlength, if_neg (Nat.lt_irrefl _)]
  exact Nat.le_add_left _ _

/-- The handles that reservations name, each once, stand in the order in which they are first named. -/
theorem pairwise_placeOf (rs : List Reservation) :
    (rs.filterMap Reservation.handle).eraseDups.Pairwise fun a b => placeOf rs a < placeOf rs b := by
  induction rs using List.reverseRecOn with
  | nil => exact .nil
  | append_singleton rs r ih =>
    have hkept : (rs.filterMap Reservation.handle).eraseDups.Pairwise
        fun a b => placeOf (rs ++ [r]) a < placeOf (rs ++ [r]) b :=
      ih.imp_of_mem fun ha hb hab => by
        rwa [placeOf_append_of_mem (List.mem_eraseDups.1 ha), placeOf_append_of_mem (List.mem_eraseDups.1 hb)]
    rw [List.filterMap_append, List.eraseDups_append, List.pairwise_append]
    have hnew : ∀ b ∈ (([r].filterMap Reservation.handle).removeAll (rs.filterMap Reservation.handle)).eraseDups,
        r.handle = some b ∧ b ∉ rs.filterMap Reservation.handle := fun b hb => by
      rw [List.mem_eraseDups, List.removeAll, List.mem_filter] at hb
      obtain ⟨hmem, hnot⟩ := hb
      have hnot : b ∉ rs.filterMap Reservation.handle := by simpa using hnot
      obtain ⟨x, hx, hxb⟩ := List.mem_filterMap.1 hmem
      exact ⟨List.mem_singleton.1 hx ▸ hxb, hnot⟩
    refine ⟨hkept, ?_, fun a ha b hb => ?_⟩
    · cases hr : r.handle with
      | none => rw [List.filterMap_cons, hr]; exact .nil
      | some h =>
        have hone : [r].filterMap Reservation.handle = [h] := by rw [List.filterMap_cons, hr]; rfl
        rw [hone, List.removeAll, List.filter_cons]
        split
        · rw [List.filter_nil, List.eraseDups_cons]
          exact List.pairwise_singleton ..
        · exact .nil
    · rw [placeOf_append_of_mem (List.mem_eraseDups.1 ha)]
      exact (placeOf_lt (List.mem_eraseDups.1 ha)).trans_le (le_placeOf_append (hnew b hb).2 _)

/-- The handles that the reservations name and whose entries owe an UNHUSH, in the order in which they are named. -/
def State.unhushWanted (s : State) (rs : List Reservation) : List Nat :=
  (rs.filterMap Reservation.handle).eraseDups.filter fun h => (s.entry h).owed.map Owed.kind == some .unhush

section
variable {s : State} {rs : List Reservation} {h : Nat}

theorem State.mem_unhushWanted : h ∈ s.unhushWanted rs
    ↔ (∃ r ∈ rs, r.handle = some h) ∧ (s.entry h).owed.map Owed.kind = some .unhush := by
  rw [State.unhushWanted, List.mem_filter, List.mem_eraseDups, List.mem_filterMap, beq_iff_eq]

theorem State.unhushWanted_pairwise : (s.unhushWanted rs).Pairwise fun a b => placeOf rs a < placeOf rs b :=
  (pairwise_placeOf rs).sublist List.filter_sublist

theorem State.unhushNamed_eq : s.unhushNamed rs = (s.unhushWanted rs).take 4 := rfl

theorem State.mem_unhushNamed_or (hh : h ∈ s.unhushWanted rs) : h ∈ s.unhushNamed rs
    ∨ ((s.unhushNamed rs).length = 4 ∧ ∀ a ∈ s.unhushNamed rs, placeOf rs a < placeOf rs h) := by
  rw [State.unhushNamed_eq]
  have hp := s.unhushWanted_pairwise (rs := rs)
  rw [← List.take_append_drop 4 (s.unhushWanted rs)] at hh hp
  rcases List.mem_append.1 hh with hh | hh
  · exact Or.inl hh
  · have hlength := List.length_pos_of_mem hh
    rw [List.length_drop] at hlength
    exact Or.inr ⟨by rw [List.length_take]; omega, fun a ha => (List.pairwise_append.1 hp).2.2 a ha h hh⟩

end

/-- A message stands after all of its kind and of higher ones, and before all of lower ones that follow (R159). -/
theorem insertMessage_split (m : QueuedMessage) (queue : List QueuedMessage) : ∃ before after, queue = before ++ after
    ∧ insertMessage m queue = before ++ m :: after ∧ (∀ x ∈ before, x.rank ≤ m.rank)
    ∧ ∀ x ∈ after.head?, m.rank < x.rank := by
  induction queue with
  | nil => exact ⟨[], [], rfl, rfl, nofun, nofun⟩
  | cons y queue ih =>
    by_cases hy : m.rank < y.rank
    · refine ⟨[], y :: queue, rfl, by rw [insertMessage, if_pos hy]; rfl, nofun, fun x hx => ?_⟩
      obtain rfl : y = x := Option.some.inj hx
      exact hy
    · obtain ⟨before, after, hqueue, hinsert, hbefore, hafter⟩ := ih
      refine ⟨y :: before, after, by rw [hqueue, List.cons_append], by rw [insertMessage, if_neg hy, hinsert]; rfl,
        fun x hx => ?_, hafter⟩
      rcases List.mem_cons.1 hx with rfl | hx
      · exact Nat.not_lt.1 hy
      · exact hbefore x hx

/-! ## What sending a message does (R152, R163, R169, R179) -/

section
variable {s : State} {t : TreeId} {h : Nat}

theorem State.noteHushSent_eq (s : State) (t : TreeId) (h : Nat) : ∃ f, s.noteHushSent t h = s.modRogue t f := by
  unfold State.noteHushSent
  split
  · exact ⟨_, rfl⟩
  · exact ⟨id, (State.modTree_of_fixed rfl).symm⟩

theorem State.owedSent_of_more {o : Owed} (ho : (s.entry h).owed = some o) (hn : 1 < o.sends) :
    s.owedSent t h = (s.modEntry h fun e => { e with owed := some { o with sends := o.sends - 1 } }).joinCopy t h := by
  rw [State.owedSent, ho]
  exact if_pos hn

theorem State.owedSent_of_last {o : Owed} (ho : (s.entry h).owed = some o) (hn : o.sends ≤ 1) (hk : o.kind ≠ .release) :
    s.owedSent t h = s.modEntry h fun e => { e with owed := none } := by
  rw [State.owedSent, ho]
  exact (if_neg (Nat.not_lt.2 hn)).trans (if_neg hk)

theorem State.owedSent_of_lastRelease {o : Owed} (ho : (s.entry h).owed = some o) (hn : o.sends ≤ 1)
    (hk : o.kind = .release) :
    s.owedSent t h = (s.modEntry h fun e => { e with owed := none }).endDeparture t h := by
  rw [State.owedSent, ho]
  exact (if_neg (Nat.not_lt.2 hn)).trans (if_pos hk)

/-- An owed message with sends left: it loses one, and a copy more joins the queue. -/
theorem State.owedSent_more_outcome (hs : (s.entry h).state ≠ .free) {o : Owed} (ho : (s.entry h).owed = some o)
    (hn : 1 < o.sends) :
    (s.owedSent t h).entry h = { s.entry h with owed := some { o with sends := o.sends - 1 } }
      ∧ ((s.owedSent t h).tree t).control.queue
        = insertMessage ((s.entry h).copyFor h o.kind) (s.tree t).control.queue := by
  have hentry : (s.modEntry h fun e => { e with owed := some { o with sends := o.sends - 1 } }).entry h
      = { s.entry h with owed := some { o with sends := o.sends - 1 } } := State.entry_modEntry _ _ _ hs
  rw [State.owedSent_of_more ho hn, State.joinCopy_eq, State.tree_modControl, if_pos rfl, hentry]
  refine ⟨hentry, ?_⟩
  cases o with
  | mk kind sends => cases kind <;> rfl

/-- The sending of an owed message leaves the Rogue Monitor alone. -/
theorem State.owedSent_rogue (s : State) (t : TreeId) (h : Nat) :
    ((s.owedSent t h).tree t).rogue = (s.tree t).rogue := by
  cases ho : (s.entry h).owed with
  | none => rw [State.owedSent, ho]
  | some o =>
    by_cases hn : 1 < o.sends
    · rw [State.owedSent_of_more ho hn, State.joinCopy_eq, State.tree_modControl, if_pos rfl, State.modEntry_tree]
    · by_cases hk : o.kind = .release
      · rw [State.owedSent_of_lastRelease ho (Nat.not_lt.1 hn) hk, State.endDeparture]
        simp only [State.tree_writeEvent, State.tree_count, State.tree_modTree, State.freeEntry_tree,
          State.modEntry_tree, if_true]
      · rw [State.owedSent_of_last ho (Nat.not_lt.1 hn) hk, State.modEntry_tree]

/-- What the end of a departure leaves (R54, R169). -/
theorem State.endDeparture_outcome {m : Mark} (hm : (s.entry h).mark = some m) :
    (s.endDeparture t h).entry h = Entry.free ∧ (s.endDeparture t h).findMark m = none
      ∧ ((s.endDeparture t h).tree t).coolDown = (s.tree t).coolDown ++ [{ handle := h, released := (s.tree t).n }]
      ∧ ((s.endDeparture t h).tree t).counters.releases = (s.tree t).counters.releases + 1
      ∧ wrote s (s.endDeparture t h) .released t h
        (markWords m (byteFields (((s.entry h).reason.getD .host).code) (yesNo ((s.entry h).reservedByHost.getD false)))) := by
  let u := ((s.freeEntry h).modTree t fun x => { x with coolDown := x.coolDown ++ [{ handle := h, released := x.n }] }).count
    t .releases
  have hevent : s.endDeparture t h = u.writeEvent .released t h
      (markWords m (byteFields (((s.entry h).reason.getD .host).code) (yesNo ((s.entry h).reservedByHost.getD false)))) := by
    rw [State.endDeparture, hm]
    rfl
  have htree : u.tree t = { s.tree t with
      coolDown := (s.tree t).coolDown ++ [{ handle := h, released := (s.tree t).n }]
      counters := (s.tree t).counters.put .releases ((s.tree t).counters.get .releases + 1) } := by
    simp only [u, State.tree_count, State.tree_modTree, State.freeEntry_tree, if_true]
  rw [hevent]
  refine ⟨?_, ?_, by rw [State.tree_writeEvent, htree], by rw [State.tree_writeEvent, htree]; rfl, ?_⟩
  · rw [State.entry_writeEvent]
    exact (State.entry_freeEntry s h h).trans (if_pos rfl)
  · rw [State.findMark, State.markIndex_writeEvent]
    exact (State.findMark_freeEntry hm m).trans (if_pos rfl)
  · exact wrote_of_writeEvent (u := u) rfl rfl

end

/-- Settles O50: the choice, the join order, the backlog, and the sending of each kind of message. -/
theorem sendingAMessageEndsItsDuty : Obligations.SendingAMessageEndsItsDuty := by
  refine ⟨fun k rs s => ?choice, insertMessage_split, fun k c rs s => rfl,
    fun k h s => ⟨s.fillBacklog_eq k, rfl⟩, fun k c h s hs =>
    ⟨fun amount generation => ?trim, fun m hm => ⟨fun n hn ho => ?releaseAgain, fun ho => ?lastRelease⟩,
      fun n hn => ⟨fun ho => ?hushAgain, fun ho => ?unhushAgain⟩, fun ho => ?lastHush, fun ho => ?lastUnhush,
      fun w hw => ?sweep⟩⟩
  case choice =>
    intro control wanted place
    refine ⟨s.unhushNamed rs, rfl, List.length_take_le _ _, fun h hh => ?_, ?_, fun h hh => ?_⟩
    · exact State.mem_unhushWanted.1 (List.mem_of_mem_take hh)
    · exact s.unhushWanted_pairwise.sublist (List.take_sublist _ _)
    · exact State.mem_unhushNamed_or (State.mem_unhushWanted.2 hh)
  case trim =>
    refine ⟨(State.entry_count _ _ _ _).trans (State.entry_modEntry _ _ _ hs), ?_⟩
    rw [State.messageSent, State.trimSent, State.tree_count, if_pos rfl, State.modEntry_tree]
    rfl
  case releaseAgain =>
    obtain ⟨hentry, hqueue⟩ := State.owedSent_more_outcome (t := k) hs ho hn
    refine ⟨hentry, hqueue.trans ?_⟩
    rw [Entry.copyFor, hm]
    rfl
  case lastRelease =>
    have hv : (s.modEntry h fun e => { e with owed := none }).entry h = { s.entry h with owed := none } :=
      State.entry_modEntry _ _ _ hs
    obtain ⟨hentry, hmark, hcool, hcount, hwrote⟩ :=
      State.endDeparture_outcome (t := k) (s := s.modEntry h fun e => { e with owed := none }) (h := h) (m := m)
        (by rw [hv]; exact hm)
    rw [hv] at hwrote
    have hsent : s.messageSent k c (.release h m) = (s.modEntry h fun e => { e with owed := none }).endDeparture k h :=
      State.owedSent_of_lastRelease ho le_rfl rfl
    rw [hsent]
    exact ⟨hentry, hmark, hcool, hcount, hwrote⟩
  case hushAgain =>
    obtain ⟨f, hf⟩ := s.noteHushSent_eq k h
    obtain ⟨hentry, hqueue⟩ := State.owedSent_more_outcome (s := s.modRogue k f) (t := k) hs ho hn
    rw [State.messageSent, hf]
    rw [State.tree_modRogue, if_pos rfl] at hqueue
    exact ⟨hentry, hqueue⟩
  case unhushAgain => exact State.owedSent_more_outcome hs ho hn
  case lastHush =>
    obtain ⟨f, hf⟩ := s.noteHushSent_eq k h
    rw [State.messageSent, hf, State.owedSent_of_last (s := s.modRogue k f) ho le_rfl nofun]
    refine ⟨State.entry_modEntry _ _ _ hs, ?_⟩
    rw [State.modEntry_tree, State.tree_modRogue, if_pos rfl]
  case lastUnhush =>
    rw [State.messageSent, State.owedSent_of_last ho le_rfl nofun]
    exact ⟨State.entry_modEntry _ _ _ hs, rfl⟩
  case sweep =>
    have hsent : ((s.messageSent k c (.hush h)).tree k).rogue.sweep = ((s.noteHushSent k h).tree k).rogue.sweep :=
      congrArg RogueMonitor.sweep ((s.noteHushSent k h).owedSent_rogue k h)
    rw [hsent, State.noteHushSent]
    refine ⟨fun howned hstage hcurrent => ?_, fun hother => ?_⟩
    · rw [if_pos howned, State.tree_modRogue, if_pos rfl]
      simp only [hw, Option.map_some, hstage, hcurrent, and_self, if_true]
    · have hnot : ¬(w.stage = .hushing ∧ w.current = h) := by
        rintro ⟨h1, h2⟩
        rcases hother with h | h
        · exact absurd (h1.symm.trans h) nofun
        · exact h h2
      split
      · rw [State.tree_modRogue, if_pos rfl]
        simp only [hw, Option.map_some, if_neg hnot]
      · exact hw

end Sys2Proof.Machine
end

section
/-! PROOFS. The tests a burst report passes, and where it ends (R13 to R16, R76, R81). -/

namespace Sys2Proof.Machine

/-! ## The tests of a record (R14) -/

theorem ReportResult.ofByte_eq_none {b : Byte} (h : ReportResult.ofByte b = none) : 4 < b.toNat := by
  refine Nat.lt_of_not_le fun hle => ?_
  unfold ReportResult.ofByte at h
  interval_cases b.toNat <;> exact absurd h nofun

theorem ReportResult.ofByte_eq_some {b : Byte} {result : ReportResult} (h : ReportResult.ofByte b = some result) :
    b = BitVec.ofNat 8 result.code := by
  unfold ReportResult.ofByte at h
  refine BitVec.eq_of_toNat_eq ?_
  split at h
  case h_6 => exact absurd h nofun
  all_goals
    obtain rfl := Option.some.inj h
    simpa [ReportResult.code] using ‹b.toNat = _›

/-- The answer a record's payload spells, none when it carries no payload. -/
def reportAnswer (r : ReportRecord) : Option Payload :=
  if reportHasPayload r then Payload.ofBytes r.payload else none

theorem reportAnswer_eq (r : ReportRecord) :
    reportAnswer r = if reportHasPayload r then Payload.ofBytes r.payload else none := rfl

section
variable {l : List Byte}

theorem Payload.ofBytes_of_hello (h : helloBytes l) : ∃ m c b, Payload.ofBytes l = some (.hello m c b) := by
  obtain ⟨hlength, hhead, hclass, hbackoff⟩ := h
  match l, hlength with
  | [kind, m5, m4, m3, m2, m1, m0, c, b1, b0], _ =>
    exact ⟨_, _, _, if_pos ⟨Option.some.inj hhead, hclass, hbackoff⟩⟩

theorem Payload.ofBytes_of_answer (h : answerBytes l) : ∃ m j, Payload.ofBytes l = some (.answer m j) := by
  obtain ⟨hlength, hhead, hhandle⟩ := h
  match l, hlength with
  | [kind, m5, m4, m3, m2, m1, m0, h1, h0], _ => exact ⟨_, _, if_pos ⟨Option.some.inj hhead, hhandle⟩⟩

theorem Payload.ofBytes_of_echo (h : echoBytes l) : ∃ j status g, Payload.ofBytes l = some (.echo j status g) := by
  obtain ⟨hlength, hhead, hstatus, hgeneration⟩ := h
  match l, hlength with
  | [kind, h1, h0, status, g], _ =>
    have hstatus : status.toNat ≤ 1 := hstatus
    unfold Payload.ofBytes
    simp only
    rw [if_pos ⟨Option.some.inj hhead, hgeneration⟩]
    rcases Nat.le_one_iff_eq_zero_or_eq_one.1 hstatus with hzero | hone
    · rw [hzero]
      exact ⟨_, _, _, rfl⟩
    · rw [hone]
      exact ⟨_, _, _, rfl⟩

/-- A payload that is read is of one of the three layouts (R11). -/
theorem Payload.bytes_of_ofBytes {p : Payload} (h : Payload.ofBytes l = some p) :
    (helloBytes l ∧ ∃ m c b, p = .hello m c b) ∨ (answerBytes l ∧ ∃ m j, p = .answer m j)
      ∨ (echoBytes l ∧ ∃ j status g, p = .echo j status g) := by
  unfold Payload.ofBytes at h
  split at h
  · split at h
    case isTrue hfits =>
      obtain ⟨rfl, hclass, hbackoff⟩ := hfits
      exact Or.inl ⟨⟨rfl, rfl, hclass, hbackoff⟩, _, _, _, (Option.some.inj h).symm⟩
    case isFalse => exact absurd h nofun
  · split at h
    case isTrue hfits =>
      obtain ⟨rfl, hhandle⟩ := hfits
      exact Or.inr (Or.inl ⟨⟨rfl, rfl, hhandle⟩, _, _, (Option.some.inj h).symm⟩)
    case isFalse => exact absurd h nofun
  · split at h
    case isTrue hfits =>
      obtain ⟨rfl, hgeneration⟩ := hfits
      split at h
      case h_3 => exact absurd h nofun
      case h_1 status heq =>
        exact Or.inr (Or.inr ⟨⟨rfl, rfl, heq.le.trans zero_le_one, hgeneration⟩, _, _, _, (Option.some.inj h).symm⟩)
      case h_2 status heq =>
        exact Or.inr (Or.inr ⟨⟨rfl, rfl, heq.le, hgeneration⟩, _, _, _, (Option.some.inj h).symm⟩)
    case isFalse => exact absurd h nofun
  · exact absurd h nofun

theorem Payload.ofBytes_eq_none_iff :
    Payload.ofBytes l = none ↔ ¬ helloBytes l ∧ ¬ answerBytes l ∧ ¬ echoBytes l := by
  constructor
  · intro h
    refine ⟨fun hb => ?_, fun hb => ?_, fun hb => ?_⟩
    · obtain ⟨_, _, _, heq⟩ := Payload.ofBytes_of_hello hb
      exact absurd (h.symm.trans heq) nofun
    · obtain ⟨_, _, heq⟩ := Payload.ofBytes_of_answer hb
      exact absurd (h.symm.trans heq) nofun
    · obtain ⟨_, _, _, heq⟩ := Payload.ofBytes_of_echo hb
      exact absurd (h.symm.trans heq) nofun
  · rintro ⟨hhello, hanswer, hecho⟩
    refine Option.eq_none_iff_forall_ne_some.2 fun p hp => ?_
    rcases Payload.bytes_of_ofBytes hp with ⟨hb, _⟩ | ⟨hb, _⟩ | ⟨hb, _⟩
    exacts [hhello hb, hanswer hb, hecho hb]

end

section
variable {r : ReportRecord} {result : ReportResult}

theorem resultFitsKind_eq_false_iff (hr : r.result = BitVec.ofNat 8 result.code) (kind : Option ReservationKind) :
    resultFitsKind result kind = false ↔ failsResultForKind r kind := by
  unfold failsResultForKind
  rw [hr]
  rcases kind with _ | kind
  · cases result <;> decide
  · cases kind <;> cases result <;> decide

theorem reportEncodingOk_eq_false_iff (hr : r.result = BitVec.ofNat 8 result.code) :
    reportEncodingOk r = false ↔ failsEncoding r ∨ r.payload.length ≠ r.payloadLength.toNat := by
  have hcode : ¬ 4 < r.result.toNat := by rw [hr]; cases result <;> decide
  unfold reportEncodingOk failsEncoding carries reportHasPayload
  cases hseven : r.flags.getLsbD 7
  · cases hsix : r.flags.getLsbD 6 <;> simp [hcode, imp_iff_not_or]
  · simp

theorem reportPresenceOk_eq_false_iff (hr : r.result = BitVec.ofNat 8 result.code) :
    reportPresenceOk r result = false ↔ failsPresence r := by
  unfold reportPresenceOk failsPresence carries reportHasArrival reportHasHeader reportHasPayload
  rw [hr]
  generalize r.flags.getLsbD 4 = arrival, r.flags.getLsbD 5 = header, r.flags.getLsbD 6 = payload
  revert arrival header payload
  cases result <;> decide

theorem reportRangesOk_eq_false_iff (hr : r.result = BitVec.ofNat 8 result.code) :
    reportRangesOk r result = false ↔ failsRanges r := by
  have hgrains : (¬ r.arrival.toNat < Config.grainsPerCycle) ↔ 15999 < r.arrival.toNat := Nat.not_lt
  have hhandles : (¬ r.header.toNat < Config.handles) ↔ 511 < r.header.toNat := Nat.not_lt
  have hbursts : (¬ r.burstCount.toNat ≤ Config.maxBursts) ↔ 16 < r.burstCount.toNat := Nat.not_le
  have hend : result = .windowEnd ↔ r.result = 4 := by rw [hr]; cases result <;> decide
  unfold reportRangesOk failsRanges carries reportHasArrival reportHasHeader
  rw [← hgrains, ← hhandles, ← hbursts, ← hend]
  simp only [Bool.and_eq_false_iff, Bool.or_eq_false_iff, Bool.not_eq_false', decide_eq_false_iff_not,
    beq_eq_false_iff_ne, bne_eq_false_iff_eq]
  exact ⟨fun h => h.elim (fun h => h.elim .inl fun h => .inr (.inl ⟨h.1.1, h.1.2, h.2⟩)) fun h => .inr (.inr h),
    fun h => h.elim (fun h => .inl (.inl h)) fun h => h.elim (fun h => .inl (.inr ⟨⟨h.1, h.2.1⟩, h.2.2⟩)) .inr⟩

/-- What a GOOD report's payload must be, said of its bytes. -/
theorem payloadFitsKind_answer_eq_false_iff (hread : carries r 6 → Payload.ofBytes r.payload ≠ none)
    (kind : Option ReservationKind) : payloadFitsKind (reportAnswer r) kind = false ↔
      (kind = some .grant ∧ carries r 6) ∨ (kind = some .echo ∧ ¬ (carries r 6 ∧ echoBytes r.payload))
        ∨ ((kind = some .quietCall ∨ kind = some .quietMeasure)
          ∧ ¬ (carries r 6 ∧ (helloBytes r.payload ∨ answerBytes r.payload))) := by
  unfold reportAnswer reportHasPayload
  by_cases hsix : carries r 6
  · have hflag : r.flags.getLsbD 6 = true := hsix
    obtain ⟨p, hp⟩ := Option.ne_none_iff_exists'.1 (hread hsix)
    rw [if_pos hflag, hp]
    rcases Payload.bytes_of_ofBytes hp with ⟨hb, m, c, b, rfl⟩ | ⟨hb, m, j, rfl⟩ | ⟨hb, j, st, g, rfl⟩
    · have hnot : ¬ echoBytes r.payload := fun h => absurd (hb.1.symm.trans h.1) (by decide)
      rcases kind with _ | _ | _ | _ | _ <;> simp [payloadFitsKind, hsix, hb, hnot]
    · have hnot : ¬ echoBytes r.payload := fun h => absurd (hb.1.symm.trans h.1) (by decide)
      rcases kind with _ | _ | _ | _ | _ <;> simp [payloadFitsKind, hsix, hb, hnot]
    · have hhello : ¬ helloBytes r.payload := fun h => absurd (hb.1.symm.trans h.1) (by decide)
      have hanswer : ¬ answerBytes r.payload := fun h => absurd (hb.1.symm.trans h.1) (by decide)
      rcases kind with _ | _ | _ | _ | _ <;> simp [payloadFitsKind, hsix, hb, hhello, hanswer]
  · have hflag : ¬ r.flags.getLsbD 6 = true := hsix
    rw [if_neg hflag]
    rcases kind with _ | _ | _ | _ | _ <;> simp [payloadFitsKind, hsix]

theorem payloadTest_eq_false_iff (hr : r.result = BitVec.ofNat 8 result.code) (kind : Option ReservationKind) :
    (!reportHasPayload r || (reportAnswer r).isSome) = false ∨ (result != .good || payloadFitsKind (reportAnswer r) kind) = false
      ↔ failsPayload r kind := by
  have hgood : result = .good ↔ r.result = 0 := by rw [hr]; cases result <;> decide
  have hread : (!reportHasPayload r || (reportAnswer r).isSome) = false ↔ carries r 6 ∧ Payload.ofBytes r.payload = none := by
    unfold reportAnswer carries reportHasPayload
    cases r.flags.getLsbD 6 <;> simp
  unfold failsPayload
  rw [← Payload.ofBytes_eq_none_iff, ← hread, ← hgood,
    Bool.or_eq_false_iff (x := result != .good), bne_eq_false_iff_eq]
  refine or_congr_right' fun hnot => ?_
  rw [payloadFitsKind_answer_eq_false_iff fun hsix hnone => hnot (hread.2 ⟨hsix, hnone⟩)]
  tauto

/-- A record is read unless it fails a test of R14, or its payload is not as long as it says (log 18). -/
theorem reportRead_eq_none_iff (r : ReportRecord) (kind : Option ReservationKind) :
    reportRead r kind = none ↔ reportFaulty r kind ∨ r.payload.length ≠ r.payloadLength.toNat := by
  cases hbyte : ReportResult.ofByte r.result with
  | none =>
    rw [reportRead, hbyte]
    exact ⟨fun _ => Or.inl (Or.inr (Or.inl (Or.inl (ReportResult.ofByte_eq_none hbyte)))), fun _ => rfl⟩
  | some result =>
    have hr := ReportResult.ofByte_eq_some hbyte
    have hpayload := payloadTest_eq_false_iff hr kind
    rw [reportAnswer_eq] at hpayload
    rw [reportRead, hbyte]
    simp only [ite_eq_right_iff, reduceCtorEq, imp_false, Bool.not_eq_true,
      Bool.and_eq_false_iff]
    rw [resultFitsKind_eq_false_iff hr, reportEncodingOk_eq_false_iff hr, reportPresenceOk_eq_false_iff hr,
      reportRangesOk_eq_false_iff hr, or_assoc, hpayload, reportFaulty]
    tauto

end

/-! ## The way of a report (R13 to R16, R76, R81) -/

section
variable {k : TreeId} {record : ReportRecord} {s : State} {c : Cycle} {i : Nat} {r : Reservation} {b : Burst}

theorem exec_burstReport_unmatched (hservice : (s.tree k).inService = true)
    (h : record.tree.toNat ≠ k.val ∨ (s.tree k).reportedCycle record = none) :
    exec (.burstReport k record) s = .next s.countReportError := by
  show execBurstReport k record s = _
  rw [execBurstReport, hservice, if_neg (by decide)]
  by_cases hport : record.tree.toNat = k.val
  · rw [if_neg (not_not.2 hport), h.resolve_left (not_not.2 hport)]
  · rw [if_pos hport]

theorem exec_burstReport_matched (hservice : (s.tree k).inService = true) (hport : record.tree.toNat = k.val)
    (hcycle : (s.tree k).reportedCycle record = some c) :
    exec (.burstReport k record) s = .next (s.reportOnSlot k c record) := by
  show execBurstReport k record s = _
  rw [execBurstReport, hservice, if_neg (by decide), if_neg (not_not.2 hport), hcycle]

theorem State.reportOnSlot_stray (hindex : reportReservationIndex record = none)
    (hread : reportRead record none = some b) : s.reportOnSlot k c record = s.markStray k c := by
  rw [State.reportOnSlot, hindex]
  simp only [hread, Option.isSome_some, if_true]

theorem State.reportOnSlot_stray_faulty (hindex : reportReservationIndex record = none)
    (hread : reportRead record none = none) : s.reportOnSlot k c record = s.countReportError := by
  rw [State.reportOnSlot, hindex]
  simp only [hread, Option.isSome_none, Bool.false_eq_true, if_false]

theorem State.reportOnSlot_beyond (hindex : reportReservationIndex record = some i)
    (hbeyond : (s.reservationsOf k c).length ≤ i) : s.reportOnSlot k c record = s.countReportError := by
  rw [State.reportOnSlot, hindex]
  simp only [List.getElem?_eq_none hbeyond]

theorem State.reportOnSlot_faulty (hindex : reportReservationIndex record = some i)
    (hat : (s.reservationsOf k c)[i]? = some r) (hread : reportRead record (some r.kind) = none) :
    s.reportOnSlot k c record = s.countReportError := by
  rw [State.reportOnSlot, hindex]
  simp only [hat, hread]

theorem State.reportOnSlot_read (hindex : reportReservationIndex record = some i)
    (hat : (s.reservationsOf k c)[i]? = some r) (hread : reportRead record (some r.kind) = some b) :
    s.reportOnSlot k c record = s.takeReport k c i r b record.burstCount.toNat := by
  rw [State.reportOnSlot, hindex]
  simp only [hat, hread]

/-- A report on a reservation is tested against what the reservation has received, and taken (R15, R76). -/
theorem exec_burstReport_of_reportsOn (h : reportsOn s k record c i r b) :
    exec (.burstReport k record) s = .next (s.takeReport k c i r b record.burstCount.toNat) := by
  obtain ⟨hservice, hport, hcycle, hindex, hat, hread⟩ := h
  rw [exec_burstReport_matched hservice hport hcycle, State.reportOnSlot_read hindex hat hread]

theorem Reservation.takesOutcome_iff : r.takesOutcome = true ↔ r.kind = .grant ∨ r.kind = .echo := by
  rw [Reservation.takesOutcome, Bool.or_eq_true, beq_iff_eq, beq_iff_eq]

variable {count : Nat}

theorem State.takeReport_again (hkind : r.takesOutcome = true) (ho : r.outcome ≠ none) :
    s.takeReport k c i r b count = s.countReportError := by
  rw [State.takeReport, if_pos hkind, if_pos (Option.isSome_iff_ne_none.2 ho)]

theorem State.takeReport_first (hkind : r.takesOutcome = true) (ho : r.outcome = none) :
    s.takeReport k c i r b count = s.takeOutcome k c i r b := by
  rw [State.takeReport, if_pos hkind, if_neg (by rw [ho]; decide)]

theorem State.takeReport_ended (hkind : r.takesOutcome = false) (he : r.ended = true) :
    s.takeReport k c i r b count = s.countReportError := by
  rw [State.takeReport, if_neg (Bool.eq_false_iff.1 hkind), if_pos he]

theorem State.takeReport_end (hkind : r.takesOutcome = false) (he : r.ended = false) (hb : b.result = .windowEnd) :
    s.takeReport k c i r b count
      = (if count = r.bursts.length then s else s.countReportError).endWindow k c i r := by
  rw [State.takeReport, if_neg (Bool.eq_false_iff.1 hkind), if_neg (Bool.eq_false_iff.1 he), if_pos hb]

theorem State.takeReport_burst (hkind : r.takesOutcome = false) (he : r.ended = false) (hb : b.result ≠ .windowEnd) :
    s.takeReport k c i r b count
      = if Config.maxBursts ≤ r.bursts.length then s.countReportError else s.takeBurst k c i r b := by
  rw [State.takeReport, if_neg (Bool.eq_false_iff.1 hkind), if_neg (Bool.eq_false_iff.1 he), if_neg hb]

end

/-- Settles O34: the record tests one by one against R14, then the report's way through the port and the slot. -/
theorem portEventsAreTestedAndTaken : Obligations.PortEventsAreTestedAndTaken := by
  refine ⟨fun k record s => ⟨fun hd => ?_, fun hservice h => ?_, fun c hservice hport hcycle => ?_, fun b rest hb => ?_⟩,
    reportRead_eq_none_iff, ?_⟩
  · have hidle : (s.tree k).inService = false := Tree.inService_of_disabled hd
    constructor
    · show execBoundary k s = _
      rw [execBoundary, hidle, if_neg (by decide)]
    · show execBurstReport k record s = _
      rw [execBurstReport, hidle, if_pos (by decide)]
  · rcases h with hport | hnone | ⟨c, i, hcycle, hindex, hbeyond⟩
    · exact exec_burstReport_unmatched hservice (Or.inl hport)
    · exact exec_burstReport_unmatched hservice (Or.inr hnone)
    · by_cases hport : record.tree.toNat = k.val
      · rw [exec_burstReport_matched hservice hport hcycle, State.reportOnSlot_beyond hindex hbeyond]
        rfl
      · exact exec_burstReport_unmatched hservice (Or.inl hport)
  · rw [exec_burstReport_matched hservice hport hcycle]
    refine ⟨fun hindex hf => ?_, fun i r hindex hat hf => ?_, fun b hindex hread => ?_⟩
    · rw [State.reportOnSlot_stray_faulty hindex ((reportRead_eq_none_iff _ _).2 (Or.inl hf))]
      rfl
    · rw [State.reportOnSlot_faulty hindex hat ((reportRead_eq_none_iff _ _).2 (Or.inl hf))]
      rfl
    · rw [State.reportOnSlot_stray hindex hread]
      rfl
  · show execBundleByteTaken k s = _
    rw [execBundleByteTaken, State.modTree, hb]
    rfl
  · intro k record c i r b s h
    dsimp only
    rw [exec_burstReport_of_reportsOn h]
    refine ⟨fun hkind => ?_, fun hkind => ?_⟩
    · have htakes := Reservation.takesOutcome_iff.2 hkind
      exact ⟨fun ho => by rw [State.takeReport_again htakes ho]; rfl, fun ho => by rw [State.takeReport_first htakes ho]⟩
    · have hquiet : r.takesOutcome = false := by
        rw [Bool.eq_false_iff, ne_eq, Reservation.takesOutcome_iff]
        rcases hkind with hk | hk <;> rw [hk] <;> decide
      refine ⟨fun he => ?_, fun he hb hmany => ?_, fun he hb hfew => ?_, fun he hb hcount => ?_, fun he hb hcount => ?_⟩
      · rw [State.takeReport_ended hquiet he]
        rfl
      · rw [State.takeReport_burst hquiet he hb, if_pos (show Config.maxBursts ≤ _ from hmany)]
        rfl
      · rw [State.takeReport_burst hquiet he hb, if_neg (show ¬ Config.maxBursts ≤ _ from Nat.not_le.2 hfew)]
      · rw [State.takeReport_end hquiet he hb, if_pos hcount]
      · rw [State.takeReport_end hquiet he hb, if_neg hcount]
        rfl

end Sys2Proof.Machine
end

section
/-! PROOFS. The grace of LOST entries: its count at a boundary and the departures (R144, R165, log 6, log 24). -/

namespace Sys2Proof.Machine

/-! ## The handles of a tree -/

theorem NumMap.mem_keys_of_get? {α : Type} {m : NumMap α} {k : Nat} {a : α} (h : NumMap.get? m k = some a) :
    k ∈ m.map Prod.fst := by
  induction m with
  | nil => exact absurd h nofun
  | cons x m ih =>
    obtain ⟨j, b⟩ := x
    rw [NumMap.get?] at h
    by_cases hj : j = k
    · exact List.mem_cons.2 (Or.inl hj.symm)
    · rw [if_neg hj] at h
      exact List.mem_cons.2 (Or.inr (ih h))

section
variable {s : State} {t : TreeId} {h : Nat}

theorem State.mem_keys_of_entry (hf : (s.entry h).state ≠ .free) : h ∈ s.entries.map Prod.fst := by
  cases hget : NumMap.get? s.entries h with
  | none => exact absurd (by rw [State.entry, hget]; rfl) hf
  | some e => exact NumMap.mem_keys_of_get? hget

theorem State.mem_treeHandles (hf : (s.entry h).state ≠ .free) (hw : (s.tree t).inWindow h = true) :
    h ∈ s.treeHandles t := List.mem_filter.2 ⟨State.mem_keys_of_entry hf, hw⟩

theorem State.treeHandles_nodup (hwf : NumMap.wf s.entries = true) : (s.treeHandles t).Nodup := by
  have hlt : (s.entries.map Prod.fst).SortedLT := of_decide_eq_true hwf
  exact hlt.nodup.filter _

end

theorem State.entry_foldl_modEntry_of_notMem (f : Entry → Entry) {j : Nat} : ∀ (l : List Nat) (s : State), j ∉ l →
    (l.foldl (fun s h => s.modEntry h f) s).entry j = s.entry j
  | [], _, _ => rfl
  | h :: l, s, hj => by
    rw [List.foldl_cons, State.entry_foldl_modEntry_of_notMem f l _ (fun hm => hj (List.mem_cons_of_mem _ hm)),
      State.entry_modEntry_ne _ _ _ _ fun heq : j = h => hj (heq ▸ List.mem_cons_self)]

theorem State.entry_foldl_modEntry (f : Entry → Entry) {j : Nat} : ∀ (l : List Nat) (s : State), l.Nodup → j ∈ l →
    (f (s.entry j)).state ≠ .free → (l.foldl (fun s h => s.modEntry h f) s).entry j = f (s.entry j)
  | [], _, _, hj, _ => absurd hj List.not_mem_nil
  | h :: l, s, hl, hj, hf => by
    obtain ⟨hnot, hl⟩ := List.nodup_cons.1 hl
    rw [List.foldl_cons]
    by_cases heq : j = h
    · subst heq
      rw [State.entry_foldl_modEntry_of_notMem f l _ hnot, State.entry_modEntry _ _ _ hf]
    · have hsame : (s.modEntry h f).entry j = s.entry j := State.entry_modEntry_ne _ _ _ _ heq
      rw [State.entry_foldl_modEntry f l _ hl ((List.mem_cons.1 hj).resolve_left heq) (by rwa [hsame]), hsame]

theorem State.trees_foldl_modEntry (f : Entry → Entry) : ∀ (l : List Nat) (s : State),
    (l.foldl (fun s h => s.modEntry h f) s).trees = s.trees
  | [], _ => rfl
  | h :: l, s => (State.trees_foldl_modEntry f l (s.modEntry h f)).trans rfl

/-! ## The grace step (R144, R157) -/

theorem State.countGrace_of_dark {s : State} {t : TreeId} (h : (s.tree t).upkeep.dark = true) : s.countGrace t = s :=
  if_pos h

theorem Entry.graceOver_iff {e : Entry} {count grace : Nat} (hs : e.state = .lost) (hc : e.graceCount = some count) :
    e.graceOver grace = true ↔ grace ≠ 0 ∧ grace ≤ count := by
  rw [Entry.graceOver, hs, hc]
  simp

theorem Entry.graceOver_of_registered {e : Entry} (grace : Nat) (hs : e.state = .registered) :
    e.graceOver grace = false := by
  rw [Entry.graceOver, hs]
  rfl

section
variable {s : State} {k : TreeId} {h count : Nat}

/-- On a tree that is not DARK a LOST entry counts, and is due from the count that reaches the grace on. -/
theorem State.countGrace_outcome (hs : (s.entry h).state = .lost) (hc : (s.entry h).graceCount = some count)
    (hw : (s.tree k).inWindow h = true) (hwf : NumMap.wf s.entries = true) (hdark : (s.tree k).upkeep.dark = false) :
    (s.countGrace k).entry h = { s.entry h with graceCount := some (min (count + 1) 65535) }
      ∧ (h ∈ ((s.countGrace k).tree k).upkeep.graceDue ↔
        (s.tree k).tuning.grace ≠ 0 ∧ (s.tree k).tuning.grace ≤ min (count + 1) 65535) := by
  let u := (s.treeHandles k).foldl (fun s h => s.modEntry h Entry.countGrace) s
  have hf : (s.entry h).state ≠ .free := by rw [hs]; exact nofun
  have hcounted : (s.entry h).countGrace = { s.entry h with graceCount := some (min (count + 1) 65535) } := by
    rw [Entry.countGrace, if_pos hs, hc]
    rfl
  have hentry : u.entry h = { s.entry h with graceCount := some (min (count + 1) 65535) } :=
    (State.entry_foldl_modEntry _ _ s (State.treeHandles_nodup hwf) (State.mem_treeHandles hf hw)
      (by rw [hcounted]; exact hf)).trans hcounted
  have htrees : ∀ v, u.tree v = s.tree v := fun v => by
    rw [State.tree, State.trees_foldl_modEntry, State.tree]
  have heq : s.countGrace k = u.modUpkeep k fun x =>
      { x with graceDue := (u.treeHandles k).filter fun h => (u.entry h).graceOver (u.tree k).tuning.grace } :=
    if_neg (by rw [hdark]; decide)
  have hlost : (u.entry h).state = .lost := by rw [hentry]; exact hs
  have hcount : (u.entry h).graceCount = some (min (count + 1) 65535) := by rw [hentry]
  have hmem : h ∈ u.treeHandles k := State.mem_treeHandles (by rw [hlost]; exact nofun) (by rw [htrees]; exact hw)
  rw [heq]
  refine ⟨hentry, ?_⟩
  rw [State.tree_modUpkeep, if_pos rfl, List.mem_filter, Entry.graceOver_iff hlost hcount, htrees]
  exact ⟨fun hm => hm.2, fun hg => ⟨hmem, hg⟩⟩

end

/-! ## The departures (R144, R165; log 24) -/

/-- The entry departs for its grace, with three sends of a RELEASE, keeping its mark. -/
structure Entry.GraceDeparted (e : Entry) (mark : Option Mark) : Prop where
  state : e.state = .departing
  owed : e.owed = some { kind := .release, sends := 3 }
  reason : e.reason = some .grace
  mark : e.mark = mark

section
variable {s u : State} {t : TreeId} {h j : Nat} {mark : Option Mark}

theorem Entry.GraceDeparted.of_kept {e f : Entry} (hd : e.GraceDeparted mark) (hk : entryKept e f) :
    f.GraceDeparted mark := by
  rw [hk.2 (by rw [hd.state]; exact nofun)]
  exact ⟨hd.state, hd.owed, hd.reason, hd.mark⟩

theorem State.departEntry_graceDeparted (hm : (s.entry h).mark = mark) :
    ((s.departEntry t h .grace 3).entry h).GraceDeparted mark := by
  obtain ⟨hpassed, -⟩ := s.departEntry_passed t h .grace 3
  rw [hpassed.entry]
  exact ⟨rfl, rfl, rfl, hm⟩

theorem State.departEntry_mark (hm : (s.entry h).mark = mark) (hf : (s.entry h).state ≠ .free) :
    ((s.departEntry t j .grace 3).entry h).mark = mark ∧ ((s.departEntry t j .grace 3).entry h).state ≠ .free := by
  by_cases hj : h = j
  · subst hj
    have hd := State.departEntry_graceDeparted (t := t) hm
    exact ⟨hd.mark, by rw [hd.state]; exact nofun⟩
  · have hk := (s.departEntry_passed t j .grace 3).1.others h hj
    rw [hk.2 hf]
    exact ⟨hm, hf⟩

/-- After a row of departures every handle of the row has departed, and one that had departed stays so. -/
theorem State.foldl_departEntry (t : TreeId) : ∀ (l : List Nat) (s : State),
    (s.entry h).mark = mark → (s.entry h).state ≠ .free → h ∈ l ∨ (s.entry h).GraceDeparted mark →
    ((l.foldl (fun s h => s.departEntry t h .grace 3) s).entry h).GraceDeparted mark
  | [], _, _, _, hor => hor.resolve_left List.not_mem_nil
  | j :: l, s, hm, hf, hor => by
    obtain ⟨hm', hf'⟩ := State.departEntry_mark (t := t) (j := j) hm hf
    refine State.foldl_departEntry t l (s.departEntry t j .grace 3) hm' hf' ?_
    by_cases hj : h = j
    · subst hj
      exact Or.inr (State.departEntry_graceDeparted hm)
    · rcases hor with hmem | hd
      · exact Or.inl ((List.mem_cons.1 hmem).resolve_left hj)
      · exact Or.inr (hd.of_kept ((s.departEntry_passed t j .grace 3).1.others h hj))

theorem State.foldl_departEntry_of_notMem (t : TreeId) : ∀ (l : List Nat) (s : State), h ∉ l →
    entryKept (s.entry h) ((l.foldl (fun s h => s.departEntry t h .grace 3) s).entry h)
  | [], _, _ => entryKept.rfl' _
  | j :: l, s, hnot =>
    ((s.departEntry_passed t j .grace 3).1.others h fun heq => hnot (heq ▸ List.mem_cons_self)).trans
      (State.foldl_departEntry_of_notMem t l _ fun hm => hnot (List.mem_cons_of_mem _ hm))

theorem State.judgeGrace_due (t : TreeId) (order : Nat) : ((s.judgeGrace t order).tree t).upkeep.graceDue = [] := by
  rw [State.judgeGrace, State.tree_modUpkeep, if_pos rfl]

theorem State.judgeGrace_graceDeparted {count : Nat} (order : Nat) (hdue : h ∈ (s.tree t).upkeep.graceDue)
    (hs : (s.entry h).state = .lost) (hc : (s.entry h).graceCount = some count) (hg : (s.tree t).tuning.grace ≠ 0)
    (hle : (s.tree t).tuning.grace ≤ count) :
    ((s.judgeGrace t order).entry h).GraceDeparted (s.entry h).mark := by
  have hmem : h ∈ arrange order (s.graceDue t) :=
    (arrange_perm _ _).mem_iff.2 (List.mem_filter.2 ⟨hdue, (Entry.graceOver_iff hs hc).2 ⟨hg, hle⟩⟩)
  exact State.foldl_departEntry t _ s rfl (by rw [hs]; exact nofun) (Or.inl hmem)

theorem State.judgeGrace_registered (order : Nat) (hs : (s.entry h).state = .registered) :
    sameButClaim (s.entry h) ((s.judgeGrace t order).entry h) := by
  have hnot : h ∉ arrange order (s.graceDue t) := fun hm => by
    have hover := (List.mem_filter.1 ((arrange_perm _ _).mem_iff.1 hm)).2
    rw [Entry.graceOver_of_registered _ hs] at hover
    exact Bool.noConfusion hover
  exact (State.foldl_departEntry_of_notMem t _ s hnot).2 (by rw [hs]; exact nofun)

end

/-- Settles O53: the grace step, then the departures of the entries due, in any order. -/
theorem graceExpiryDeparts : Obligations.GraceExpiryDeparts := by
  refine ⟨fun k h count s hs hc hw hcanon => ?_, fun k h count s hdue => ⟨fun hs hc hg hle => ?_, fun hs => ?_⟩⟩
  · exact ⟨State.countGrace_of_dark, State.countGrace_outcome hs hc hw hcanon.1⟩
  · obtain ⟨choices, drawn, hdrop⟩ := s.dropChoice_eq
    have hexec : exec (.graceExpiry k) s = .next (s.dropChoice.judgeGrace k s.nextChoice) := rfl
    have hd := State.judgeGrace_graceDeparted (s := { s with choices := choices, freeCount := drawn }) s.nextChoice
      hdue hs hc hg hle
    rw [hexec, hdrop]
    exact ⟨⟨_, rfl, State.judgeGrace_due _ _, hd.state, hd.owed, hd.reason, hd.mark⟩,
      fun order => (State.judgeGrace_graceDeparted order hdue hs hc hg hle).state⟩
  · obtain ⟨choices, drawn, hdrop⟩ := s.dropChoice_eq
    have hexec : exec (.graceExpiry k) s = .next (s.dropChoice.judgeGrace k s.nextChoice) := rfl
    rw [hexec, hdrop]
    exact ⟨_, rfl, State.judgeGrace_registered (s := { s with choices := choices, freeCount := drawn }) s.nextChoice hs⟩

end Sys2Proof.Machine
end

section
/-! PROOFS. What of its tree the claims leave alone, and what a passage of an entry leaves alone: each said once as an
equation between trees whose other parts are blanked (R23, R65 to R71, R159 to R171). -/

namespace Sys2Proof.Machine

/-- The tree without what a claim may change: the ring, the Claim List and the call record (R65 to R70). -/
def Tree.apartFromClaims (x : Tree) : Tree :=
  { x with calendar := { x.calendar with ring := [], claims := [] }, discovery := { x.discovery with call := none } }

/-- The tree without what the passage of an entry may change: the calendar, the call record, the count of struck grants, the
Probe Due list and the Control Queue (R23, R71, R159). -/
def Tree.apartFromPassage (x : Tree) : Tree :=
  { x with
    calendar := Calendar.empty, discovery := { x.discovery with call := none }
    counters := { x.counters with grantsStruck := 0 }, upkeep := { x.upkeep with probeDue := [] }
    control := ControlQueue.empty }

theorem Tree.apartFromPassage_apartFromClaims (x : Tree) : x.apartFromClaims.apartFromPassage = x.apartFromPassage := rfl

/-! ## Claims -/

section
variable (s : State) (t : TreeId)

@[simp] theorem State.tree_modEntry (v : TreeId) (h : Nat) (f : Entry → Entry) : (s.modEntry h f).tree v = s.tree v := rfl

@[simp] theorem State.apartFromClaims_modDiscovery_call (f : Option CallRecord → Option CallRecord) :
    ((s.modDiscovery t fun d => { d with call := f d.call }).tree t).apartFromClaims = (s.tree t).apartFromClaims := by
  rw [State.tree_modDiscovery, if_pos rfl]
  rfl

@[simp] theorem State.apartFromClaims_grantClaim (q : Claim) (c : Cycle) :
    ((s.grantClaim t q c).tree t).apartFromClaims = (s.tree t).apartFromClaims := by
  unfold State.grantClaim
  dsimp only
  split
  · rw [State.tree_modEntry, State.tree_makeFrame, State.tree_modCalendar, if_pos rfl]
    rfl
  · rw [State.tree_modDiscovery, if_pos rfl, State.tree_makeFrame, State.tree_modCalendar, if_pos rfl]
    rfl

@[simp] theorem State.apartFromClaims_tryClaim (q : Claim) :
    ((((s.tryClaim t q).getD s).tree t).apartFromClaims) = (s.tree t).apartFromClaims := by
  unfold State.tryClaim
  cases (s.tree t).eligibleSlot q with
  | none => rfl
  | some k => exact s.apartFromClaims_grantClaim t q k.cycle

@[simp] theorem State.apartFromClaims_arbitrate :
    ((s.arbitrate t).tree t).apartFromClaims = (s.tree t).apartFromClaims := by
  unfold State.arbitrate
  generalize (s.tree t).calendar.claims = l
  induction l generalizing s with
  | nil => rfl
  | cons q l ih => rw [List.foldl_cons, ih, State.apartFromClaims_tryClaim]

@[simp] theorem State.apartFromClaims_requestClaim (q : Claim) :
    ((s.requestClaim t q).tree t).apartFromClaims = (s.tree t).apartFromClaims := by
  unfold State.requestClaim
  split
  · unfold State.tryClaim
    cases (s.tree t).eligibleSlot q with
    | none =>
      show ((s.modCalendar t fun w => { w with claims := insertClaim q w.claims }).tree t).apartFromClaims = _
      rw [State.tree_modCalendar, if_pos rfl]
      rfl
    | some k => exact s.apartFromClaims_grantClaim t q k.cycle
  · rfl

@[simp] theorem State.apartFromClaims_requestRanging (h : Nat) :
    ((s.requestRanging t h).tree t).apartFromClaims = (s.tree t).apartFromClaims := by
  unfold State.requestRanging
  split
  · exact s.apartFromClaims_requestClaim t _
  · rfl

@[simp] theorem State.apartFromClaims_cancelWindow (c : Cycle) :
    ((s.cancelWindow t c).tree t).apartFromClaims = (s.tree t).apartFromClaims := by
  rw [State.cancelWindow, State.tree_makeFrame, State.tree_modSlot, if_pos rfl]
  rfl

@[simp] theorem State.apartFromClaims_dropClaim (h : Nat) :
    ((s.dropClaim t h).tree t).apartFromClaims = (s.tree t).apartFromClaims := by
  have hdropped : (((s.modCalendar t fun w => { w with claims := w.claims.filter fun q => q.handle? != some h }).modEntry h
      fun e => { e with measureCycle := none }).tree t).apartFromClaims = (s.tree t).apartFromClaims := by
    rw [State.tree_modEntry, State.tree_modCalendar, if_pos rfl]
    rfl
  unfold State.dropClaim
  dsimp only
  split
  · rw [State.apartFromClaims_arbitrate, State.apartFromClaims_cancelWindow, hdropped]
  · exact hdropped

end

/-! ## Passages -/

section
variable {s u : State} {t : TreeId}

theorem apartFromPassage_of_claims (h : (u.tree t).apartFromClaims = (s.tree t).apartFromClaims) :
    (u.tree t).apartFromPassage = (s.tree t).apartFromPassage := by
  rw [← Tree.apartFromPassage_apartFromClaims, h, Tree.apartFromPassage_apartFromClaims]

variable (s t)

@[simp] theorem State.apartFromPassage_modCalendar (f : Calendar → Calendar) :
    ((s.modCalendar t f).tree t).apartFromPassage = (s.tree t).apartFromPassage := by
  rw [State.tree_modCalendar, if_pos rfl]
  rfl

@[simp] theorem State.apartFromPassage_modControl (f : ControlQueue → ControlQueue) :
    ((s.modControl t f).tree t).apartFromPassage = (s.tree t).apartFromPassage := by
  rw [State.tree_modControl, if_pos rfl]
  rfl

@[simp] theorem State.apartFromPassage_probeDue (f : List Nat → List Nat) :
    ((s.modUpkeep t fun u => { u with probeDue := f u.probeDue }).tree t).apartFromPassage
      = (s.tree t).apartFromPassage := by
  rw [State.tree_modUpkeep, if_pos rfl]
  rfl

@[simp] theorem State.apartFromPassage_grantsStruck (n : Nat) :
    ((s.countBy t .grantsStruck n).tree t).apartFromPassage = (s.tree t).apartFromPassage := by
  rw [State.tree_countBy, if_pos rfl]
  rfl

@[simp] theorem State.apartFromPassage_arbitrate :
    ((s.arbitrate t).tree t).apartFromPassage = (s.tree t).apartFromPassage :=
  apartFromPassage_of_claims (s.apartFromClaims_arbitrate t)

@[simp] theorem State.apartFromPassage_requestRanging (h : Nat) :
    ((s.requestRanging t h).tree t).apartFromPassage = (s.tree t).apartFromPassage :=
  apartFromPassage_of_claims (s.apartFromClaims_requestRanging t h)

@[simp] theorem State.apartFromPassage_dropClaim (h : Nat) :
    ((s.dropClaim t h).tree t).apartFromPassage = (s.tree t).apartFromPassage :=
  apartFromPassage_of_claims (s.apartFromClaims_dropClaim t h)

@[simp] theorem State.apartFromPassage_dropSettleDue (h : Nat) :
    ((s.dropSettleDue t h).tree t).apartFromPassage = (s.tree t).apartFromPassage := s.apartFromPassage_modCalendar t _

@[simp] theorem State.apartFromPassage_strike (h : Nat) :
    ((s.strike t h).tree t).apartFromPassage = (s.tree t).apartFromPassage := by
  unfold State.strike
  dsimp only
  split
  · rw [State.apartFromPassage_grantsStruck, State.apartFromPassage_modCalendar]
  · rw [State.apartFromPassage_arbitrate, State.apartFromPassage_grantsStruck, State.apartFromPassage_modCalendar]

@[simp] theorem State.apartFromPassage_rosterLeft (h : Nat) :
    ((s.rosterLeft t h).tree t).apartFromPassage = (s.tree t).apartFromPassage := by
  rw [State.rosterLeft, State.apartFromPassage_probeDue, State.apartFromPassage_strike, State.rosterNotice,
    State.tree_makeFrame]

@[simp] theorem State.apartFromPassage_leftNotices (h : Nat) (left : EntryState) :
    ((s.leftNotices t h left).tree t).apartFromPassage = (s.tree t).apartFromPassage := by
  cases left with
  | registered | lost => exact s.apartFromPassage_rosterLeft t h
  | candidate | reranging => exact s.apartFromPassage_dropClaim t h
  | settling => exact s.apartFromPassage_dropSettleDue t h
  | free | reserved | hushed | departing => rfl

@[simp] theorem State.apartFromPassage_dropTrim (h : Nat) :
    ((s.dropTrim t h).tree t).apartFromPassage = (s.tree t).apartFromPassage := by
  rw [State.dropTrim_eq, State.apartFromPassage_modControl]

@[simp] theorem State.apartFromPassage_dropTrimAfter (h : Nat) (left : EntryState) :
    ((s.dropTrimAfter t h left).tree t).apartFromPassage = (s.tree t).apartFromPassage := by
  obtain ⟨f, hf⟩ := s.dropTrimAfter_eq t h left
  rw [hf, State.apartFromPassage_modControl]

@[simp] theorem State.apartFromPassage_recordOwed (h : Nat) (kind : OwedKind) (sends : Nat) :
    ((s.recordOwed t h kind sends).tree t).apartFromPassage = (s.tree t).apartFromPassage := by
  obtain ⟨f, hf⟩ := s.recordOwed_eq t h kind sends
  rw [hf, State.apartFromPassage_modControl, State.tree_modEntry]

@[simp] theorem State.apartFromPassage_departEntry (h : Nat) (reason : DepartureReason) (sends : Nat) :
    ((s.departEntry t h reason sends).tree t).apartFromPassage = (s.tree t).apartFromPassage := by
  rw [State.departEntry, State.apartFromPassage_dropTrimAfter, State.apartFromPassage_leftNotices,
    State.apartFromPassage_recordOwed, State.tree_modEntry]

@[simp] theorem State.apartFromPassage_hushEntry (h : Nat) (bySweep : Bool) :
    ((s.hushEntry t h bySweep).tree t).apartFromPassage = (s.tree t).apartFromPassage := by
  rw [State.hushEntry, State.tree_writeEvent, State.apartFromPassage_dropTrimAfter, State.apartFromPassage_leftNotices,
    State.apartFromPassage_recordOwed, State.tree_modEntry]

@[simp] theorem State.apartFromPassage_unhushToRegistered (h : Nat) :
    ((s.unhushToRegistered t h).tree t).apartFromPassage = (s.tree t).apartFromPassage := by
  rw [State.unhushToRegistered, State.tree_writeEvent, State.rosterNotice, State.tree_makeFrame,
    State.apartFromPassage_recordOwed, State.tree_modEntry]

@[simp] theorem State.apartFromPassage_unhushToReranging (h : Nat) :
    ((s.unhushToReranging t h).tree t).apartFromPassage = (s.tree t).apartFromPassage := by
  rw [State.unhushToReranging, State.apartFromPassage_requestRanging, State.tree_writeEvent,
    State.apartFromPassage_recordOwed, State.tree_modEntry]

@[simp] theorem State.apartFromPassage_unhushEntry (h : Nat) :
    ((s.unhushEntry t h).tree t).apartFromPassage = (s.tree t).apartFromPassage := by
  unfold State.unhushEntry
  split
  · exact s.apartFromPassage_unhushToRegistered t h
  · exact s.apartFromPassage_unhushToReranging t h

@[simp] theorem State.apartFromPassage_rerange (h : Nat) (origin : RangingOrigin) (reason : Nat) :
    ((s.rerange t h origin reason).tree t).apartFromPassage = (s.tree t).apartFromPassage := by
  rw [State.rerange, State.apartFromPassage_requestRanging, State.tree_writeEvent, State.apartFromPassage_dropTrim,
    State.apartFromPassage_rosterLeft, State.tree_modEntry]

end

end Sys2Proof.Machine
end

section
/-! PROOFS. The Isolation Sweep: its step, its dwell, and the commands that start it, end it, or take its handle out of HUSHED
(R177 to R182). -/

namespace Sys2Proof.Machine

/-! ## The next rostered handle (R178) -/

theorem Tree.mem_windowHandles {x : Tree} {h : Nat} : h ∈ x.windowHandles ↔ x.inWindow h = true := by
  rw [Tree.windowHandles, Tree.inWindow, decide_eq_true_iff, List.mem_map]
  constructor
  · rintro ⟨i, hi, rfl⟩
    have hlt := List.mem_range.1 hi
    omega
  · rintro ⟨hlow, hhigh⟩
    exact ⟨h - x.config.windowBase, List.mem_range.2 (by omega), by omega⟩

theorem Tree.windowHandles_pairwise (x : Tree) : x.windowHandles.Pairwise (· < ·) :=
  List.pairwise_map.2 (List.pairwise_lt_range.imp fun h => Nat.add_lt_add_left h _)

section
variable {s u : State} {k : TreeId} {above h : Nat}

theorem nextRostered.unique {j : Nat} (hh : nextRostered s k above h) (hj : nextRostered s k above j) : h = j := by
  obtain ⟨habove, hin, hroster, hleast⟩ := hh
  obtain ⟨habove', hin', hroster', hleast'⟩ := hj
  rcases Nat.lt_trichotomy h j with hlt | heq | hgt
  · exact absurd hroster (by rw [hleast' h habove hlt hin]; decide)
  · exact heq
  · exact absurd hroster' (by rw [hleast j habove' hgt hin']; decide)

/-- The model's search finds the lowest rostered handle above the cursor, the window's handles rising. -/
theorem State.nextRostered_of_nextSweepHandle (hnext : s.nextSweepHandle k above = some h) : nextRostered s k above h := by
  obtain ⟨hp, before, after, hsplit, hbefore⟩ := List.find?_eq_some_iff_append.1 hnext
  obtain ⟨habove, hroster⟩ := Bool.and_eq_true_iff.1 hp
  have hmem : h ∈ (s.tree k).windowHandles := by rw [hsplit]; simp
  refine ⟨of_decide_eq_true habove, Tree.mem_windowHandles.1 hmem, hroster, fun j hj hlt hin => ?_⟩
  have hjmem := Tree.mem_windowHandles.2 hin
  have hsorted := (s.tree k).windowHandles_pairwise
  rw [hsplit] at hjmem hsorted
  have hjbefore : j ∈ before := by
    rcases List.mem_append.1 hjmem with hb | ha
    · exact hb
    · rcases List.mem_cons.1 ha with rfl | ha
      · exact absurd hlt (lt_irrefl _)
      · exact absurd (List.rel_of_pairwise_cons (List.pairwise_append.1 hsorted).2.1 ha) (Nat.lt_asymm hlt)
  have hnot := hbefore j hjbefore
  rw [decide_eq_true hj, Bool.true_and, Bool.not_eq_true'] at hnot
  exact hnot

theorem State.nextSweepHandle_eq_some_iff : s.nextSweepHandle k above = some h ↔ nextRostered s k above h := by
  refine ⟨State.nextRostered_of_nextSweepHandle, fun hnext => ?_⟩
  cases hfind : s.nextSweepHandle k above with
  | some j => rw [(State.nextRostered_of_nextSweepHandle hfind).unique hnext]
  | none =>
    obtain ⟨habove, hin, hroster, -⟩ := hnext
    refine absurd (List.find?_eq_none.1 hfind h (Tree.mem_windowHandles.2 hin)) ?_
    rw [decide_eq_true habove, hroster]
    decide

theorem State.nextSweepHandle_eq_none_iff : s.nextSweepHandle k above = none ↔ ∀ h, ¬ nextRostered s k above h := by
  rw [Option.eq_none_iff_forall_ne_some]
  exact forall_congr' fun h => not_congr State.nextSweepHandle_eq_some_iff

theorem nextRostered_congr (hconfig : (u.tree k).config = (s.tree k).config)
    (hroster : ∀ j, above < j → (u.entry j).inRoster = (s.entry j).inRoster) :
    nextRostered u k above h ↔ nextRostered s k above h := by
  have hin : ∀ j, (u.tree k).inWindow j = (s.tree k).inWindow j := fun j => by
    rw [Tree.inWindow, hconfig, Tree.inWindow]
  unfold nextRostered
  refine and_congr_right fun habove => ?_
  rw [hin, hroster h habove]
  refine and_congr_right fun _ => and_congr_right fun _ => forall_congr' fun j => ?_
  refine forall_congr' fun hj => ?_
  rw [hin, hroster j hj]

end

/-! ## The step (R178) -/

section
variable {s u : State} {k : TreeId} {cursor dwell tried h : Nat}

theorem sweptOn.of_command {r : Option Running} (hs : sweptOn k h dwell tried u) :
    sweptOn k h dwell tried { u with running := r } := hs

theorem sweepEnded.of_command {r : Option Running} (hs : sweepEnded k u) : sweepEnded k { u with running := r } := hs

theorem State.rogue_of_command {code : Nat} {args : Quad Word} (r : Option Running)
    (hu : (u.tree k).rogue.rogue = ((s.written code args).tree k).rogue.rogue) :
    (({ u with running := r } : State).tree k).rogue.rogue = (s.tree k).rogue.rogue := hu

theorem State.sweepStep_some (hnext : nextRostered s k cursor h) :
    s.sweepStep k cursor dwell tried = (s.hushEntry k h true).modRogue k fun r =>
      { r with sweep := some { stage := .hushing, cursor := h, dwell := dwell, current := h, hushCycle := none,
                               tried := tried + 1 } } := by
  rw [State.sweepStep, State.nextSweepHandle_eq_some_iff.2 hnext]

theorem State.sweepStep_none (hnone : ∀ h, ¬ nextRostered s k cursor h) :
    s.sweepStep k cursor dwell tried
      = ((s.writeEvent .sweepExhausted k 0 [oneField tried]).setSweepEnd k).modRogue k fun r =>
        { r with sweep := none } := by
  rw [State.sweepStep, State.nextSweepHandle_eq_none_iff.2 hnone]

theorem State.sweptOn_sweepStep (hnext : nextRostered s k cursor h) :
    sweptOn k h dwell (tried + 1) (s.sweepStep k cursor dwell tried) := by
  obtain ⟨hpassed, -⟩ := s.hushEntry_passed k h true
  rw [State.sweepStep_some hnext, sweptOn, State.entry_modRogue, hpassed.entry, State.tree_modRogue, if_pos rfl]
  exact ⟨rfl, rfl, rfl, rfl⟩

theorem State.sweepEnded_sweepStep (hnone : ∀ h, ¬ nextRostered s k cursor h) :
    sweepEnded k (s.sweepStep k cursor dwell tried) := by
  rw [State.sweepStep_none hnone, sweepEnded, State.tree_modRogue, if_pos rfl, State.tree_setSweepEnd, if_pos rfl]
  exact ⟨rfl, rfl⟩

/-- A sweep step changes the entry of the handle it hushes, above the cursor, and of no other more than a measure cycle. -/
theorem State.sweepStep_kept {j : Nat} (hj : j ≤ cursor) :
    entryKept (s.entry j) ((s.sweepStep k cursor dwell tried).entry j) := by
  by_cases hsome : ∃ h, nextRostered s k cursor h
  · obtain ⟨h, hnext⟩ := hsome
    rw [State.sweepStep_some hnext, State.entry_modRogue]
    exact (s.hushEntry_passed k h true).1.others j (Nat.ne_of_lt (Nat.lt_of_le_of_lt hj hnext.1))
  · rw [State.sweepStep_none (not_exists.1 hsome), State.entry_modRogue, State.entry_setSweepEnd,
      State.entry_writeEvent]
    exact entryKept.rfl' _

/-- The sweep of tree k has stepped on from a handle: to the next that was rostered in s, or to its end. -/
def sweepStepped (k : TreeId) (above dwell tried : Nat) (s t : State) : Prop :=
  (∀ h, nextRostered s k above h → sweptOn k h dwell (tried + 1) t)
    ∧ ((∀ h, ¬ nextRostered s k above h) → sweepEnded k t)

/-- The step goes by the roster of an earlier state, whose handles above the cursor have not moved since. -/
theorem State.sweepStepped_sweepStep (hconfig : (u.tree k).config = (s.tree k).config)
    (hkept : ∀ j, cursor < j → entryKept (s.entry j) (u.entry j)) :
    sweepStepped k cursor dwell tried s (u.sweepStep k cursor dwell tried) := by
  have hcongr : ∀ h, nextRostered u k cursor h ↔ nextRostered s k cursor h := fun h =>
    nextRostered_congr hconfig fun j hj => by rw [Entry.inRoster, (hkept j hj).1, Entry.inRoster]
  exact ⟨fun h hnext => State.sweptOn_sweepStep ((hcongr h).2 hnext),
    fun hnone => State.sweepEnded_sweepStep fun h hnext => hnone h ((hcongr h).1 hnext)⟩

end

/-! ## The dwell judgement (R179, R180) -/

section
variable {s u : State} {k : TreeId} {w : Sweep}

theorem State.judgeDwell_of_over (hw : (s.tree k).rogue.sweep = some w) (hover : w.dwellOver (s.tree k).n = true) :
    s.judgeDwell k = (s.unhushToRegistered k w.current).sweepStep k w.cursor w.dwell w.tried := by
  rw [State.judgeDwell, hw]
  exact if_pos hover

theorem State.judgeDwell_of_notOver (hw : (s.tree k).rogue.sweep = some w) (hover : w.dwellOver (s.tree k).n = false) :
    s.judgeDwell k = s := by
  rw [State.judgeDwell, hw]
  exact if_neg (Bool.eq_false_iff.1 hover)

theorem Sweep.dwellOver_of_observing {n c : Cycle} (hs : w.stage = .observing) (hc : w.hushCycle = some c) :
    w.dwellOver n = decide (w.dwell ≤ Cycle.distance c n) := by
  rw [Sweep.dwellOver, Sweep.age, hs, hc]
  rfl

theorem Sweep.dwellOver_of_hushing {n : Cycle} (hs : w.stage = .hushing) : w.dwellOver n = false := by
  rw [Sweep.dwellOver, hs]
  rfl

/-- A host command that took the current handle out of HUSHED makes the sweep step on (R181). -/
theorem State.tellMonitor_current {e : Entry} (hw : (u.tree k).rogue.sweep = some w) (he : e.sweepOwned = some true) :
    u.tellMonitor k w.current e = u.sweepStep k w.cursor w.dwell w.tried := by
  rw [State.tellMonitor, if_pos (by rw [Entry.isSweepOwned, he]; rfl), State.sweepOverride, hw]
  exact if_pos rfl

/-- What follows a passage of the current handle out of HUSHED: the step, the current entry keeping what it passed to. -/
theorem PassedTo.sweepStep {e : Entry} (hp : PassedTo e w.current s u) (hf : e.state ≠ .free)
    (hframe : EngineFrame k s u) (hcursor : w.cursor = w.current) :
    sweepStepped k w.current w.dwell w.tried s (u.sweepStep k w.cursor w.dwell w.tried)
      ∧ sameButClaim e ((u.sweepStep k w.cursor w.dwell w.tried).entry w.current) := by
  rw [hcursor]
  refine ⟨State.sweepStepped_sweepStep hframe.tree.config fun j hj => hp.others j (Nat.ne_of_gt hj), ?_⟩
  exact hp.entry.trans ((State.sweepStep_kept le_rfl).2 (by rw [hp.entry.state]; exact hf))

end

/-- The owed message of a state that a command judged. -/
theorem sweepStepped.of_command {s u : State} {k : TreeId} {above dwell tried code : Nat} {args : Quad Word}
    {r : Option Running} (hs : sweepStepped k above dwell tried (s.written code args) u) :
    sweepStepped k above dwell tried s { u with running := r } :=
  ⟨fun h hnext => (hs.1 h hnext).of_command, fun hnone => (hs.2 hnone).of_command⟩

section
variable {s : State} {k : TreeId} {h : Nat}

/-- An unhush by the path the delay gives: the entry it leaves, but for a measure cycle. -/
theorem State.unhushEntry_passed : ∃ e : Entry, PassedTo e h s (s.unhushEntry k h)
    ∧ e.state = (if (s.entry h).delay.isSome then .registered else .reranging)
    ∧ e.owed = some { kind := .unhush, sends := 1 } ∧ e.sweepOwned = none := by
  by_cases hd : (s.entry h).delay.isSome = true
  · rw [State.unhushEntry, if_pos hd, if_pos hd]
    obtain ⟨-, hp, -⟩ := s.unhushToRegistered_outcome k h
    exact ⟨_, hp, rfl, rfl, rfl⟩
  · rw [State.unhushEntry, if_neg hd, if_neg hd]
    exact ⟨_, (s.unhushToReranging_passed k h).1, rfl, rfl, rfl⟩

theorem Tree.rogue_apartFromPassage (x : Tree) : x.apartFromPassage.rogue = x.rogue := rfl

theorem State.rogue_of_apartFromPassage {u : State} (hk : (u.tree k).apartFromPassage = (s.tree k).apartFromPassage) :
    (u.tree k).rogue = (s.tree k).rogue := by
  rw [← Tree.rogue_apartFromPassage, hk, Tree.rogue_apartFromPassage]

end

/-- Settles O54: the dwell judgement, and the two commands that take the current handle out of HUSHED. -/
theorem dwellExpiryUnhushesTheCurrentHandle : Obligations.DwellExpiryUnhushesTheCurrentHandle := by
  intro k w s hw hcursor steps
  refine ⟨fun c hstage hc hover => ?expired, fun hnot => ?notOver, fun handle hfree hh hcurrent hk hs ho => ?host⟩
  case expired =>
    obtain ⟨hentry, hp, -⟩ := s.unhushToRegistered_outcome k w.current
    obtain ⟨hsteps, hsame⟩ := hp.sweepStep nofun ((EngineFrame.refl k s).unhushToRegistered w.current) hcursor
    have hexec : exec (.dwellExpiry k) s = .next (s.judgeDwell k) := rfl
    rw [hexec, State.judgeDwell_of_over hw (by rw [Sweep.dwellOver_of_observing hstage hc]; exact decide_eq_true hover)]
    refine ⟨_, rfl, ?_⟩
    rw [hsame]
    exact ⟨rfl, rfl, rfl, rfl, hsteps⟩
  case notOver =>
    have hover : w.dwellOver (s.tree k).n = false := by
      rcases hnot with hstage | ⟨c, hc, hlt⟩
      · exact Sweep.dwellOver_of_hushing hstage
      · cases hstage : w.stage with
        | hushing => exact Sweep.dwellOver_of_hushing hstage
        | observing =>
          rw [Sweep.dwellOver_of_observing hstage hc]
          exact decide_eq_false (Nat.not_le.2 hlt)
    exact congrArg _ (State.judgeDwell_of_notOver hw hover)
  case host =>
    let a := oneArg s handle
    have hk' : s.treeOf handle.toNat = some k := by rw [hcurrent]; exact hk
    have hs' : (s.entry handle.toNat).state = .hushed := by rw [hcurrent]; exact hs
    constructor
    · let v := s.written 22 a
      have hexec : exec (.unhush handle) s = .next (v.goWith judgeUnhush) := rfl
      have hdone := judgeUnhush_of_hushed (a := a) (s := v) hh hs' hk'
      rw [show a.q0.toNat = w.current from hcurrent] at hdone
      have hsweep : ((v.unhushEntry k w.current).tree k).rogue.sweep = some w := by
        rw [State.rogue_of_apartFromPassage (v.apartFromPassage_unhushEntry k w.current)]
        exact hw
      rw [State.tellMonitor_current (e := v.entry w.current) hsweep ho] at hdone
      obtain ⟨e, hp, hstate, howed, hown⟩ := v.unhushEntry_passed (k := k) (h := w.current)
      have hf : e.state ≠ .free := by rw [hstate]; split <;> exact nofun
      obtain ⟨hsteps, hsame⟩ := hp.sweepStep hf ((EngineFrame.refl k v).unhushEntry w.current) hcursor
      rw [hexec, State.goWith_written hfree hdone]
      refine ⟨_, rfl, ?_⟩
      rw [State.entry_of_command _ hsame]
      exact ⟨hstate, howed, hown, hsteps.of_command⟩
    · let v := s.written 20 a
      have hexec : exec (.release handle) s = .next (v.goWith judgeRelease) := rfl
      have hdone := onEntry_of_taken (w := handle) (s := v) (takes := EntryState.releasable)
        (act := fun t h => (v.departEntry t h .host 3).tellMonitor t h (v.entry h)) hh
        (show (s.entry handle.toNat).state.releasable = true by rw [hs']; rfl) hk'
      rw [hcurrent] at hdone
      have hsweep : ((v.departEntry k w.current .host 3).tree k).rogue.sweep = some w := by
        rw [State.rogue_of_apartFromPassage (v.apartFromPassage_departEntry k w.current .host 3)]
        exact hw
      rw [State.tellMonitor_current (e := v.entry w.current) hsweep ho] at hdone
      obtain ⟨hp, -⟩ := v.departEntry_passed k w.current .host 3
      obtain ⟨hsteps, hsame⟩ := hp.sweepStep nofun ((EngineFrame.refl k v).departEntry w.current .host 3) hcursor
      rw [hexec, State.goWith_written hfree hdone]
      refine ⟨_, rfl, ?_⟩
      rw [State.entry_of_command _ hsame]
      exact ⟨rfl, rfl, hsteps.of_command⟩

/-! ## The commands of the sweep (R177, R182) -/

section
variable {a : Quad Word} {s : State} {k : TreeId}

theorem judgeSweepStart_of_badArg (h : 3 < a.q0.toNat ∨ a.q1.toNat < 24 ∨ 255 < a.q1.toNat) :
    judgeSweepStart a s = refusedWith s .badArg := by
  by_cases hdwell : a.q1.toNat < 24 ∨ 255 < a.q1.toNat
  · exact if_pos hdwell
  · rw [judgeSweepStart, if_neg hdwell, forTree_of_lt _ (h.resolve_right hdwell)]

theorem judgeSweepStart_of_tree (hk : treeOfWord a.q0 = some k) (hlow : 24 ≤ a.q1.toNat) (hhigh : a.q1.toNat ≤ 255) :
    judgeSweepStart a s =
      if !(s.tree k).inService then refusedWith s .wrongTreeState
      else if (s.tree k).rogue.sweep.isSome then refusedWith s .sweepBusy
      else if !(s.tree k).rogue.rogue then refusedWith s .notRogue
      else
        doneWith (s.sweepStep k (s.tree k).config.windowBase a.q1.toNat 0)
          ((s.nextSweepHandle k (s.tree k).config.windowBase).elim Quad.zero fun h => words (wordOf h) 1 0 0) := by
  rw [judgeSweepStart, if_neg (by omega), forTree_of_some _ hk]
  dsimp only
  cases s.nextSweepHandle k (s.tree k).config.windowBase <;> rfl

theorem judgeSweepStart_of_rogue (hk : treeOfWord a.q0 = some k) (hlow : 24 ≤ a.q1.toNat) (hhigh : a.q1.toNat ≤ 255)
    (hservice : (s.tree k).inService = true) (hsweep : (s.tree k).rogue.sweep = none)
    (hrogue : (s.tree k).rogue.rogue = true) {next : Option Nat}
    (hnext : s.nextSweepHandle k (s.tree k).config.windowBase = next) :
    judgeSweepStart a s = doneWith (s.sweepStep k (s.tree k).config.windowBase a.q1.toNat 0)
      (next.elim Quad.zero fun h => words (wordOf h) 1 0 0) := by
  rw [judgeSweepStart_of_tree hk hlow hhigh, hservice, hsweep, hrogue, hnext]
  rfl

theorem State.sweepStep_none_outcome {cursor dwell tried : Nat} (hnone : ∀ h, ¬ nextRostered s k cursor h) :
    (s.sweepStep k cursor dwell tried).entries = s.entries
      ∧ wrote s (s.sweepStep k cursor dwell tried) .sweepExhausted k 0 [oneField tried] := by
  rw [State.sweepStep_none hnone]
  exact ⟨by rw [State.entries_modRogue, State.entries_setSweepEnd, State.entries_writeEvent],
    wrote_of_writeEvent (u := s) rfl rfl⟩

/-- What an abort leaves: the current handle unhushed, the sweep ended, the rogue state as it was (R182). -/
theorem State.sweepAbort_outcome (w : Sweep) :
    (s.sweepAbort k w).entry w.current
        = { (s.entry w.current).toUnhushedRegistered (s.tree k).n with owed := some { kind := .unhush, sends := 1 } }
      ∧ ((s.sweepAbort k w).tree k).rogue.rogue = (s.tree k).rogue.rogue ∧ sweepEnded k (s.sweepAbort k w) := by
  obtain ⟨hentry, -⟩ := s.unhushToRegistered_outcome k w.current
  refine ⟨?_, ?_, ?_⟩
  · rw [State.sweepAbort, State.entry_modRogue, State.entry_setSweepEnd, State.entry_writeEvent, hentry]
  · rw [State.sweepAbort, State.tree_modRogue, if_pos rfl, State.tree_setSweepEnd, if_pos rfl, State.tree_writeEvent]
    rw [← State.rogue_of_apartFromPassage (s.apartFromPassage_unhushToRegistered k w.current)]
  · rw [State.sweepAbort, sweepEnded, State.tree_modRogue, if_pos rfl, State.tree_setSweepEnd, if_pos rfl]
    exact ⟨rfl, rfl⟩

end

/-- Settles O32: the refusals of SWEEP_START and its first step, and SWEEP_ABORT with and without a sweep. -/
theorem sweepCommandsOutcome : Obligations.SweepCommandsOutcome := by
  refine ⟨fun tree dwell s hfree => ?start, fun tree s hfree => ?abort⟩
  case start =>
    intro args
    let v := s.written 40 args
    have hexec : exec (.sweepStart tree dwell) s = .next (v.goWith judgeSweepStart) := rfl
    rw [hexec]
    refine ⟨fun h => ?_, fun k hk hlow hhigh => ⟨fun hd => ?_, fun hservice hsweep => ?_, fun hservice hsweep hrogue => ?_,
      fun hservice hsweep hrogue => ⟨fun h hnext => ?_, fun hnone => ?_⟩⟩⟩
    · rw [State.goWith_refused hfree (judgeSweepStart_of_badArg h)]
    · have hidle : (v.tree k).inService = false := Tree.inService_of_disabled hd
      rw [State.goWith_refused hfree ((judgeSweepStart_of_tree hk hlow hhigh).trans (by rw [hidle]; rfl))]
    · have hservice : (v.tree k).inService = true := hservice
      have hsweep : (v.tree k).rogue.sweep.isSome = true := hsweep
      rw [State.goWith_refused hfree ((judgeSweepStart_of_tree hk hlow hhigh).trans (by rw [hservice, hsweep]; rfl))]
    · have hservice : (v.tree k).inService = true := hservice
      have hsweep : (v.tree k).rogue.sweep = none := hsweep
      have hrogue : (v.tree k).rogue.rogue = false := hrogue
      rw [State.goWith_refused hfree ((judgeSweepStart_of_tree hk hlow hhigh).trans
        (by rw [hservice, hsweep, hrogue]; rfl))]
    · have hdone := judgeSweepStart_of_rogue (a := args) (s := v) hk hlow hhigh hservice hsweep hrogue
        (State.nextSweepHandle_eq_some_iff.2 hnext)
      have hswept := State.sweptOn_sweepStep (s := v) (dwell := dwell.toNat) (tried := 0) hnext
      rw [State.goWith_written hfree hdone]
      exact ⟨_, rfl, hswept.of_command, rfl⟩
    · have hdone := judgeSweepStart_of_rogue (a := args) (s := v) hk hlow hhigh hservice hsweep hrogue
        (State.nextSweepHandle_eq_none_iff.2 hnone)
      have hended := State.sweepEnded_sweepStep (s := v) (dwell := dwell.toNat) (tried := 0) hnone
      obtain ⟨hentries, hwrote⟩ := State.sweepStep_none_outcome (s := v) (dwell := dwell.toNat) (tried := 0) hnone
      rw [State.goWith_written hfree hdone]
      exact ⟨_, rfl, hended.of_command, hentries, hwrote.of_command _, rfl⟩
  case abort =>
    let a := oneArg s tree
    let v := s.written 41 a
    have hexec : exec (.sweepAbort tree) s = .next (v.goWith judgeSweepAbort) := rfl
    rw [hexec]
    refine ⟨fun h => ?_, fun k hk => ⟨fun hsweep => ?_, fun w hsweep => ?_⟩⟩
    · rw [State.goWith_refused hfree (forTree_of_lt _ h)]
    · have hsweep : (v.tree k).rogue.sweep = none := hsweep
      have hjudge : judgeSweepAbort a v = doneWith v Quad.zero := by
        rw [judgeSweepAbort, forTree_of_some (w := a.q0) _ hk, hsweep]
      rw [State.goWith_done (u := s) hfree hjudge]
    · have hsweep' : (v.tree k).rogue.sweep = some w := hsweep
      have hjudge : judgeSweepAbort a v = doneWith (v.sweepAbort k w) (firstWord 1) := by
        rw [judgeSweepAbort, forTree_of_some (w := a.q0) _ hk, hsweep']
      obtain ⟨hentry, hrogue, hended⟩ := State.sweepAbort_outcome (s := v) (k := k) w
      rw [State.goWith_written hfree hjudge]
      refine ⟨_, rfl, ?_⟩
      rw [State.entry_of_command _ hentry]
      exact ⟨rfl, rfl, rfl, State.rogue_of_command _ hrogue, hended.of_command, rfl⟩

end Sys2Proof.Machine
end

section
/-! PROOFS. The Claim List and the ring: which slot a request is granted, what a grant changes, and what a pass of arbitration
keeps (R5, R57, R61, R65 to R67, R95). -/

namespace Sys2Proof.Machine

/-! ## The ring in the order of its cycles (R57) -/

theorem distance_ringCycle (n : Cycle) (i : Nat) :
    Cycle.distance n (n - 1 + BitVec.ofNat 16 i) = (65535 + i) % 65536 := by
  have hsub : n - 1 + BitVec.ofNat 16 i - n = BitVec.ofNat 16 i - 1 := by ring
  rw [Cycle.distance, hsub]
  bv_omega

theorem ringCycles_pairwise (n : Cycle) : (ringCycles n).Pairwise fun c d => c ≠ d ∧
    (7 ≤ Cycle.distance n c → Cycle.distance n c ≤ 14 → 7 ≤ Cycle.distance n d → Cycle.distance n d ≤ 14 →
      Cycle.distance n c < Cycle.distance n d) := by
  refine List.pairwise_map.2 (List.pairwise_lt_range.imp_of_mem fun {i j} hi hj hij => ?_)
  have hi : i < 16 := List.mem_range.1 hi
  have hj : j < 16 := List.mem_range.1 hj
  rw [distance_ringCycle n i, distance_ringCycle n j]
  refine ⟨fun heq => ?_, fun h7 h14 h7' h14' => by omega⟩
  have hsame := distance_ringCycle n i
  rw [heq, distance_ringCycle n j] at hsame
  omega

section
variable {x : Tree} {q : Claim} {j : Slot}

theorem Calendar.slot?_of_mem {w : Calendar} {n : Cycle} (hring : w.ring.map Slot.cycle = ringCycles n)
    (hj : j ∈ w.ring) : w.slot? j.cycle = some j := by
  have hpairwise : w.ring.Pairwise fun a b => a.cycle ≠ b.cycle :=
    List.pairwise_map.1 (by rw [hring]; exact (ringCycles_pairwise n).imp And.left)
  obtain ⟨before, after, hsplit⟩ := List.append_of_mem hj
  rw [Calendar.slot?, hsplit]
  rw [hsplit, List.pairwise_append] at hpairwise
  refine List.find?_eq_some_iff_append.2 ⟨beq_iff_eq.2 rfl, before, after, rfl, fun i hi => ?_⟩
  rw [Bool.not_eq_true', beq_eq_false_iff_ne]
  exact hpairwise.2.2 i hi j List.mem_cons_self

/-! ## Eligible slots (R66) -/

theorem Tree.eligible_iff {position : Nat} (hposition : x.calendar.quietPosition = some position) :
    x.eligible q j = true ↔ j.takesWindow x.n position (x.config.claimSpan q) := by
  rw [Tree.eligible, hposition, Bool.and_eq_true, Bool.and_eq_true, decide_eq_true_iff, Bool.or_eq_true, beq_iff_eq,
    beq_iff_eq, clearOf, List.all_eq_true, and_assoc, and_assoc]
  exact Iff.rfl

theorem Tree.horizon_of_eligible (h : x.eligible q j = true) :
    7 ≤ Cycle.distance x.n j.cycle ∧ Cycle.distance x.n j.cycle ≤ 14 := by
  rw [Tree.eligible, Bool.and_eq_true, Bool.and_eq_true] at h
  exact of_decide_eq_true h.1.1

theorem Tree.state_of_eligible (h : x.eligible q j = true) : j.state = .opened ∨ j.state = .planned := by
  rw [Tree.eligible, Bool.and_eq_true, Bool.and_eq_true, Bool.or_eq_true, beq_iff_eq, beq_iff_eq] at h
  exact h.1.2

/-- The first eligible slot of a ring in cycle order is the one nearest after N. -/
theorem Tree.eligibleSlot_of_nearest (hring : x.calendar.ring.map Slot.cycle = ringCycles x.n)
    (hj : j ∈ x.calendar.ring) (he : x.eligible q j = true)
    (hnearest : ∀ i ∈ x.calendar.ring, x.eligible q i = true → Cycle.distance x.n j.cycle ≤ Cycle.distance x.n i.cycle) :
    x.eligibleSlot q = some j := by
  cases hfind : x.eligibleSlot q with
  | none => exact absurd he (List.find?_eq_none.1 hfind j hj)
  | some i =>
    obtain ⟨hi, before, after, hsplit, hbefore⟩ := List.find?_eq_some_iff_append.1 hfind
    have hpairwise := List.pairwise_map.1 (hring ▸ ringCycles_pairwise x.n)
    rw [hsplit] at hj hpairwise
    rcases List.mem_append.1 hj with hb | ha
    · exact absurd he (by simpa using hbefore j hb)
    · rcases List.mem_cons.1 ha with rfl | ha
      · rfl
      · have hlt := (List.rel_of_pairwise_cons (List.pairwise_append.1 hpairwise).2.1 ha).2
          (Tree.horizon_of_eligible hi).1 (Tree.horizon_of_eligible hi).2 (Tree.horizon_of_eligible he).1
          (Tree.horizon_of_eligible he).2
        exact absurd (hnearest i (hsplit ▸ by simp) hi) (Nat.not_le.2 hlt)

theorem Tree.eligibleSlot_eq_none_iff : x.eligibleSlot q = none ↔ ∀ j ∈ x.calendar.ring, x.eligible q j = false := by
  rw [Tree.eligibleSlot, List.find?_eq_none]
  exact forall₂_congr fun j _ => Bool.not_eq_true (x.eligible q j) ▸ Iff.rfl

theorem SlotState.withQuiet_of_free {state : SlotState} (h : state = .opened ∨ state = .planned) :
    state.withQuiet = if state = .opened then .claimed else .filled := by
  rcases h with rfl | rfl <;> rfl

theorem SlotState.withQuiet_ne (state : SlotState) : state.withQuiet ≠ .opened ∧ state.withQuiet ≠ .planned := by
  cases state <;> exact ⟨nofun, nofun⟩

/-! ## The window a claim brings (R57, R61, R66) -/

theorem Claim.handle?_ofOrigin (origin : RangingOrigin) (h : Nat) : (Claim.ofOrigin origin h).handle? = some h := by
  cases origin <;> rfl

theorem TreeConfig.claimSpan_ofOrigin (c : TreeConfig) (origin : RangingOrigin) (h : Nat) :
    c.claimSpan (Claim.ofOrigin origin h) = c.maxRtt.toNat - c.minRtt.toNat + 80 := by cases origin <;> rfl

theorem Tree.windowFor_ofOrigin {position : Nat} (hposition : x.calendar.quietPosition = some position)
    (origin : RangingOrigin) (h : Nat) :
    x.windowFor (Claim.ofOrigin origin h)
      = { Reservation.bare .quietMeasure position (x.config.maxRtt.toNat - x.config.minRtt.toNat + 80) with
          handle := some h, answerPoint := some (position + (x.config.teq.toNat - x.config.minRtt.toNat)) } := by
  have hstart : x.calendar.quietPosition.getD 0 = position := by rw [hposition]; rfl
  subst hstart
  cases origin <;> rfl

theorem Tree.windowFor_call {position : Nat} (hposition : x.calendar.quietPosition = some position) (head : MarkHead) :
    x.windowFor (.call head)
      = { Reservation.bare .quietCall position
            (x.config.maxRtt.toNat - x.config.minRtt.toNat + 80 + x.config.backoff.grains) with
          answerPoint := some (position + (x.config.teq.toNat - x.config.minRtt.toNat)), head := some head } := by
  rw [Tree.windowFor, hposition]
  rfl

theorem Tree.windowFor_start (x : Tree) (q : Claim) : (x.windowFor q).start = x.calendar.quietPosition.getD 0 := rfl

theorem Tree.windowFor_length (x : Tree) (q : Claim) : (x.windowFor q).length = x.config.claimSpan q := rfl

end

theorem mem_insertReservation {r p : Reservation} {rs : List Reservation} :
    p ∈ insertReservation r rs ↔ p = r ∨ p ∈ rs := by
  induction rs with
  | nil => exact List.mem_cons
  | cons x rs ih =>
    rw [insertReservation]
    split
    · exact List.mem_cons
    · rw [List.mem_cons, ih, List.mem_cons]
      tauto

/-! ## A grant (R66, R95, R106) -/

/-- The slot with a quiet window in it (R66). -/
def Slot.withWindow (j : Slot) (r : Reservation) : Slot :=
  { j with state := j.state.withQuiet, reservations := insertReservation r j.reservations }

/-- A claim granted: the ring and the Claim List without it (R66). -/
def Calendar.granted (w : Calendar) (q : Claim) (c : Cycle) (r : Reservation) : Calendar :=
  { w.modSlot c fun j => j.withWindow r with claims := w.claims.erase q }

section
variable (s : State) (k : TreeId) (q : Claim) (c : Cycle)

/-- The state once the window of a claim stands in its slot, and QUIET is made (R66, R95). -/
def State.windowGranted : State :=
  (s.modCalendar k fun w => w.granted q c ((s.tree k).windowFor q)).makeFrame
    (.quiet k c ((s.tree k).calendar.quietPosition.getD 0) ((s.tree k).config.claimSpan q))

theorem State.tree_windowGranted : (s.windowGranted k q c).tree k
    = { s.tree k with calendar := (s.tree k).calendar.granted q c ((s.tree k).windowFor q) } := by
  rw [State.windowGranted, State.tree_makeFrame, State.tree_modCalendar, if_pos rfl]

@[simp] theorem State.entries_windowGranted : (s.windowGranted k q c).entries = s.entries := by
  rw [State.windowGranted, State.entries_makeFrame, State.entries_modCalendar]

theorem State.entry_windowGranted (h : Nat) : (s.windowGranted k q c).entry h = s.entry h := by
  rw [State.entry, State.entries_windowGranted, State.entry]

theorem State.outQueue_windowGranted : ∃ more, (s.windowGranted k q c).outQueue = s.outQueue ++ more
    ∧ (∀ f ∈ more, ∃ c start length, f = .quiet k c start length)
    ∧ (s.outQueue.length < 512 → more = [.quiet k c ((s.tree k).calendar.quietPosition.getD 0)
        ((s.tree k).config.claimSpan q)]) := by
  rw [State.windowGranted]
  by_cases hroom : s.outQueue.length < 512
  · rw [State.outQueue_makeFrame (by rw [State.outQueue_modCalendar]; exact hroom), State.outQueue_modCalendar]
    exact ⟨_, rfl, fun f hf => ⟨_, _, _, List.mem_singleton.1 hf⟩, fun _ => rfl⟩
  · rw [State.makeFrame_of_full (by rw [State.outQueue_modCalendar]; exact Nat.not_lt.1 hroom)]
    exact ⟨[], (List.append_nil _).symm, nofun, fun h => absurd h hroom⟩

variable {q}

theorem State.grantClaim_of_handle {h : Nat} (hq : q.handle? = some h) :
    s.grantClaim k q c = (s.windowGranted k q c).modEntry h fun e => { e with measureCycle := some c } := by
  unfold State.grantClaim
  dsimp only
  rw [hq]
  rfl

theorem State.grantClaim_of_call (hq : q.handle? = none) :
    s.grantClaim k q c = (s.windowGranted k q c).modDiscovery k fun d =>
      { d with call := d.call.map fun r => { r with stage := .granted c } } := by
  unfold State.grantClaim
  dsimp only
  rw [hq]
  rfl

theorem State.calendar_grantClaim (q : Claim) : ((s.grantClaim k q c).tree k).calendar
    = (s.tree k).calendar.granted q c ((s.tree k).windowFor q) := by
  cases hq : q.handle? with
  | some h => rw [State.grantClaim_of_handle s k c hq, State.tree_modEntry, State.tree_windowGranted]
  | none =>
    rw [State.grantClaim_of_call s k c hq, State.tree_modDiscovery, if_pos rfl, State.tree_windowGranted]

theorem State.outQueue_grantClaim (q : Claim) : (s.grantClaim k q c).outQueue = (s.windowGranted k q c).outQueue := by
  cases hq : q.handle? with
  | some h => rw [State.grantClaim_of_handle s k c hq]; rfl
  | none => rw [State.grantClaim_of_call s k c hq, State.outQueue_modDiscovery]

theorem State.entry_grantClaim_of_ne {h : Nat} (q : Claim) (hq : q.handle? ≠ some h) :
    (s.grantClaim k q c).entry h = s.entry h := by
  cases hh : q.handle? with
  | some j =>
    rw [State.grantClaim_of_handle s k c hh, State.entry_modEntry_ne _ _ _ _ (fun heq => hq (by rw [hh, heq])),
      State.entry_windowGranted]
  | none => rw [State.grantClaim_of_call s k c hh, State.entry_modDiscovery, State.entry_windowGranted]

end

section
variable {w : Calendar} {q : Claim} {c d : Cycle} {r : Reservation} {j : Slot}

theorem Calendar.slot?_granted (hj : w.slot? c = some j) : (w.granted q c r).slot? c = some (j.withWindow r) :=
  Calendar.slot?_modSlot_of_some (f := fun j => j.withWindow r) (fun _ => rfl) hj

theorem Calendar.slot?_granted_ne (hd : d ≠ c) : (w.granted q c r).slot? d = w.slot? d :=
  Calendar.slot?_modSlot_ne (f := fun j => j.withWindow r) (fun _ => rfl) hd

/-- A slot of the ring after a grant: one that was there, or one with the window in it. -/
theorem Calendar.mem_granted (hj : j ∈ (w.granted q c r).ring) :
    j ∈ w.ring ∨ ∃ i ∈ w.ring, i.cycle = c ∧ j = i.withWindow r := by
  obtain ⟨i, hi, hij⟩ := List.mem_map.1 hj
  split at hij
  case isTrue hc => exact Or.inr ⟨i, hi, hc, hij.symm⟩
  case isFalse => exact Or.inl (hij ▸ hi)

/-- A slot of the ring stays in it through a grant, with its cycle, its window states and its reservations. -/
theorem Calendar.exists_granted (q : Claim) (c : Cycle) (r : Reservation) (hj : j ∈ w.ring) :
    ∃ i ∈ (w.granted q c r).ring, i.cycle = j.cycle ∧ (∀ p ∈ j.reservations, p ∈ i.reservations)
      ∧ (j.state = .claimed ∨ j.state = .filled → i.state = .claimed ∨ i.state = .filled) := by
  refine ⟨if j.cycle = c then j.withWindow r else j, List.mem_map.2 ⟨j, hj, rfl⟩, ?_⟩
  split
  · refine ⟨rfl, fun p hp => mem_insertReservation.2 (Or.inr hp), ?_⟩
    rintro (h | h)
    · exact Or.inl (by rw [Slot.withWindow, h]; rfl)
    · exact Or.inr (by rw [Slot.withWindow, h]; rfl)
  · exact ⟨rfl, fun _ hp => hp, id⟩

theorem Calendar.granted_mem (q : Claim) (r : Reservation) (hj : j ∈ w.ring) (hc : j.cycle = c) :
    j.withWindow r ∈ (w.granted q c r).ring := List.mem_map.2 ⟨j, hj, if_pos hc⟩

end

/-! ## A request (R65, R66) -/

theorem insertClaim_split (q : Claim) (l : List Claim) : ∃ before after, l = before ++ after
    ∧ insertClaim q l = before ++ q :: after ∧ (∀ x ∈ before, x.rank ≤ q.rank) ∧ ∀ x ∈ after.head?, q.rank < x.rank := by
  induction l with
  | nil => exact ⟨[], [], rfl, rfl, nofun, nofun⟩
  | cons y l ih =>
    by_cases hy : q.rank < y.rank
    · refine ⟨[], y :: l, rfl, if_pos hy, nofun, fun x hx => ?_⟩
      obtain rfl : y = x := Option.some.inj hx
      exact hy
    · obtain ⟨before, after, hl, hinsert, hbefore, hafter⟩ := ih
      refine ⟨y :: before, after, by rw [hl, List.cons_append], by rw [insertClaim, if_neg hy, hinsert]; rfl,
        fun x hx => ?_, hafter⟩
      rcases List.mem_cons.1 hx with rfl | hx
      · exact Nat.not_lt.1 hy
      · exact hbefore x hx

/-- A CALL goes behind all others. -/
theorem insertClaim_call (head : MarkHead) (l : List Claim) : insertClaim (.call head) l = l ++ [.call head] := by
  induction l with
  | nil => rfl
  | cons y l ih =>
    have hy : ¬ Claim.rank (.call head) < y.rank := by
      cases y <;> simp [Claim.rank]
    rw [insertClaim, if_neg hy, ih, List.cons_append]

section
variable {s : State} {k : TreeId} {q : Claim} {j : Slot}

theorem State.requestClaim_of_notTaken (h : s.claimTaken k q = false) : s.requestClaim k q = s :=
  if_neg (Bool.eq_false_iff.1 h)

theorem State.requestClaim_of_granted (h : s.claimTaken k q = true) (hj : (s.tree k).eligibleSlot q = some j) :
    s.requestClaim k q = s.grantClaim k q j.cycle := by
  rw [State.requestClaim, if_pos h, State.tryClaim, hj]
  rfl

theorem State.requestClaim_of_waiting (h : s.claimTaken k q = true) (hnone : (s.tree k).eligibleSlot q = none) :
    s.requestClaim k q = s.modCalendar k fun w => { w with claims := insertClaim q w.claims } := by
  rw [State.requestClaim, if_pos h, State.tryClaim, hnone]
  rfl

theorem State.claimTaken_handle_iff {h : Nat} (hq : q.handle? = some h) : s.claimTaken k q = true
    ↔ (s.entry h).measureCycle = none ∧ ∀ p ∈ (s.tree k).calendar.claims, p.handle? ≠ some h := by
  unfold State.claimTaken
  rw [hq]
  simp

theorem State.mayCall_iff {x : Tree} :
    x.mayCall = true ↔ x.state = .active ∧ x.upkeep.dark = false ∧ x.rogue.rogue = false := by
  rw [Tree.mayCall, Bool.and_eq_true, Bool.and_eq_true, beq_iff_eq, Bool.not_eq_true', Bool.not_eq_true', and_assoc]

theorem State.claimTaken_call_iff (head : MarkHead) : s.claimTaken k (.call head) = true ↔ (s.tree k).mayCall = true
    ∧ (∀ p ∈ (s.tree k).calendar.claims, p.handle? ≠ none)
    ∧ ∀ j ∈ (s.tree k).calendar.ring, j.state.unsent = true → ∀ r ∈ j.reservations, r.kind ≠ .quietCall := by
  show ((s.tree k).mayCall && !(s.tree k).calendar.holdsCall) = true ↔ _
  rw [Bool.and_eq_true, Bool.not_eq_true', Calendar.holdsCall, Bool.or_eq_false_iff, List.any_eq_false,
    List.any_eq_false]
  simp [Option.ne_none_iff_isSome]

end

end Sys2Proof.Machine
end

section
/-! PROOFS. A request of the ranging engine and one of the discovery engine: not taken, granted to the nearest eligible slot,
or waiting in its place (R5, R61, R65, R66, R70, R95, R104, R106, R123). -/

namespace Sys2Proof.Machine

/-! ## The nearest slot (R66) -/

section
variable {x : Tree} {q : Claim} {position span : Nat} {j : Slot}

theorem Tree.eligibleSlot_of_takesWindow (hposition : x.calendar.quietPosition = some position)
    (hspan : x.config.claimSpan q = span) (hring : x.calendar.ring.map Slot.cycle = ringCycles x.n)
    (hj : j ∈ x.calendar.ring) (htakes : j.takesWindow x.n position span)
    (hnearest : ∀ i ∈ x.calendar.ring, i.takesWindow x.n position span →
      Cycle.distance x.n j.cycle ≤ Cycle.distance x.n i.cycle) : x.eligibleSlot q = some j := by
  subst hspan
  exact Tree.eligibleSlot_of_nearest hring hj ((Tree.eligible_iff hposition).2 htakes)
    fun i hi he => hnearest i hi ((Tree.eligible_iff hposition).1 he)

theorem Tree.eligibleSlot_of_takesNone (hposition : x.calendar.quietPosition = some position)
    (hspan : x.config.claimSpan q = span) (hnone : ∀ j ∈ x.calendar.ring, ¬ j.takesWindow x.n position span) :
    x.eligibleSlot q = none := by
  subst hspan
  exact Tree.eligibleSlot_eq_none_iff.2 fun j hj =>
    Bool.eq_false_iff.2 fun he => hnone j hj ((Tree.eligible_iff hposition).1 he)

end

/-! ## What a grant at the front leaves, said of the slot (R66, R95) -/

section
variable {s : State} {k : TreeId} {q : Claim} {j : Slot} {position span : Nat}

/-- A slot that takes a window, with the window in it. -/
theorem Slot.withWindow_of_takes {n : Cycle} (h : j.takesWindow n position span) (r : Reservation) :
    j.withWindow r = { j with
      state := if j.state = .opened then .claimed else .filled, reservations := insertReservation r j.reservations } := by
  rw [Slot.withWindow, SlotState.withQuiet_of_free h.2.2.1]

theorem Calendar.claims_granted_of_notMem {w : Calendar} {c : Cycle} {r : Reservation} (hq : q ∉ w.claims) :
    (w.granted q c r).claims = w.claims := List.erase_of_not_mem hq

theorem State.outQueue_grantClaim_of_room (c : Cycle) (hposition : (s.tree k).calendar.quietPosition = some position)
    (hspan : (s.tree k).config.claimSpan q = span) (hroom : s.outQueue.length < 512) :
    (s.grantClaim k q c).outQueue = s.outQueue ++ [.quiet k c position span] := by
  obtain ⟨more, hout, -, hone⟩ := s.outQueue_windowGranted k q c
  rw [State.outQueue_grantClaim, hout, hone hroom, hposition, hspan]
  rfl

/-- A granted request that did not wait: the slot it takes, the others, the Claim List and the QUIET frame. -/
theorem State.grantClaim_outcome (hposition : (s.tree k).calendar.quietPosition = some position)
    (hspan : (s.tree k).config.claimSpan q = span) (hring : (s.tree k).calendar.ring.map Slot.cycle = ringCycles (s.tree k).n)
    (hj : j ∈ (s.tree k).calendar.ring) (htakes : j.takesWindow (s.tree k).n position span)
    (hq : q ∉ (s.tree k).calendar.claims) :
    ((s.grantClaim k q j.cycle).tree k).calendar.slot? j.cycle = some { j with
        state := if j.state = .opened then .claimed else .filled
        reservations := insertReservation ((s.tree k).windowFor q) j.reservations }
      ∧ (∀ c, c ≠ j.cycle →
        ((s.grantClaim k q j.cycle).tree k).calendar.slot? c = (s.tree k).calendar.slot? c)
      ∧ ((s.grantClaim k q j.cycle).tree k).calendar.claims = (s.tree k).calendar.claims
      ∧ (s.outQueue.length < 512 →
        (s.grantClaim k q j.cycle).outQueue = s.outQueue ++ [.quiet k j.cycle position span]) := by
  rw [State.calendar_grantClaim]
  exact ⟨by rw [Calendar.slot?_granted (Calendar.slot?_of_mem hring hj), Slot.withWindow_of_takes htakes],
    fun c hc => Calendar.slot?_granted_ne hc, Calendar.claims_granted_of_notMem hq,
    State.outQueue_grantClaim_of_room _ hposition hspan⟩

end

/-! ## A ranging request (R65, R66, R123) -/

section
variable {s : State} {k : TreeId} {h : Nat} {origin : RangingOrigin}

theorem State.requestRanging_eq (horigin : (s.entry h).origin = some origin) :
    s.requestRanging k h = s.requestClaim k (Claim.ofOrigin origin h) := by rw [State.requestRanging, horigin]

theorem State.requestRanging_of_held (horigin : (s.entry h).origin = some origin)
    (hheld : (s.entry h).measureCycle ≠ none ∨ ∃ p ∈ (s.tree k).calendar.claims, p.handle? = some h) :
    s.requestRanging k h = s := by
  rw [State.requestRanging_eq horigin, State.requestClaim_of_notTaken]
  rw [Bool.eq_false_iff, ne_eq, State.claimTaken_handle_iff (Claim.handle?_ofOrigin origin h)]
  rintro ⟨hcycle, hclaims⟩
  rcases hheld with hm | ⟨p, hp, hph⟩
  · exact hm hcycle
  · exact hclaims p hp hph

theorem Claim.ofOrigin_notMem {l : List Claim} (hl : ∀ p ∈ l, p.handle? ≠ some h) : Claim.ofOrigin origin h ∉ l :=
  fun hmem => hl _ hmem (Claim.handle?_ofOrigin origin h)

end

/-! ## A CALL request (R65, R70, R104, R106) -/

section
variable {s u v w : State} {k : TreeId} {head : MarkHead}

/-- What a granted or waiting CALL is said of: the calendar, the configuration and N of its tree before, the calendar and
the call record after, and the frames. -/
theorem callAskedFor.congr (hasked : callAskedFor k head s u) (hconfig : (v.tree k).config = (s.tree k).config)
    (hcalendar : (v.tree k).calendar = (s.tree k).calendar) (hn : (v.tree k).n = (s.tree k).n)
    (hout : v.outQueue = s.outQueue) (hafter : (w.tree k).calendar = (u.tree k).calendar)
    (hcall : (w.tree k).discovery.call = (u.tree k).discovery.call) (hout' : w.outQueue = u.outQueue) :
    callAskedFor k head v w := by
  unfold callAskedFor at hasked ⊢
  dsimp only at hasked ⊢
  rw [hconfig, hcalendar, hn, hout, hafter, hcall, hout']
  exact hasked

/-- A CALL request that is taken, its record waiting, is granted or waits (R66, R104, R106). -/
theorem State.requestClaim_callAskedFor (hmay : (s.tree k).mayCall = true)
    (hcall : (s.tree k).discovery.call = some { head := head, stage := .waiting, heldIgnored := false }) :
    callAskedFor k head s (s.requestClaim k (.call head)) := by
  intro position hposition hring hclaims hwindows
  let x := s.tree k
  let span := x.config.maxRtt.toNat - x.config.minRtt.toNat + 80 + x.config.backoff.grains
  have htaken := (State.claimTaken_call_iff head).2 ⟨hmay, hclaims, hwindows⟩
  have hspan : x.config.claimSpan (.call head) = span := rfl
  refine ⟨fun j hj htakes hnearest => ?granted, fun hnone => ?waiting⟩
  case granted =>
    have hslot := Tree.eligibleSlot_of_takesWindow hposition hspan hring hj htakes hnearest
    have hq : Claim.call head ∉ (s.tree k).calendar.claims := fun hmem => hclaims _ hmem rfl
    obtain ⟨hat, hothers, hlist, hout⟩ := State.grantClaim_outcome hposition hspan hring hj htakes hq
    have heq := State.requestClaim_of_granted htaken hslot
    have hrecord : ((s.grantClaim k (.call head) j.cycle).tree k).discovery.call
        = some { head := head, stage := .granted j.cycle, heldIgnored := false } := by
      rw [State.grantClaim_of_call s k _ rfl, State.tree_modDiscovery, if_pos rfl, State.tree_windowGranted, hcall]
      rfl
    rw [← Tree.windowFor_call hposition head]
    show ((s.requestClaim k (.call head)).tree k).calendar.slot? j.cycle = _ ∧ _
    rw [heq]
    exact ⟨hat, hothers, hlist, hrecord, hout⟩
  case waiting =>
    have hslot := Tree.eligibleSlot_of_takesNone hposition hspan hnone
    have heq := State.requestClaim_of_waiting htaken hslot
    have hy : (s.requestClaim k (.call head)).tree k = { s.tree k with calendar := { (s.tree k).calendar with
        claims := insertClaim (.call head) (s.tree k).calendar.claims } } := by
      rw [heq, State.tree_modCalendar, if_pos rfl]
    rw [hy, heq]
    exact ⟨insertClaim_call head _, rfl, hcall, rfl⟩

/-- The record of a request for a CALL is the one it was made with, but for its stage. -/
theorem State.requestClaim_call_discovery {r : CallRecord} (hcall : (s.tree k).discovery.call = some r) :
    ∃ stage, ((s.requestClaim k (.call head)).tree k).discovery
      = { (s.tree k).discovery with call := some { r with stage := stage } } := by
  have hsame : (s.tree k).discovery = { (s.tree k).discovery with call := some { r with stage := r.stage } } := by
    rw [← hcall]
  cases htaken : s.claimTaken k (.call head) with
  | false => exact ⟨r.stage, by rw [State.requestClaim_of_notTaken htaken]; exact hsame⟩
  | true =>
    cases hslot : (s.tree k).eligibleSlot (.call head) with
    | none =>
      exact ⟨r.stage, by rw [State.requestClaim_of_waiting htaken hslot, State.tree_modCalendar, if_pos rfl]; exact hsame⟩
    | some j =>
      refine ⟨.granted j.cycle, ?_⟩
      rw [State.requestClaim_of_granted htaken hslot, State.grantClaim_of_call s k _ rfl, State.tree_modDiscovery,
        if_pos rfl, State.tree_windowGranted, hcall]
      rfl

/-! ## The next CALL of a round (R104) -/

/-- The state in which the discovery engine makes its request: the record waiting, the head off the stack (R104). -/
def State.callRecorded (s : State) (k : TreeId) (head : MarkHead) (rest : List MarkHead) : State :=
  s.modDiscovery k fun d =>
    { d with call := some { head := head, stage := .waiting, heldIgnored := false }, stack := rest }

theorem State.tree_callRecorded (rest : List MarkHead) : (s.callRecorded k head rest).tree k
    = { s.tree k with discovery := { (s.tree k).discovery with
          call := some { head := head, stage := .waiting, heldIgnored := false }, stack := rest } } := by
  rw [State.callRecorded, State.tree_modDiscovery, if_pos rfl]

theorem State.tryCall_of_may {rest : List MarkHead} (hrun : (s.tree k).discovery.running = true)
    (hcall : (s.tree k).discovery.call = none) (hstack : (s.tree k).discovery.stack = head :: rest)
    (hmay : (s.tree k).mayCall = true) :
    s.tryCall k = (s.callRecorded k head rest).requestClaim k (.call head) := by
  unfold State.tryCall
  dsimp only
  rw [hrun, hcall, hstack]
  exact if_pos hmay

theorem State.tryCall_of_idle (h : (s.tree k).discovery.running = false ∨ (s.tree k).discovery.call ≠ none
      ∨ (s.tree k).discovery.stack = [] ∨ (s.tree k).mayCall = false) : s.tryCall k = s := by
  unfold State.tryCall
  dsimp only
  split
  · next hrun hcall hstack =>
    rcases h with h | h | h | h
    · exact absurd (hrun.symm.trans h) nofun
    · exact absurd hcall h
    · exact absurd (hstack.symm.trans h) nofun
    · exact if_neg (Bool.eq_false_iff.1 h)
  · rfl

/-- The next CALL of a round: its record, what it leaves of the tree but the claims, and where it stands. -/
theorem State.tryCall_outcome {rest : List MarkHead} (hrun : (s.tree k).discovery.running = true)
    (hcall : (s.tree k).discovery.call = none) (hstack : (s.tree k).discovery.stack = head :: rest)
    (hmay : (s.tree k).mayCall = true) :
    (∃ stage, ((s.tryCall k).tree k).discovery = { (s.tree k).discovery with
        call := some { head := head, stage := stage, heldIgnored := false }, stack := rest })
      ∧ callAskedFor k head s (s.tryCall k) := by
  have htree := s.tree_callRecorded (k := k) (head := head) rest
  have hmay' : ((s.callRecorded k head rest).tree k).mayCall = true := by rw [htree]; exact hmay
  have hrecord : ((s.callRecorded k head rest).tree k).discovery.call
      = some { head := head, stage := .waiting, heldIgnored := false } := by rw [htree]
  rw [State.tryCall_of_may hrun hcall hstack hmay]
  constructor
  · obtain ⟨stage, hstage⟩ := State.requestClaim_call_discovery (head := head) hrecord
    exact ⟨stage, by rw [hstage, htree]⟩
  · exact (State.requestClaim_callAskedFor hmay' hrecord).congr (by rw [htree]) (by rw [htree]) (by rw [htree]) rfl
      rfl rfl rfl

end

/-- Settles O44: the ranging request, the CALL request that is not taken, and the next CALL of a round. -/
theorem claimRequestIsGrantedOrWaits : Obligations.ClaimRequestIsGrantedOrWaits := by
  refine ⟨fun k h position origin s hf horigin hposition hring => ?ranging, fun k head s hnot => ?call, fun k s => ?next⟩
  case ranging =>
    intro x q span t
    refine ⟨State.requestRanging_of_held horigin, fun hcycle hclaims => ?_⟩
    have hhandle := Claim.handle?_ofOrigin origin h
    have htaken : s.claimTaken k q = true := (State.claimTaken_handle_iff hhandle).2 ⟨hcycle, hclaims⟩
    have hspan : x.config.claimSpan q = span := TreeConfig.claimSpan_ofOrigin _ origin h
    have ht : t = s.requestClaim k q := State.requestRanging_eq horigin
    rw [ht]
    refine ⟨fun j hj htakes hnearest => ?_, fun hnone => ?_⟩
    · have hslot := Tree.eligibleSlot_of_takesWindow hposition hspan hring hj htakes hnearest
      obtain ⟨hat, hothers, hlist, hout⟩ :=
        State.grantClaim_outcome hposition hspan hring hj htakes (Claim.ofOrigin_notMem hclaims)
      have hentry : (s.grantClaim k q j.cycle).entry h = { s.entry h with measureCycle := some j.cycle } := by
        have hsame := s.entry_windowGranted k q j.cycle h
        rw [State.grantClaim_of_handle s k _ hhandle]
        refine (State.entry_modEntry _ _ _ ?_).trans (by rw [hsame])
        rw [hsame]
        exact hf
      rw [State.requestClaim_of_granted htaken hslot, ← Tree.windowFor_ofOrigin hposition origin h]
      exact ⟨hat, hothers, hlist, hentry, hout⟩
    · have hslot := Tree.eligibleSlot_of_takesNone hposition hspan hnone
      obtain ⟨before, after, hlist, hinsert, hbefore, hafter⟩ := insertClaim_split q x.calendar.claims
      rw [State.requestClaim_of_waiting htaken hslot, State.tree_modCalendar, if_pos rfl]
      exact ⟨before, after, hlist, hinsert, hbefore, hafter, rfl, rfl, rfl⟩
  case call =>
    refine State.requestClaim_of_notTaken (Bool.eq_false_iff.2 fun htaken => ?_)
    obtain ⟨hmay, hclaims, hwindows⟩ := (State.claimTaken_call_iff head).1 htaken
    obtain ⟨hactive, hdark, hrogue⟩ := State.mayCall_iff.1 hmay
    rcases hnot with h | h | h | ⟨p, hp, hnone⟩ | ⟨j, hj, hunsent, r, hr, hkind⟩
    · exact h hactive
    · exact Bool.noConfusion (hdark.symm.trans h)
    · exact Bool.noConfusion (hrogue.symm.trans h)
    · exact hclaims p hp hnone
    · exact hwindows j hj hunsent r hr hkind
  case next =>
    intro d may
    refine ⟨fun h => State.tryCall_of_idle ?_, fun head rest hrun hcall hstack hmay => ?_⟩
    · rcases h with h | h | h | h
      · exact Or.inl h
      · exact Or.inr (Or.inl h)
      · exact Or.inr (Or.inr (Or.inl h))
      · exact Or.inr (Or.inr (Or.inr (Bool.eq_false_iff.2 fun hm => h (State.mayCall_iff.1 hm))))
    · obtain ⟨⟨stage, hstage⟩, hasked⟩ := State.tryCall_outcome hrun hcall hstack (State.mayCall_iff.2 hmay)
      exact ⟨by rw [hstage], hasked⟩

end Sys2Proof.Machine
end

section
/-! PROOFS. A pass of arbitration, the withdrawal of a request and the cancellation of a window (R66 to R69). -/

namespace Sys2Proof.Machine

/-! ## One trial of a request (R66, R67) -/

section
variable {s u : State} {k : TreeId} {q p : Claim} {j : Slot} {h : Nat}

/-- A trial leaves the state, no slot being eligible, or grants the request to the slot it finds. -/
theorem State.tryClaim_cases (s : State) (k : TreeId) (q : Claim) :
    ((s.tree k).eligibleSlot q = none ∧ (s.tryClaim k q).getD s = s)
      ∨ ∃ j, (s.tree k).eligibleSlot q = some j ∧ (s.tryClaim k q).getD s = s.grantClaim k q j.cycle := by
  unfold State.tryClaim
  cases (s.tree k).eligibleSlot q with
  | none => exact Or.inl ⟨rfl, rfl⟩
  | some j => exact Or.inr ⟨j, rfl, rfl⟩

theorem Tree.mem_of_eligibleSlot {x : Tree} (hj : x.eligibleSlot q = some j) :
    j ∈ x.calendar.ring ∧ x.eligible q j = true := ⟨List.mem_of_find?_eq_some hj, List.find?_some hj⟩

theorem Tree.windowFor_of_apart {x y : Tree} (hxy : x.apartFromClaims = y.apartFromClaims) (q : Claim) :
    x.windowFor q = y.windowFor q := by
  have hsame : ∀ z : Tree, z.windowFor q = z.apartFromClaims.windowFor q := fun _ => rfl
  rw [hsame, hxy, ← hsame]

theorem Tree.n_of_apart {x y : Tree} (hxy : x.apartFromClaims = y.apartFromClaims) : x.n = y.n := by
  have hsame : ∀ z : Tree, z.n = z.apartFromClaims.n := fun _ => rfl
  rw [hsame, hxy, ← hsame]

/-- A slot that holds the window of a request, granted to it in the horizon (R66). -/
def Tree.holdsWindow (x y : Tree) (q : Claim) : Prop :=
  ∃ j ∈ y.calendar.ring, (j.state = .claimed ∨ j.state = .filled)
    ∧ 7 ≤ Cycle.distance x.n j.cycle ∧ Cycle.distance x.n j.cycle ≤ 14 ∧ x.windowFor q ∈ j.reservations

theorem Tree.holdsWindow.granted {x y z : Tree} {c : Cycle} {r : Reservation} (hz : z.calendar = y.calendar.granted p c r)
    (hold : x.holdsWindow y q) : x.holdsWindow z q := by
  obtain ⟨j, hj, hstate, hlow, hhigh, hwindow⟩ := hold
  obtain ⟨i, hi, hcycle, hkept, hstates⟩ := Calendar.exists_granted p c r hj
  exact ⟨i, by rw [hz]; exact hi, hstates hstate, by rw [hcycle]; exact hlow, by rw [hcycle]; exact hhigh,
    hkept _ hwindow⟩

/-- The slot found holds the window once the request is granted. -/
theorem State.holdsWindow_grantClaim (hj : (s.tree k).eligibleSlot q = some j) :
    (s.tree k).holdsWindow ((s.grantClaim k q j.cycle).tree k) q := by
  obtain ⟨hmem, he⟩ := Tree.mem_of_eligibleSlot hj
  obtain ⟨hlow, hhigh⟩ := Tree.horizon_of_eligible he
  refine ⟨j.withWindow ((s.tree k).windowFor q), ?_, ?_, hlow, hhigh, mem_insertReservation.2 (Or.inl rfl)⟩
  · rw [State.calendar_grantClaim]
    exact Calendar.granted_mem q _ hmem rfl
  · rcases Tree.state_of_eligible he with h | h
    · exact Or.inl (by rw [Slot.withWindow, h]; rfl)
    · exact Or.inr (by rw [Slot.withWindow, h]; rfl)

theorem Tree.eligible_of_apart {x y : Tree} (hxy : x.apartFromClaims = y.apartFromClaims) (q : Claim) (j : Slot) :
    x.eligible q j = y.eligible q j := by
  have hsame : ∀ z : Tree, z.eligible q j = z.apartFromClaims.eligible q j := fun _ => rfl
  rw [hsame, hxy, ← hsame]

/-- No slot becomes eligible by a grant: a slot changed is no longer OPEN or PLANNED. -/
theorem State.eligibleSlot_grantClaim_eq_none (c : Cycle) (p : Claim) (hnone : (s.tree k).eligibleSlot q = none) :
    ((s.grantClaim k p c).tree k).eligibleSlot q = none := by
  rw [Tree.eligibleSlot_eq_none_iff] at hnone ⊢
  intro j hj
  rw [Tree.eligible_of_apart (s.apartFromClaims_grantClaim k p c)]
  rw [State.calendar_grantClaim] at hj
  rcases Calendar.mem_granted hj with hmem | ⟨i, -, -, rfl⟩
  · exact hnone j hmem
  · refine Bool.eq_false_iff.2 fun he => ?_
    obtain ⟨hopen, hplanned⟩ := SlotState.withQuiet_ne i.state
    exact (Tree.state_of_eligible he).elim hopen hplanned

end

/-! ## The pass (R67) -/

section
variable {s : State} {k : TreeId} {q : Claim}

theorem State.arbitrate_induction {P : State → Prop} (s : State) (k : TreeId) (hs : P s)
    (hgrant : ∀ (u : State) (q : Claim) (j : Slot), P u → (u.tree k).eligibleSlot q = some j →
      P (u.grantClaim k q j.cycle)) : P (s.arbitrate k) := by
  unfold State.arbitrate
  generalize (s.tree k).calendar.claims = l
  induction l generalizing s with
  | nil => exact hs
  | cons q l ih =>
    refine ih ((s.tryClaim k q).getD s) ?_
    rcases s.tryClaim_cases k q with ⟨-, heq⟩ | ⟨j, hj, heq⟩
    · rw [heq]; exact hs
    · rw [heq]; exact hgrant s q j hs hj

theorem State.arbitrate_of_nil (h : (s.tree k).calendar.claims = []) : s.arbitrate k = s := by
  rw [State.arbitrate, h, List.foldl_nil]

theorem State.claims_arbitrate_sublist (s : State) (k : TreeId) :
    ((s.arbitrate k).tree k).calendar.claims.Sublist (s.tree k).calendar.claims := by
  refine State.arbitrate_induction (P := fun u => (u.tree k).calendar.claims.Sublist (s.tree k).calendar.claims) s k
    (List.Sublist.refl _) fun u q j hu hj => ?_
  rw [State.calendar_grantClaim]
  exact List.erase_sublist.trans hu

theorem State.outQueue_arbitrate (s : State) (k : TreeId) : ∃ more, (s.arbitrate k).outQueue = s.outQueue ++ more
    ∧ ∀ f ∈ more, ∃ c start length, f = .quiet k c start length := by
  refine State.arbitrate_induction (P := fun u => ∃ more, u.outQueue = s.outQueue ++ more
    ∧ ∀ f ∈ more, ∃ c start length, f = .quiet k c start length) s k ⟨[], (List.append_nil _).symm, nofun⟩ ?_
  rintro u q j ⟨more, hout, hmore⟩ hj
  obtain ⟨next, hnext, hquiet, -⟩ := u.outQueue_windowGranted k q j.cycle
  refine ⟨more ++ next, by rw [State.outQueue_grantClaim, hnext, hout, List.append_assoc], fun f hf => ?_⟩
  exact (List.mem_append.1 hf).elim (hmore f) (hquiet f)

/-- A request of the list before a pass waits on, or holds its window. -/
theorem State.holdsWindow_arbitrate (hq : q ∈ (s.tree k).calendar.claims) :
    q ∈ ((s.arbitrate k).tree k).calendar.claims ∨ (s.tree k).holdsWindow ((s.arbitrate k).tree k) q := by
  refine (State.arbitrate_induction (P := fun u => (u.tree k).apartFromClaims = (s.tree k).apartFromClaims
    ∧ (q ∈ (u.tree k).calendar.claims ∨ (s.tree k).holdsWindow (u.tree k) q)) s k ⟨rfl, Or.inl hq⟩ ?_).2
  rintro u p j ⟨hapart, hu⟩ hj
  have hcalendar := u.calendar_grantClaim k j.cycle p
  refine ⟨(u.apartFromClaims_grantClaim k p j.cycle).trans hapart, ?_⟩
  rcases hu with hwaits | hold
  · by_cases hpq : q = p
    · subst hpq
      have hold := State.holdsWindow_grantClaim hj
      rw [Tree.holdsWindow, Tree.n_of_apart hapart, Tree.windowFor_of_apart hapart] at hold
      exact Or.inr hold
    · rw [hcalendar]
      exact Or.inl ((List.mem_erase_of_ne hpq).2 hwaits)
  · exact Or.inr (hold.granted hcalendar)

/-- The trials of a list of requests: a request left waiting has been tried without success, or is still to be tried as
often as it waits. -/
theorem State.eligibleSlot_foldl_tryClaim (k : TreeId) : ∀ (l : List Claim) (s : State),
    (∀ q ∈ (s.tree k).calendar.claims, (s.tree k).eligibleSlot q = none ∨
      (s.tree k).calendar.claims.count q ≤ l.count q) →
    ∀ q ∈ ((l.foldl (fun s q => (s.tryClaim k q).getD s) s).tree k).calendar.claims,
      ((l.foldl (fun s q => (s.tryClaim k q).getD s) s).tree k).eligibleSlot q = none
  | [], s, hs, q, hq => (hs q hq).resolve_right fun hle =>
      absurd (List.count_pos_iff.2 hq) (Nat.not_lt.2 (hle.trans (Nat.le_of_eq List.count_nil)))
  | p :: l, s, hs, q, hq => by
    refine State.eligibleSlot_foldl_tryClaim k l ((s.tryClaim k p).getD s) (fun a ha => ?_) q hq
    rcases s.tryClaim_cases k p with ⟨hnone, heq⟩ | ⟨j, hj, heq⟩
    · rw [heq] at ha ⊢
      refine (hs a ha).elim Or.inl fun hle => ?_
      by_cases hpa : p = a
      · exact Or.inl (hpa ▸ hnone)
      · exact Or.inr (by rwa [List.count_cons_of_ne hpa] at hle)
    · rw [heq] at ha ⊢
      have hmem : a ∈ (s.tree k).calendar.claims := by
        rw [State.calendar_grantClaim] at ha
        exact List.mem_of_mem_erase ha
      refine (hs a hmem).elim (fun hnone => Or.inl (State.eligibleSlot_grantClaim_eq_none _ _ hnone)) fun hle => ?_
      rw [State.calendar_grantClaim]
      show _ ∨ ((s.tree k).calendar.claims.erase p).count a ≤ _
      by_cases hpa : p = a
      · subst hpa
        rw [List.count_cons_self] at hle
        exact Or.inr (by rw [List.count_erase_self]; omega)
      · rw [List.count_cons_of_ne hpa] at hle
        exact Or.inr (by rwa [List.count_erase_of_ne (Ne.symm hpa)])

theorem State.eligibleSlot_arbitrate (hq : q ∈ ((s.arbitrate k).tree k).calendar.claims) :
    ((s.arbitrate k).tree k).eligibleSlot q = none :=
  State.eligibleSlot_foldl_tryClaim k _ s (fun _ _ => Or.inr le_rfl) q hq

theorem State.entry_arbitrate_of_notClaimed {h : Nat} (hclaims : ∀ q ∈ (s.tree k).calendar.claims, q.handle? ≠ some h) :
    (s.arbitrate k).entry h = s.entry h := by
  unfold State.arbitrate
  generalize (s.tree k).calendar.claims = l at hclaims
  induction l generalizing s with
  | nil => rfl
  | cons q l ih =>
    rw [List.foldl_cons, ih fun p hp => hclaims p (List.mem_cons_of_mem _ hp)]
    rcases s.tryClaim_cases k q with ⟨-, heq⟩ | ⟨j, -, heq⟩
    · rw [heq]
    · rw [heq, State.entry_grantClaim_of_ne _ _ _ _ (hclaims q List.mem_cons_self)]

end

/-! ## Withdrawal and cancellation (R68, R69) -/

/-- The request of a handle withdrawn, and its measure cycle absent (R68). -/
def State.withdrawn (s : State) (k : TreeId) (h : Nat) : State :=
  (s.modCalendar k fun w => { w with claims := w.claims.filter fun q => q.handle? != some h }).modEntry h fun e =>
    { e with measureCycle := none }

/-- A slot without its quiet window (R69). -/
def Slot.withoutWindow (j : Slot) : Slot :=
  { j with state := j.state.withoutQuiet, reservations := j.reservations.filter fun r => !r.isQuiet }

section
variable {s : State} {k : TreeId} {h : Nat} {j : Slot} {c : Cycle}

theorem State.tree_withdrawn (s : State) (k : TreeId) (h : Nat) : (s.withdrawn k h).tree k
    = { s.tree k with calendar := { (s.tree k).calendar with
          claims := (s.tree k).calendar.claims.filter fun q => q.handle? != some h } } := by
  rw [State.withdrawn, State.tree_modEntry, State.tree_modCalendar, if_pos rfl]

theorem State.entry_withdrawn (hf : (s.entry h).state ≠ .free) :
    (s.withdrawn k h).entry h = { s.entry h with measureCycle := none } :=
  State.entry_modEntry_of_ne (s := s.modCalendar k _) rfl hf

theorem State.outQueue_withdrawn (s : State) (k : TreeId) (h : Nat) : (s.withdrawn k h).outQueue = s.outQueue := rfl

theorem State.dropClaim_of_noWindow (hnone : (s.tree k).calendar.unsentWindow .quietMeasure (some h) = none) :
    s.dropClaim k h = s.withdrawn k h := by
  have hnone' : ((s.withdrawn k h).tree k).calendar.unsentWindow .quietMeasure (some h) = none := by
    rw [State.tree_withdrawn]
    exact hnone
  show (match ((s.withdrawn k h).tree k).calendar.unsentWindow .quietMeasure (some h) with
    | some j => ((s.withdrawn k h).cancelWindow k j.cycle).arbitrate k
    | none => s.withdrawn k h) = _
  rw [hnone']

theorem State.dropClaim_of_window (hwindow : (s.tree k).calendar.unsentWindow .quietMeasure (some h) = some j) :
    s.dropClaim k h = ((s.withdrawn k h).cancelWindow k j.cycle).arbitrate k := by
  have hwindow' : ((s.withdrawn k h).tree k).calendar.unsentWindow .quietMeasure (some h) = some j := by
    rw [State.tree_withdrawn]
    exact hwindow
  show (match ((s.withdrawn k h).tree k).calendar.unsentWindow .quietMeasure (some h) with
    | some j => ((s.withdrawn k h).cancelWindow k j.cycle).arbitrate k
    | none => s.withdrawn k h) = _
  rw [hwindow']

theorem State.tree_cancelWindow (s : State) (k : TreeId) (c : Cycle) : (s.cancelWindow k c).tree k
    = { s.tree k with calendar := (s.tree k).calendar.modSlot c Slot.withoutWindow } := by
  rw [State.cancelWindow, State.tree_makeFrame, State.tree_modSlot, if_pos rfl]
  rfl

theorem State.entry_cancelWindow (s : State) (k : TreeId) (c : Cycle) (h : Nat) :
    (s.cancelWindow k c).entry h = s.entry h := by
  rw [State.cancelWindow, State.entry_makeFrame]
  rfl

theorem State.outQueue_cancelWindow (hroom : s.outQueue.length < 512) :
    (s.cancelWindow k c).outQueue = s.outQueue ++ [.quietCancel k c] := State.outQueue_makeFrame hroom

theorem Calendar.unsentWindow_eq_none {w : Calendar} {kind : ReservationKind} {o : Option Nat}
    (hnone : ∀ j ∈ w.ring, j.state.unsent = true → ∀ r ∈ j.reservations, ¬ (r.kind = kind ∧ r.handle = o)) :
    w.unsentWindow kind o = none := by
  refine List.find?_eq_none.2 fun j hj hholds => ?_
  obtain ⟨hunsent, hany⟩ := Bool.and_eq_true_iff.1 hholds
  obtain ⟨r, hr, hsame⟩ := List.any_eq_true.1 hany
  rw [Bool.and_eq_true, beq_iff_eq, beq_iff_eq] at hsame
  exact hnone j hj hunsent r hr hsame

/-- The one slot of the ring that holds the window is the one found. -/
theorem Calendar.unsentWindow_eq_some {w : Calendar} {kind : ReservationKind} {o : Option Nat} {r : Reservation}
    (hj : j ∈ w.ring) (hunsent : j.state.unsent = true) (hr : r ∈ j.reservations) (hkind : r.kind = kind)
    (hhandle : r.handle = o)
    (hothers : ∀ i ∈ w.ring, i ≠ j → ∀ p ∈ i.reservations, ¬ (p.kind = kind ∧ p.handle = o)) :
    w.unsentWindow kind o = some j := by
  cases hfind : w.unsentWindow kind o with
  | none =>
    refine absurd (List.find?_eq_none.1 hfind j hj) (not_not.2 ?_)
    rw [hunsent, Bool.true_and]
    exact List.any_eq_true.2 ⟨r, hr, by rw [hkind, hhandle, beq_self_eq_true, beq_self_eq_true]; rfl⟩
  | some i =>
    by_cases hij : i = j
    · rw [hij]
    · obtain ⟨-, hany⟩ := Bool.and_eq_true_iff.1 (List.find?_some
        (p := fun i : Slot => i.state.unsent && i.reservations.any fun r => r.kind == kind && r.handle == o) hfind)
      obtain ⟨p, hp, hsame⟩ := List.any_eq_true.1 hany
      rw [Bool.and_eq_true, beq_iff_eq, beq_iff_eq] at hsame
      exact absurd hsame (hothers i (List.mem_of_find?_eq_some hfind) hij p hp)

theorem Slot.withoutWindow_of_quiet (hstate : j.state = .claimed ∨ j.state = .filled) :
    j.withoutWindow = { j with
      state := if j.state = .claimed then .opened else .planned
      reservations := j.reservations.filter fun r => !r.isQuiet } := by
  rw [Slot.withoutWindow]
  rcases hstate with h | h <;> rw [h] <;> rfl

/-- After a withdrawal no request of the handle waits, so no pass of arbitration gives it a measure cycle again. -/
theorem State.withdrawn_claims (q : Claim) (hq : q ∈ ((s.withdrawn k h).tree k).calendar.claims) :
    q.handle? ≠ some h := by
  rw [State.tree_withdrawn] at hq
  simpa using (List.mem_filter.1 hq).2

theorem State.entry_dropClaim (hf : (s.entry h).state ≠ .free) :
    (s.dropClaim k h).entry h = { s.entry h with measureCycle := none } := by
  cases hwindow : (s.tree k).calendar.unsentWindow .quietMeasure (some h) with
  | none => rw [State.dropClaim_of_noWindow hwindow, State.entry_withdrawn hf]
  | some j =>
    have hclaims : ∀ q ∈ (((s.withdrawn k h).cancelWindow k j.cycle).tree k).calendar.claims, q.handle? ≠ some h := by
      rw [State.tree_cancelWindow]
      exact State.withdrawn_claims
    rw [State.dropClaim_of_window hwindow, State.entry_arbitrate_of_notClaimed hclaims, State.entry_cancelWindow,
      State.entry_withdrawn hf]

end

/-- Settles O45: what a pass of arbitration keeps, and the withdrawal and the cancellation of a claim. -/
theorem arbitrationWithdrawalAndCancellation : Obligations.ArbitrationWithdrawalAndCancellation := by
  refine ⟨fun k s => ⟨s.claims_arbitrate_sublist k, fun q hq hgone => (State.holdsWindow_arbitrate hq).resolve_left hgone,
    fun q hq => Tree.eligibleSlot_eq_none_iff.1 (State.eligibleSlot_arbitrate hq), s.outQueue_arbitrate k⟩,
    fun k h s hf => ?_⟩
  intro t w
  refine ⟨congrArg Entry.measureCycle (State.entry_dropClaim hf),
    fun j _ => ((ClaimsOnly.refl s).dropClaim (t := k) h).entries j, fun hnone => ?_,
    fun j r hat hstate hr hkind hhandle hothers => ?_⟩
  · have heq : t = s.withdrawn k h := State.dropClaim_of_noWindow (Calendar.unsentWindow_eq_none hnone)
    rw [heq, State.tree_withdrawn]
    exact ⟨rfl, rfl, s.outQueue_withdrawn k h⟩
  · have hunsent : j.state.unsent = true := by rcases hstate with h | h <;> rw [h] <;> rfl
    have hwindow := Calendar.unsentWindow_eq_some (Calendar.mem_of_slot? hat) hunsent hr hkind hhandle hothers
    have heq : t = ((s.withdrawn k h).cancelWindow k j.cycle).arbitrate k := State.dropClaim_of_window hwindow
    have htree := (s.withdrawn k h).tree_cancelWindow k j.cycle
    rw [State.tree_withdrawn] at htree
    refine ⟨fun hroom => ?_, fun hclaims => ?_⟩
    · obtain ⟨more, hmore, -⟩ := ((s.withdrawn k h).cancelWindow k j.cycle).outQueue_arbitrate k
      have hcancel := State.outQueue_cancelWindow (s := s.withdrawn k h) (k := k) (c := j.cycle) hroom
      exact ⟨more, by rw [heq, hmore, hcancel, s.outQueue_withdrawn k h, List.append_assoc]; rfl⟩
    · have hnil : (((s.withdrawn k h).cancelWindow k j.cycle).tree k).calendar.claims = [] := by
        rw [htree]
        exact List.filter_eq_nil_iff.2 fun q hq => by rw [hclaims q hq]; simp
      rw [heq, State.arbitrate_of_nil hnil, htree, ← Slot.withoutWindow_of_quiet hstate]
      exact Calendar.slot?_modSlot_of_some (f := Slot.withoutWindow) (fun _ => rfl) hat

end Sys2Proof.Machine
end

section
/-! PROOFS. The round of the discovery engine: its pauses, its resumption, its timer and the result of a CALL window (R45, R70,
R101 to R110). -/

namespace Sys2Proof.Machine

/-! ## What of its tree a round leaves alone -/

/-- The tree without what a round may change: the ring, the Claim List and the discovery engine (R65 to R70, R104). -/
def Tree.apartFromRound (x : Tree) : Tree :=
  { x with calendar := { x.calendar with ring := [], claims := [] }, discovery := Discovery.clear }

theorem Tree.apartFromRound_apartFromClaims (x : Tree) : x.apartFromClaims.apartFromRound = x.apartFromRound := rfl

section
variable {s u : State} {k : TreeId}

theorem apartFromRound_of_claims (h : (u.tree k).apartFromClaims = (s.tree k).apartFromClaims) :
    (u.tree k).apartFromRound = (s.tree k).apartFromRound := by
  rw [← Tree.apartFromRound_apartFromClaims, h, Tree.apartFromRound_apartFromClaims]

variable (s k)

@[simp] theorem State.apartFromRound_modDiscovery (f : Discovery → Discovery) :
    ((s.modDiscovery k f).tree k).apartFromRound = (s.tree k).apartFromRound := by
  rw [State.tree_modDiscovery, if_pos rfl]
  rfl

@[simp] theorem State.apartFromRound_modCalendar_claims (f : List Claim → List Claim) :
    ((s.modCalendar k fun w => { w with claims := f w.claims }).tree k).apartFromRound = (s.tree k).apartFromRound := by
  rw [State.tree_modCalendar, if_pos rfl]
  rfl

@[simp] theorem State.apartFromRound_tryCall : ((s.tryCall k).tree k).apartFromRound = (s.tree k).apartFromRound := by
  unfold State.tryCall
  dsimp only
  split
  · split
    · rw [apartFromRound_of_claims (State.apartFromClaims_requestClaim _ k _), State.apartFromRound_modDiscovery]
    · rfl
  · rfl

@[simp] theorem State.apartFromRound_pushBack (head : MarkHead) :
    ((s.pushBack k head).tree k).apartFromRound = (s.tree k).apartFromRound := s.apartFromRound_modDiscovery k _

@[simp] theorem State.apartFromRound_pauseCall : ((s.pauseCall k).tree k).apartFromRound = (s.tree k).apartFromRound := by
  unfold State.pauseCall
  split
  · rfl
  · split
    · rw [State.apartFromRound_pushBack, State.apartFromRound_modCalendar_claims]
    · rw [apartFromRound_of_claims (State.apartFromClaims_arbitrate _ k), State.apartFromRound_pushBack,
        apartFromRound_of_claims (State.apartFromClaims_cancelWindow _ k _)]
    · rfl

end

theorem Tree.counters_of_round {x y : Tree} (h : x.apartFromRound = y.apartFromRound) : x.counters = y.counters := by
  have hsame : ∀ z : Tree, z.counters = z.apartFromRound.counters := fun _ => rfl
  rw [hsame, h, ← hsame]

theorem Tree.state_of_round {x y : Tree} (h : x.apartFromRound = y.apartFromRound) : x.state = y.state := by
  have hsame : ∀ z : Tree, z.state = z.apartFromRound.state := fun _ => rfl
  rw [hsame, h, ← hsame]

theorem Tree.rogue_of_round {x y : Tree} (h : x.apartFromRound = y.apartFromRound) : x.rogue = y.rogue := by
  have hsame : ∀ z : Tree, z.rogue = z.apartFromRound.rogue := fun _ => rfl
  rw [hsame, h, ← hsame]

theorem Tree.upkeep_of_round {x y : Tree} (h : x.apartFromRound = y.apartFromRound) : x.upkeep = y.upkeep := by
  have hsame : ∀ z : Tree, z.upkeep = z.apartFromRound.upkeep := fun _ => rfl
  rw [hsame, h, ← hsame]

theorem Tree.indications_of_round {x y : Tree} (h : x.apartFromRound = y.apartFromRound) :
    x.indications = y.indications := by
  have hsame : ∀ z : Tree, z.indications = z.apartFromRound.indications := fun _ => rfl
  rw [hsame, h, ← hsame]

theorem Tree.mayCall_of_round {x y : Tree} (h : x.apartFromRound = y.apartFromRound) : x.mayCall = y.mayCall := by
  have hsame : ∀ z : Tree, z.mayCall = z.apartFromRound.mayCall := fun _ => rfl
  rw [hsame, h, ← hsame]

/-! ## The pauses (R70, R109) -/

section
variable {s u v w : State} {k : TreeId} {r : CallRecord} {c : Cycle}

theorem State.pauseCall_of_noCall (h : (s.tree k).discovery.call = none) : s.pauseCall k = s := by
  rw [State.pauseCall, h]

theorem State.pauseCall_of_onAir (h : (s.tree k).discovery.call = some r) (hstage : r.stage = .onAir c) :
    s.pauseCall k = s := by
  rw [State.pauseCall, h]
  dsimp only
  rw [hstage]

theorem State.pauseCall_of_waiting (h : (s.tree k).discovery.call = some r) (hstage : r.stage = .waiting) :
    s.pauseCall k = (s.modCalendar k fun w =>
      { w with claims := w.claims.filter fun q => q.handle?.isSome }).pushBack k r.head := by
  rw [State.pauseCall, h]
  dsimp only
  rw [hstage]

theorem State.pauseCall_of_granted (h : (s.tree k).discovery.call = some r) (hstage : r.stage = .granted c) :
    s.pauseCall k = ((s.cancelWindow k c).pushBack k r.head).arbitrate k := by
  rw [State.pauseCall, h]
  dsimp only
  rw [hstage]

theorem State.tree_pushBack (s : State) (k : TreeId) (head : MarkHead) : (s.pushBack k head).tree k
    = { s.tree k with discovery := { (s.tree k).discovery with
          call := none, stack := head :: (s.tree k).discovery.stack } } := by
  rw [State.pushBack, State.tree_modDiscovery, if_pos rfl]

/-- With no call record, arbitration leaves the discovery engine as it is. -/
theorem State.discovery_arbitrate_of_noCall (h : (s.tree k).discovery.call = none) :
    ((s.arbitrate k).tree k).discovery = (s.tree k).discovery := by
  refine State.arbitrate_induction (P := fun u => (u.tree k).discovery = (s.tree k).discovery) s k rfl
    fun u q j hu _ => ?_
  cases hq : q.handle? with
  | some i => rw [State.grantClaim_of_handle u k _ hq, State.tree_modEntry, State.tree_windowGranted, hu]
  | none =>
    rw [State.grantClaim_of_call u k _ hq, State.tree_modDiscovery, if_pos rfl, State.tree_windowGranted, hu]
    dsimp only
    rw [h, Option.map_none, ← h]

/-- The CALL of a tree is set aside (R68 to R70, R109). -/
theorem State.callPaused_pauseCall (s : State) (k : TreeId) : callPaused k s (s.pauseCall k) := by
  refine ⟨fun h => ?_, fun r h hstage => ?_, fun r c slot h hstage hat hstate => ?_⟩
  · have hsame : s.pauseCall k = s := by
      rcases h with h | ⟨r, c, h, hstage⟩
      · exact State.pauseCall_of_noCall h
      · exact State.pauseCall_of_onAir h hstage
    rw [hsame]
    exact ⟨rfl, rfl, rfl⟩
  · rw [State.pauseCall_of_waiting h hstage, State.tree_pushBack, State.tree_modCalendar, if_pos rfl]
    exact ⟨rfl, rfl, rfl⟩
  · let u := (s.cancelWindow k c).pushBack k r.head
    have htree : u.tree k = { s.tree k with
        calendar := (s.tree k).calendar.modSlot c Slot.withoutWindow
        discovery := { (s.tree k).discovery with call := none, stack := r.head :: (s.tree k).discovery.stack } } := by
      rw [State.tree_pushBack, State.tree_cancelWindow]
    have hdiscovery : ((u.arbitrate k).tree k).discovery = (u.tree k).discovery :=
      State.discovery_arbitrate_of_noCall (by rw [htree])
    rw [State.pauseCall_of_granted h hstage, hdiscovery, htree]
    refine ⟨rfl, rfl, rfl, fun hroom => ?_, fun hclaims => ?_⟩
    · obtain ⟨more, hmore, -⟩ := u.outQueue_arbitrate k
      have hcancel : u.outQueue = s.outQueue ++ [.quietCancel k c] := State.outQueue_cancelWindow hroom
      exact ⟨more, by rw [hmore, hcancel, List.append_assoc]; rfl⟩
    · rw [State.arbitrate_of_nil (by rw [htree]; exact hclaims), htree, ← Slot.withoutWindow_of_quiet hstate]
      exact Calendar.slot?_modSlot_of_some (f := Slot.withoutWindow) (fun _ => rfl) hat

theorem callPaused.congr (hp : callPaused k s u) (hdiscovery : (v.tree k).discovery = (s.tree k).discovery)
    (hcalendar : (v.tree k).calendar = (s.tree k).calendar) (hout : v.outQueue = s.outQueue)
    (hdiscovery' : (w.tree k).discovery = (u.tree k).discovery) (hcalendar' : (w.tree k).calendar = (u.tree k).calendar)
    (hout' : w.outQueue = u.outQueue) : callPaused k v w := by
  unfold callPaused at hp ⊢
  dsimp only at hp ⊢
  rw [hdiscovery, hcalendar, hout, hdiscovery', hcalendar', hout']
  exact hp

end

/-! ## HOLD and RESUME (R45, R109, R110) -/

section
variable {s u : State} {k : TreeId}

@[simp] theorem State.tree_withRunning (u : State) (r : Option Running) (k : TreeId) :
    ({ u with running := r } : State).tree k = u.tree k := rfl

theorem State.outQueue_withRunning (u : State) (r : Option Running) :
    ({ u with running := r } : State).outQueue = u.outQueue := rfl

/-- The tree with its state changed (R45). -/
def State.withTreeState (s : State) (k : TreeId) (state : TreeState) : State :=
  s.modTree k fun x => { x with state := state }

theorem State.tree_withTreeState (s : State) (k : TreeId) (state : TreeState) :
    (s.withTreeState k state).tree k = { s.tree k with state := state } := by
  rw [State.withTreeState, State.tree_modTree, if_pos rfl]

variable {a : Quad Word}

theorem judgeHold_of_active (hk : treeOfWord a.q0 = some k) (h : (s.tree k).state = .active) :
    judgeHold a s = doneWith ((s.withTreeState k .held).pauseCall k) Quad.zero := by
  rw [judgeHold, forTree_of_some _ hk, if_pos h]
  rfl

theorem judgeHold_of_notActive (hk : treeOfWord a.q0 = some k) (h : (s.tree k).state ≠ .active) :
    judgeHold a s = refusedWith s .wrongTreeState := by
  rw [judgeHold, forTree_of_some _ hk, if_neg h]

theorem judgeResume_of_held (hk : treeOfWord a.q0 = some k) (h : (s.tree k).state = .held) :
    judgeResume a s = doneWith ((s.withTreeState k .active).tryCall k) Quad.zero := by
  rw [judgeResume, forTree_of_some _ hk, if_pos h]
  rfl

theorem judgeResume_of_notHeld (hk : treeOfWord a.q0 = some k) (h : (s.tree k).state ≠ .held) :
    judgeResume a s = refusedWith s .wrongTreeState := by
  rw [judgeResume, forTree_of_some _ hk, if_neg h]

end

/-- Settles O18: HOLD with the pause of the CALL in hand, and RESUME with the next CALL of a paused round. -/
theorem holdAndResumeOutcome : Obligations.HoldAndResumeOutcome := by
  intro tree s hfree
  let a := oneArg s tree
  let v := s.written 4 a
  let y := s.written 5 a
  have hhold : exec (.hold tree) s = .next (v.goWith judgeHold) := rfl
  have hresume : exec (.resume tree) s = .next (y.goWith judgeResume) := rfl
  rw [hhold, hresume]
  refine ⟨fun h => ⟨?_, ?_⟩, fun k hk => ⟨fun h => ?_, fun h hcall => ?_, fun h => ?_, fun h => ?_, fun h hrun => ?_,
    fun head rest h hrun hcall hstack hdark hrogue => ?_⟩⟩
  · rw [State.goWith_refused hfree (forTree_of_lt _ h)]
  · rw [State.goWith_refused hfree (forTree_of_lt _ h)]
  · rw [State.goWith_refused hfree (judgeHold_of_notActive (a := a) (s := v) hk h)]
  · have hpause : (v.withTreeState k .held).pauseCall k = v.withTreeState k .held := by
      have htree := v.tree_withTreeState k .held
      rcases hcall with hcall | ⟨r, c, hcall, hstage⟩
      · exact State.pauseCall_of_noCall (by rw [htree]; exact hcall)
      · exact State.pauseCall_of_onAir (by rw [htree]; exact hcall) hstage
    have hdone := judgeHold_of_active (a := a) (s := v) hk h
    rw [hpause] at hdone
    rw [State.goWith_done (u := s.setTree k { s.tree k with state := .held }) hfree hdone]
  · have hdone := judgeHold_of_active (a := a) (s := v) hk h
    have htree := v.tree_withTreeState k .held
    have hstate := Tree.state_of_round ((v.withTreeState k .held).apartFromRound_pauseCall k)
    have hpaused := (v.withTreeState k .held).callPaused_pauseCall k
    rw [State.goWith_written hfree hdone]
    refine ⟨_, rfl, by rw [State.tree_withRunning, hstate, htree], ?_⟩
    exact hpaused.congr (by rw [htree]; rfl) (by rw [htree]; rfl) rfl (by rw [State.tree_withRunning])
      (by rw [State.tree_withRunning]) (State.outQueue_withRunning _ _)
  · rw [State.goWith_refused hfree (judgeResume_of_notHeld (a := a) (s := y) hk h)]
  · have hdone := judgeResume_of_held (a := a) (s := y) hk h
    have htree := y.tree_withTreeState k .active
    rw [State.tryCall_of_idle (Or.inl (by rw [htree]; exact hrun))] at hdone
    rw [State.goWith_done (u := s.setTree k { s.tree k with state := .active }) hfree hdone]
  · have hdone := judgeResume_of_held (a := a) (s := y) hk h
    have htree := y.tree_withTreeState k .active
    have hmay : ((y.withTreeState k .active).tree k).mayCall = true := by
      rw [htree]
      exact State.mayCall_iff.2 ⟨rfl, hdark, hrogue⟩
    obtain ⟨⟨stage, hstage⟩, hasked⟩ := State.tryCall_outcome (s := y.withTreeState k .active) (head := head) (rest := rest)
      (by rw [htree]; exact hrun) (by rw [htree]; exact hcall) (by rw [htree]; exact hstack) hmay
    have hstate := Tree.state_of_round ((y.withTreeState k .active).apartFromRound_tryCall k)
    rw [State.goWith_written hfree hdone]
    refine ⟨_, { head := head, stage := stage, heldIgnored := false }, rfl, ?_⟩
    rw [State.tree_withRunning, hstate, hstage, htree]
    refine ⟨rfl, rfl, rfl, rfl, ?_⟩
    exact hasked.congr (by rw [htree]; rfl) (by rw [htree]; rfl) (by rw [htree]; rfl) rfl (by rw [State.tree_withRunning])
      (by rw [State.tree_withRunning]) (State.outQueue_withRunning _ _)

/-! ## The discovery timer (R101, R102, R104 to R106) -/

section
variable {s : State} {k : TreeId}

/-- The expiry of the timer taken up (log 6). -/
def State.expiryTaken (s : State) (k : TreeId) : State := s.modDiscovery k fun d => { d with expiryDue := false }

theorem State.tree_expiryTaken (s : State) (k : TreeId) : (s.expiryTaken k).tree k
    = { s.tree k with discovery := { (s.tree k).discovery with expiryDue := false } } := by
  rw [State.expiryTaken, State.tree_modDiscovery, if_pos rfl]

theorem exec_discoveryTimerExpiry_of_due (h : (s.tree k).discovery.expiryDue = true) :
    exec (.discoveryTimerExpiry k) s = .next ((s.expiryTaken k).judgeExpiry k) := by
  show execDiscoveryTimerExpiry k s = _
  rw [execDiscoveryTimerExpiry, State.takeTimerExpiry, if_pos h]
  rfl

theorem State.judgeExpiry_of_notArmed (h : (s.tree k).discovery.armed = false) :
    s.judgeExpiry k = s.modDiscovery k fun d => { d with armed := true } := by
  rw [State.judgeExpiry, h]
  rfl

theorem State.judgeExpiry_of_ignored (harmed : (s.tree k).discovery.armed = true)
    (h : (s.tree k).mayCall = false ∨ (s.tree k).discovery.running = true) :
    s.judgeExpiry k = s.count k .expiriesIgnored := by
  rw [State.judgeExpiry, harmed]
  refine (if_neg (by decide)).trans (if_pos ?_)
  rcases h with h | h <;> rw [h]
  · rfl
  · rw [Bool.or_true]

/-- The round started: it runs, with a CALL for every mark on top of the stack (R102, R105). -/
def State.roundStarted (s : State) (k : TreeId) : State :=
  s.modDiscovery k fun d => { d with running := true, stack := { bits := 0, value := 0 } :: d.stack }

theorem State.judgeExpiry_of_started (harmed : (s.tree k).discovery.armed = true) (hmay : (s.tree k).mayCall = true)
    (hrun : (s.tree k).discovery.running = false) : s.judgeExpiry k = (s.roundStarted k).tryCall k := by
  rw [State.judgeExpiry, harmed, hmay, hrun]
  rfl

end

/-- Settles O51: the three outcomes of an expiry of the discovery timer. -/
theorem discoveryExpiryOutcome : Obligations.DiscoveryExpiryOutcome := by
  intro k s hdue
  have htree := s.tree_expiryTaken k
  rw [exec_discoveryTimerExpiry_of_due hdue]
  refine ⟨fun harmed => ?_, fun harmed h => ?_, fun harmed hmay hrun hcall hstack => ?_⟩
  · rw [State.judgeExpiry_of_notArmed (by rw [htree]; exact harmed), State.expiryTaken,
      State.modDiscovery_modDiscovery]
    rfl
  · rw [State.judgeExpiry_of_ignored (by rw [htree]; exact harmed) (by rw [htree]; exact h)]
    refine ⟨_, rfl, ?_⟩
    rw [State.count, State.tree_countBy, if_pos rfl, htree]
    exact ⟨rfl, rfl, rfl⟩
  · have hstarted : ((s.expiryTaken k).roundStarted k).tree k = { s.tree k with discovery := { (s.tree k).discovery with
        expiryDue := false, running := true, stack := [{ bits := 0, value := 0 }] } } := by
      rw [State.roundStarted, State.tree_modDiscovery, if_pos rfl, htree]
      dsimp only
      rw [hstack]
    obtain ⟨⟨stage, hstage⟩, hasked⟩ := State.tryCall_outcome (s := (s.expiryTaken k).roundStarted k)
      (head := { bits := 0, value := 0 }) (rest := []) (by rw [hstarted]) (by rw [hstarted]; exact hcall)
      (by rw [hstarted]) (by rw [hstarted]; exact hmay)
    rw [State.judgeExpiry_of_started (by rw [htree]; exact harmed) (by rw [htree]; exact hmay)
      (by rw [htree]; exact hrun)]
    refine ⟨_, { head := { bits := 0, value := 0 }, stage := stage, heldIgnored := false }, rfl, ?_⟩
    rw [hstage, hstarted]
    refine ⟨rfl, rfl, rfl, rfl, rfl, ?_⟩
    exact hasked.congr (by rw [hstarted]) (by rw [hstarted]) (by rw [hstarted]) rfl rfl rfl rfl

end Sys2Proof.Machine
end

section
/-! PROOFS. The result of a CALL window on air: asked again, split, or finished, and the round going on or ending (R104,
R106 to R108). -/

namespace Sys2Proof.Machine

section
variable {s : State} {k : TreeId} {c : Cycle} {bursts : List Burst} {r : CallRecord}

theorem collided_iff (bursts : List Burst) :
    collided bursts = true ↔ ∃ b ∈ bursts, b.result = .badCheck ∨ b.result = .edge := by
  rw [collided, List.any_eq_true]
  refine exists_congr fun b => and_congr_right fun _ => ?_
  rw [Bool.or_eq_true, beq_iff_eq, beq_iff_eq]

/-! ## The three results (R107, R108) -/

theorem State.callResult_of_unjudged (hcall : (s.tree k).discovery.call = some r) (hstage : r.stage = .onAir c)
    (h : (s.tree k).state = .held ∨ r.heldIgnored = true) :
    s.callResult k c bursts = (s.pushBack k r.head).tryCall k := by
  rw [State.callResult, hcall]
  refine (if_pos hstage).trans (if_pos ?_)
  rw [Bool.or_eq_true, beq_iff_eq]
  exact h

theorem State.callResult_of_judged (hcall : (s.tree k).discovery.call = some r) (hstage : r.stage = .onAir c)
    (hheld : (s.tree k).state ≠ .held) (hignored : r.heldIgnored = false) :
    s.callResult k c bursts = (if collided bursts then s.splitHead k r.head c else s).endCall k := by
  rw [State.callResult, hcall]
  refine (if_pos hstage).trans (if_neg ?_)
  rw [Bool.or_eq_true, beq_iff_eq, hignored]
  exact fun h => h.elim hheld nofun

theorem State.callResult_of_collided (hcall : (s.tree k).discovery.call = some r) (hstage : r.stage = .onAir c)
    (hheld : (s.tree k).state ≠ .held) (hignored : r.heldIgnored = false)
    (hcollided : ∃ b ∈ bursts, b.result = .badCheck ∨ b.result = .edge) :
    s.callResult k c bursts = (s.splitHead k r.head c).endCall k := by
  rw [State.callResult_of_judged hcall hstage hheld hignored, if_pos ((collided_iff bursts).2 hcollided)]

theorem State.callResult_of_clear (hcall : (s.tree k).discovery.call = some r) (hstage : r.stage = .onAir c)
    (hheld : (s.tree k).state ≠ .held) (hignored : r.heldIgnored = false)
    (hclear : ¬ ∃ b ∈ bursts, b.result = .badCheck ∨ b.result = .edge) :
    s.callResult k c bursts = s.endCall k := by
  rw [State.callResult_of_judged hcall hstage hheld hignored, if_neg fun h => hclear ((collided_iff bursts).1 h)]

theorem State.splitHead_of_short {head : MarkHead} (h : head.bits < 16) :
    s.splitHead k head c = (s.count k .collisionWindows).modDiscovery k fun d =>
      { d with stack := head.split ++ d.stack } := if_pos h

theorem State.splitHead_of_long {head : MarkHead} (h : 16 ≤ head.bits) :
    s.splitHead k head c
      = (s.count k .collisionWindows).writeEvent .splitDepth k 0 [halves head.value c.toNat] :=
  if_neg (Nat.not_lt.2 h)

/-! ## The end of a call (R107) -/

/-- The call record absent, the round running on while the Split Stack holds a head (R107). -/
def State.callEnded (s : State) (k : TreeId) : State :=
  s.modDiscovery k fun d => { d with call := none, running := d.running && !d.stack.isEmpty }

theorem State.tree_callEnded (s : State) (k : TreeId) : (s.callEnded k).tree k
    = { s.tree k with discovery := { (s.tree k).discovery with
          call := none
          running := (s.tree k).discovery.running && !(s.tree k).discovery.stack.isEmpty } } := by
  rw [State.callEnded, State.tree_modDiscovery, if_pos rfl]

theorem State.endCall_eq (s : State) (k : TreeId) : s.endCall k = (s.callEnded k).tryCall k := rfl

theorem State.apartFromRound_endCall (s : State) (k : TreeId) :
    ((s.endCall k).tree k).apartFromRound = (s.tree k).apartFromRound := by
  rw [State.endCall_eq, State.apartFromRound_tryCall, State.callEnded, State.apartFromRound_modDiscovery]

theorem State.eventQueue_tryCall (s : State) (k : TreeId) : (s.tryCall k).eventQueue = s.eventQueue :=
  ((ClaimsOnly.refl s).tryCall (t := k)).eventQueue

theorem State.eventQueue_endCall (s : State) (k : TreeId) : (s.endCall k).eventQueue = s.eventQueue :=
  State.eventQueue_tryCall _ k

theorem State.endCall_of_empty (hstack : (s.tree k).discovery.stack = []) :
    ((s.endCall k).tree k).discovery = { (s.tree k).discovery with call := none, running := false } := by
  have htree := s.tree_callEnded k
  rw [hstack, List.isEmpty_nil, Bool.not_true, Bool.and_false] at htree
  rw [State.endCall_eq, State.tryCall_of_idle (Or.inl (by rw [htree])), htree]

theorem State.callEnded_of_more {top : MarkHead} {rest : List MarkHead} (hstack : (s.tree k).discovery.stack = top :: rest) :
    (s.callEnded k).tree k = { s.tree k with discovery := { (s.tree k).discovery with call := none } } := by
  rw [State.tree_callEnded, hstack, List.isEmpty_cons, Bool.not_false, Bool.and_true]

theorem State.endCall_of_paused {top : MarkHead} {rest : List MarkHead}
    (hstack : (s.tree k).discovery.stack = top :: rest) (hmay : (s.tree k).mayCall = false) :
    ((s.endCall k).tree k).discovery = { (s.tree k).discovery with call := none } := by
  have htree := State.callEnded_of_more hstack
  rw [State.endCall_eq, State.tryCall_of_idle (Or.inr (Or.inr (Or.inr (by rw [htree]; exact hmay)))), htree]

/-- The round goes on with the top of the stack (R104, R107). -/
theorem State.endCall_of_more {top : MarkHead} {rest : List MarkHead} (hrun : (s.tree k).discovery.running = true)
    (hstack : (s.tree k).discovery.stack = top :: rest) (hmay : (s.tree k).mayCall = true) :
    (∃ stage, ((s.endCall k).tree k).discovery = { (s.tree k).discovery with
        call := some { head := top, stage := stage, heldIgnored := false }, stack := rest })
      ∧ callAskedFor k top s (s.endCall k) := by
  have htree := State.callEnded_of_more hstack
  obtain ⟨⟨stage, hstage⟩, hasked⟩ := State.tryCall_outcome (s := s.callEnded k) (head := top) (rest := rest)
    (by rw [htree]; exact hrun) (by rw [htree]) (by rw [htree]; exact hstack) (by rw [htree]; exact hmay)
  refine ⟨⟨stage, by rw [State.endCall_eq, hstage, htree]⟩, ?_⟩
  exact hasked.congr (by rw [htree]) (by rw [htree]) (by rw [htree]) rfl rfl rfl rfl

/-! ## A window that is not judged (R108) -/

theorem State.askedAgain_of_paused {head : MarkHead} (hmay : (s.tree k).mayCall = false) :
    (s.pushBack k head).tryCall k = s.pushBack k head := by
  have htree := s.tree_pushBack k head
  exact State.tryCall_of_idle (Or.inr (Or.inr (Or.inr (by rw [htree]; exact hmay))))

theorem State.askedAgain_of_may {head : MarkHead} (hrun : (s.tree k).discovery.running = true)
    (hmay : (s.tree k).mayCall = true) :
    (∃ stage, (((s.pushBack k head).tryCall k).tree k).discovery = { (s.tree k).discovery with
        call := some { head := head, stage := stage, heldIgnored := false } })
      ∧ callAskedFor k head s ((s.pushBack k head).tryCall k) := by
  have htree := s.tree_pushBack k head
  obtain ⟨⟨stage, hstage⟩, hasked⟩ := State.tryCall_outcome (s := s.pushBack k head) (head := head)
    (rest := (s.tree k).discovery.stack) (by rw [htree]; exact hrun) (by rw [htree]) (by rw [htree])
    (by rw [htree]; exact hmay)
  exact ⟨⟨stage, by rw [hstage, htree]⟩,
    hasked.congr (by rw [htree]) (by rw [htree]) (by rw [htree]) rfl rfl rfl rfl⟩

/-! ## A window that is judged (R107) -/

/-- The window that collided, counted and its head split. -/
theorem State.tree_splitHead_of_short {head : MarkHead} (h : head.bits < 16) : (s.splitHead k head c).tree k
    = { s.tree k with
        counters := (s.tree k).counters.put .collisionWindows ((s.tree k).counters.get .collisionWindows + 1)
        discovery := { (s.tree k).discovery with stack := head.split ++ (s.tree k).discovery.stack } } := by
  rw [State.splitHead_of_short h, State.tree_modDiscovery, if_pos rfl, State.tree_count, if_pos rfl]

theorem State.tree_splitHead_of_long {head : MarkHead} (h : 16 ≤ head.bits) : (s.splitHead k head c).tree k
    = { s.tree k with
        counters := (s.tree k).counters.put .collisionWindows ((s.tree k).counters.get .collisionWindows + 1) } := by
  rw [State.splitHead_of_long h, State.tree_writeEvent, State.tree_count, if_pos rfl]

theorem State.outQueue_splitHead (s : State) (k : TreeId) (head : MarkHead) (c : Cycle) :
    (s.splitHead k head c).outQueue = s.outQueue := by
  by_cases h : head.bits < 16
  · rw [State.splitHead_of_short h, State.outQueue_modDiscovery]
    rfl
  · rw [State.splitHead_of_long (Nat.not_lt.1 h), State.outQueue_writeEvent]
    rfl

/-- The counted collisions of a judged window, none of them its end's. -/
theorem State.collisions_endCall (u : State) (k : TreeId) :
    ((u.endCall k).tree k).counters.collisionWindows = (u.tree k).counters.collisionWindows := by
  rw [Tree.counters_of_round (u.apartFromRound_endCall k)]

end

/-- A finished head: the stack, the counters and the configuration of the state whose call ends are those of s. -/
theorem State.endCall_finished {s u : State} {k : TreeId}
    (hdiscovery : (u.tree k).discovery = (s.tree k).discovery) (hmay : (u.tree k).mayCall = (s.tree k).mayCall)
    (hconfig : (u.tree k).config = (s.tree k).config) (hcalendar : (u.tree k).calendar = (s.tree k).calendar)
    (hn : (u.tree k).n = (s.tree k).n) (hout : u.outQueue = s.outQueue) (hrun : (s.tree k).discovery.running = true) :
    ((s.tree k).discovery.stack = [] → ((u.endCall k).tree k).discovery.call = none
        ∧ ((u.endCall k).tree k).discovery.stack = [] ∧ ((u.endCall k).tree k).discovery.running = false)
      ∧ (∀ top rest, (s.tree k).discovery.stack = top :: rest → (s.tree k).mayCall = true →
        ((u.endCall k).tree k).discovery.call.map CallRecord.head = some top ∧ callAskedFor k top s (u.endCall k)
          ∧ ((u.endCall k).tree k).discovery.stack = rest ∧ ((u.endCall k).tree k).discovery.running = true)
      ∧ (∀ top rest, (s.tree k).discovery.stack = top :: rest → (s.tree k).mayCall = false →
        ((u.endCall k).tree k).discovery.call = none
          ∧ ((u.endCall k).tree k).discovery.stack = (s.tree k).discovery.stack
          ∧ ((u.endCall k).tree k).discovery.running = true) := by
  rw [← hdiscovery] at hrun ⊢
  rw [← hmay]
  refine ⟨fun hstack => ?_, fun top rest hstack hmay => ?_, fun top rest hstack hmay => ?_⟩
  · rw [State.endCall_of_empty hstack]
    exact ⟨rfl, hstack, rfl⟩
  · obtain ⟨⟨stage, hstage⟩, hasked⟩ := State.endCall_of_more hrun hstack hmay
    rw [hstage]
    exact ⟨rfl, hasked.congr hconfig.symm hcalendar.symm hn.symm hout.symm rfl rfl rfl, rfl, hrun⟩
  · rw [State.endCall_of_paused hstack hmay]
    exact ⟨rfl, rfl, hrun⟩

/-- Settles O46: a window asked again, a collision split or too deep, and a head finished. -/
theorem callWindowResultIsJudged : Obligations.CallWindowResultIsJudged := by
  intro k c bursts r s hcall hstage hrun d t e zero one collision count
  refine ⟨fun h hmay => ?paused, fun hignored hmay => ?again, fun hheld hignored =>
    ⟨fun hcollided hshort => ?split, fun hcollided hlong => ?deep, fun hclear => ?clear, fun hfinished => ?finished⟩⟩
  case paused =>
    have ht : t = s.pushBack k r.head :=
      (State.callResult_of_unjudged hcall hstage h).trans (State.askedAgain_of_paused hmay)
    dsimp only [e, count]
    rw [ht, State.tree_pushBack]
    exact ⟨rfl, rfl, hrun, rfl, rfl⟩
  case again =>
    have ht : t = (s.pushBack k r.head).tryCall k := State.callResult_of_unjudged hcall hstage (Or.inr hignored)
    obtain ⟨⟨stage, hdiscovery⟩, hasked⟩ := State.askedAgain_of_may (head := r.head) hrun hmay
    have hcounters := Tree.counters_of_round
      (((s.pushBack k r.head).apartFromRound_tryCall k).trans (s.apartFromRound_pushBack k r.head))
    dsimp only [e, count]
    rw [ht, hdiscovery, hcounters]
    exact ⟨rfl, hasked, rfl, hrun, rfl, State.eventQueue_tryCall _ _⟩
  case split =>
    have ht : t = (s.splitHead k r.head c).endCall k := State.callResult_of_collided hcall hstage hheld hignored hcollided
    have htree := State.tree_splitHead_of_short (s := s) (k := k) (c := c) hshort
    have hstack : ((s.splitHead k r.head c).tree k).discovery.stack = zero :: one :: d.stack := by rw [htree]; rfl
    have hrun' : ((s.splitHead k r.head c).tree k).discovery.running = true := by rw [htree]; exact hrun
    have hsame : ((s.splitHead k r.head c).tree k).mayCall = (s.tree k).mayCall := by rw [htree]; rfl
    have hcount : count = (s.tree k).counters.collisionWindows + 1 := by
      simp only [count, ht, State.collisions_endCall, htree]
      rfl
    simp only [e, ht]
    by_cases hmay : (s.tree k).mayCall = true
    · obtain ⟨⟨stage, hdiscovery⟩, hasked⟩ := State.endCall_of_more hrun' hstack (hsame.trans hmay)
      rw [hdiscovery]
      refine ⟨hcount, hrun', fun _ => ⟨rfl, ?_, rfl⟩, fun hnot => absurd (hmay.symm.trans hnot) nofun⟩
      exact hasked.congr (by rw [htree]) (by rw [htree]) (by rw [htree]) (s.outQueue_splitHead k r.head c).symm rfl rfl rfl
    · rw [State.endCall_of_paused hstack (hsame.trans (Bool.eq_false_iff.2 hmay))]
      exact ⟨hcount, hrun', fun hyes => absurd hyes hmay, fun _ => ⟨rfl, hstack⟩⟩
  case deep =>
    have ht : t = (s.splitHead k r.head c).endCall k := State.callResult_of_collided hcall hstage hheld hignored hcollided
    have htree := State.tree_splitHead_of_long (s := s) (k := k) (c := c) hlong
    simp only [count, ht, State.collisions_endCall, htree]
    refine ⟨rfl, wrote_of_writeEvent (u := s.count k .collisionWindows) rfl ?_⟩
    rw [State.eventQueue_endCall, State.splitHead_of_long hlong]
  case clear =>
    have ht : t = s.endCall k := State.callResult_of_clear hcall hstage hheld hignored hclear
    simp only [count, ht, State.collisions_endCall, State.eventQueue_endCall, and_self]
  case finished =>
    by_cases hcollided : collision
    · have hlong := hfinished.resolve_left (not_not.2 hcollided)
      have ht : t = (s.splitHead k r.head c).endCall k := State.callResult_of_collided hcall hstage hheld hignored hcollided
      have htree := State.tree_splitHead_of_long (s := s) (k := k) (c := c) hlong
      simp only [e, ht]
      exact State.endCall_finished (by rw [htree]) (by rw [htree]; rfl) (by rw [htree]) (by rw [htree]) (by rw [htree])
        (s.outQueue_splitHead k r.head c) hrun
    · have ht : t = s.endCall k := State.callResult_of_clear hcall hstage hheld hignored hcollided
      simp only [e, ht]
      exact State.endCall_finished rfl rfl rfl rfl rfl rfl hrun

end Sys2Proof.Machine
end

section
/-! PROOFS. What a closed cycle makes of the rogue and the dark state (R70, R109, R110, R155, R156, R173 to R176, R180). -/

namespace Sys2Proof.Machine

/-! ## The stray judgement (R173) -/

/-- A stray judgement counted, and joined to the history (R173). -/
def State.strayJudged (s : State) (k : TreeId) (stray : Bool) : State :=
  (if stray then s.count k .strayCycles else s).modRogue k fun r => { r with history := joinHistory r.history stray }

section
variable (s : State) (k : TreeId) (stray : Bool)

theorem joinHistory_eq (history : List Bool) (stray : Bool) :
    joinHistory history stray = (history ++ [stray]).drop (history.length - 7) := by
  rw [joinHistory, List.length_append]
  rfl

theorem State.tree_strayJudged : (s.strayJudged k stray).tree k = { s.tree k with
    counters := { (s.tree k).counters with strayCycles := (s.tree k).counters.strayCycles + (if stray then 1 else 0) }
    rogue := { (s.tree k).rogue with history := joinHistory (s.tree k).rogue.history stray } } := by
  rw [State.strayJudged, State.tree_modRogue, if_pos rfl]
  cases stray with
  | false =>
    have hsame : (s.tree k).counters.strayCycles + (if false = true then 1 else 0) = (s.tree k).counters.strayCycles :=
      BitVec.add_zero _
    rw [hsame]
    rfl
  | true =>
    rw [if_pos rfl, State.tree_count, if_pos rfl]
    rfl

theorem State.eventQueue_strayJudged : (s.strayJudged k stray).eventQueue = s.eventQueue := by cases stray <;> rfl

theorem State.outQueue_strayJudged : (s.strayJudged k stray).outQueue = s.outQueue := by cases stray <;> rfl

theorem State.entry_strayJudged (h : Nat) : (s.strayJudged k stray).entry h = s.entry h := by cases stray <;> rfl

theorem State.rogueClose_eq (c : Cycle) : s.rogueClose k c stray
    = if (s.tree k).rogue.rogue then (s.strayJudged k stray).moveCleanRun k c stray
      else if 3 ≤ (joinHistory (s.tree k).rogue.history stray).count true then (s.strayJudged k stray).becomeRogue k c
      else s.strayJudged k stray := by
  have htree := s.tree_strayJudged k stray
  have heq : s.rogueClose k c stray
      = if ((s.strayJudged k stray).tree k).rogue.rogue then (s.strayJudged k stray).moveCleanRun k c stray
        else if 3 ≤ ((s.strayJudged k stray).tree k).rogue.history.count true then (s.strayJudged k stray).becomeRogue k c
        else s.strayJudged k stray := rfl
  rw [heq, htree]

end

/-! ## The rogue state set and cleared (R174 to R176) -/

/-- The rogue state set or cleared, with ROGUE_CHG and its record (R174 to R176). -/
def State.rogueMarked (s : State) (k : TreeId) (c : Cycle) (on : Bool) (kind : EventKind) : State :=
  ((s.modRogue k fun r => { r with rogue := on, cleanRun := 0 }).setRogueChg k).writeEvent kind k 0 [oneField c.toNat]

section
variable (s : State) (k : TreeId) (c : Cycle)

theorem State.tree_rogueMarked (on : Bool) (kind : EventKind) : (s.rogueMarked k c on kind).tree k = { s.tree k with
    rogue := { (s.tree k).rogue with rogue := on, cleanRun := 0 }
    indications := { (s.tree k).indications with rogueChg := true } } := by
  rw [State.rogueMarked, State.tree_writeEvent, State.tree_setRogueChg, if_pos rfl, State.tree_modRogue, if_pos rfl]

theorem State.outQueue_rogueMarked (on : Bool) (kind : EventKind) : (s.rogueMarked k c on kind).outQueue = s.outQueue := by
  rw [State.rogueMarked, State.outQueue_writeEvent]
  rfl

theorem State.entry_rogueMarked (on : Bool) (kind : EventKind) (h : Nat) :
    (s.rogueMarked k c on kind).entry h = s.entry h := by
  rw [State.rogueMarked, State.entry_writeEvent]
  rfl

theorem State.wrote_rogueMarked (on : Bool) (kind : EventKind) :
    wrote s (s.rogueMarked k c on kind) kind k 0 [oneField c.toNat] :=
  wrote_of_writeEvent (u := (s.modRogue k fun r => { r with rogue := on, cleanRun := 0 }).setRogueChg k) rfl rfl

theorem State.becomeRogue_eq : s.becomeRogue k c = (s.rogueMarked k c true .rogueOn).pauseCall k := rfl

theorem State.clearRogue_eq : s.clearRogue k c = ((s.rogueMarked k c false .rogueOff).sweepFound k).tryCall k := rfl

theorem State.entries_requestClaim_call (head : MarkHead) : (s.requestClaim k (.call head)).entries = s.entries := by
  cases htaken : s.claimTaken k (.call head) with
  | false => rw [State.requestClaim_of_notTaken htaken]
  | true =>
    cases hslot : (s.tree k).eligibleSlot (.call head) with
    | none => rw [State.requestClaim_of_waiting htaken hslot, State.entries_modCalendar]
    | some j =>
      rw [State.requestClaim_of_granted htaken hslot, State.grantClaim_of_call s k _ rfl, State.entries_modDiscovery,
        State.entries_windowGranted]

/-- A CALL concerns no entry. -/
theorem State.entries_tryCall : (s.tryCall k).entries = s.entries := by
  unfold State.tryCall
  dsimp only
  split
  · split
    · rw [State.entries_requestClaim_call, State.entries_modDiscovery]
    · rfl
  · rfl

theorem State.entry_tryCall (h : Nat) : (s.tryCall k).entry h = s.entry h := by
  rw [State.entry, State.entries_tryCall, State.entry]

theorem State.eventQueue_pauseCall : (s.pauseCall k).eventQueue = s.eventQueue :=
  ((ClaimsOnly.refl s).pauseCall (t := k)).eventQueue

end

/-! ## The sweep found (R180) -/

section
variable {s : State} {k : TreeId} {w : Sweep}

theorem State.sweepFound_of_none (h : (s.tree k).rogue.sweep = none) : s.sweepFound k = s := by
  rw [State.sweepFound, h]

/-- The word of SWEEP_FOUND: the stage, the lowest 15 bits of the distance, and the tried count (R191; log 32). -/
def Sweep.foundWord (w : Sweep) (n : Cycle) : EventWord :=
  BitVec.ofNat 32 (w.stage.code * 2 ^ 31 + w.age n % 2 ^ 15 * 2 ^ 16 + w.tried % 2 ^ 16)

/-- The state before a found sweep is forgotten: its entry is the host's, SWEEP_FOUND is written. -/
def State.sweepReported (s : State) (k : TreeId) (w : Sweep) : State :=
  (s.modEntry w.current fun e => { e with sweepOwned := e.sweepOwned.map fun _ => false }).writeEvent .sweepFound k
    w.current [w.foundWord (s.tree k).n]

theorem State.sweepFound_of_some (h : (s.tree k).rogue.sweep = some w) :
    s.sweepFound k = ((s.sweepReported k w).setSweepEnd k).modRogue k fun r => { r with sweep := none } := by
  rw [State.sweepFound, h]
  rfl

theorem State.tree_sweepFound_of_some (h : (s.tree k).rogue.sweep = some w) : (s.sweepFound k).tree k = { s.tree k with
    rogue := { (s.tree k).rogue with sweep := none }
    indications := { (s.tree k).indications with sweepEnd := true } } := by
  rw [State.sweepFound_of_some h, State.tree_modRogue, if_pos rfl, State.tree_setSweepEnd, if_pos rfl,
    State.sweepReported, State.tree_writeEvent, State.tree_modEntry]

theorem State.outQueue_sweepFound (s : State) (k : TreeId) : (s.sweepFound k).outQueue = s.outQueue := by
  cases h : (s.tree k).rogue.sweep with
  | none => rw [State.sweepFound_of_none h]
  | some w =>
    rw [State.sweepFound_of_some h, State.outQueue_modRogue, State.outQueue_setSweepEnd, State.sweepReported,
      State.outQueue_writeEvent]
    rfl

theorem State.entry_sweepFound_of_some (h : (s.tree k).rogue.sweep = some w) (hf : (s.entry w.current).state ≠ .free) :
    (s.sweepFound k).entry w.current
      = { s.entry w.current with sweepOwned := (s.entry w.current).sweepOwned.map fun _ => false } := by
  rw [State.sweepFound_of_some h, State.entry_modRogue, State.entry_setSweepEnd, State.sweepReported,
    State.entry_writeEvent]
  exact State.entry_modEntry_of_ne rfl hf

theorem State.entry_sweepFound_ne (h : (s.tree k).rogue.sweep = some w) {j : Nat} (hj : j ≠ w.current) :
    (s.sweepFound k).entry j = s.entry j := by
  rw [State.sweepFound_of_some h, State.entry_modRogue, State.entry_setSweepEnd, State.sweepReported,
    State.entry_writeEvent, State.entry_modEntry_ne _ _ _ _ hj]

theorem State.wrote_sweepFound (h : (s.tree k).rogue.sweep = some w) :
    wrote s (s.sweepFound k) .sweepFound k w.current [w.foundWord (s.tree k).n] := by
  rw [State.sweepFound_of_some h]
  exact wrote_of_writeEvent
    (u := s.modEntry w.current fun e => { e with sweepOwned := e.sweepOwned.map fun _ => false }) rfl rfl

/-- The parts of a tree's Rogue Monitor and counters that a found sweep leaves alone. -/
theorem State.sweepFound_kept (s : State) (k : TreeId) :
    ((s.sweepFound k).tree k) = { s.tree k with
      rogue := { (s.tree k).rogue with sweep := none }
      indications := ((s.sweepFound k).tree k).indications }
    ∧ ((s.sweepFound k).tree k).indications.rogueChg = (s.tree k).indications.rogueChg := by
  cases h : (s.tree k).rogue.sweep with
  | none =>
    rw [State.sweepFound_of_none h]
    exact ⟨by rw [← h], rfl⟩
  | some w =>
    rw [State.tree_sweepFound_of_some h]
    exact ⟨rfl, rfl⟩

end

/-! ## The rogue state cleared (R110, R175, R180) -/

section
variable {s t : State} {k : TreeId} {c : Cycle}

/-- Before the round goes on after a clearing: the rogue state clear, and a running sweep ended FOUND. -/
def State.rogueCleared (s : State) (k : TreeId) (c : Cycle) : State :=
  (s.rogueMarked k c false .rogueOff).sweepFound k

theorem State.tree_rogueCleared (s : State) (k : TreeId) (c : Cycle) : ∃ flags : TreeFlags, flags.rogueChg = true
    ∧ (s.rogueCleared k c).tree k = { s.tree k with
        rogue := { (s.tree k).rogue with rogue := false, cleanRun := 0, sweep := none }, indications := flags } := by
  have htree := s.tree_rogueMarked k c false .rogueOff
  obtain ⟨hkept, hflag⟩ := (s.rogueMarked k c false .rogueOff).sweepFound_kept k
  refine ⟨((s.rogueCleared k c).tree k).indications, ?_, ?_⟩
  · show (((s.rogueMarked k c false .rogueOff).sweepFound k).tree k).indications.rogueChg = true
    rw [hflag, htree]
  · show ((s.rogueMarked k c false .rogueOff).sweepFound k).tree k = _
    rw [hkept, htree]
    rfl

theorem State.outQueue_rogueCleared (s : State) (k : TreeId) (c : Cycle) : (s.rogueCleared k c).outQueue = s.outQueue := by
  rw [State.rogueCleared, State.outQueue_sweepFound, State.outQueue_rogueMarked]

/-- A round that goes on from a state made of s: the next CALL is asked for as in s (R110). -/
def roundResumes (k : TreeId) (s t : State) : Prop := ∀ head rest, (s.tree k).discovery.running = true →
  (s.tree k).discovery.call = none → (s.tree k).discovery.stack = head :: rest →
  (t.tree k).discovery.stack = rest ∧ callAskedFor k head s t

theorem State.roundResumes_tryCall {u : State} (hdiscovery : (u.tree k).discovery = (s.tree k).discovery)
    (hconfig : (u.tree k).config = (s.tree k).config) (hcalendar : (u.tree k).calendar = (s.tree k).calendar)
    (hn : (u.tree k).n = (s.tree k).n) (hout : u.outQueue = s.outQueue) (hmay : (u.tree k).mayCall = true) :
    roundResumes k s (u.tryCall k) := by
  intro head rest hrun hcall hstack
  rw [← hdiscovery] at hrun hcall hstack
  obtain ⟨⟨stage, hstage⟩, hasked⟩ := State.tryCall_outcome hrun hcall hstack hmay
  exact ⟨by rw [hstage], hasked.congr hconfig.symm hcalendar.symm hn.symm hout.symm rfl rfl rfl⟩

end

/-! ## The clean run (R175) -/

section
variable {s : State} {k : TreeId} {c : Cycle} {stray : Bool}

theorem State.rogueClose_of_few (hclear : (s.tree k).rogue.rogue = false)
    (hfew : (joinHistory (s.tree k).rogue.history stray).count true < 3) :
    s.rogueClose k c stray = s.strayJudged k stray := by
  rw [State.rogueClose_eq, hclear, if_neg (by decide), if_neg (Nat.not_le.2 hfew)]

theorem State.rogueClose_of_third (hclear : (s.tree k).rogue.rogue = false)
    (hthird : 3 ≤ (joinHistory (s.tree k).rogue.history stray).count true) :
    s.rogueClose k c stray = ((s.strayJudged k stray).rogueMarked k c true .rogueOn).pauseCall k := by
  rw [State.rogueClose_eq, hclear, if_neg (by decide), if_pos hthird, State.becomeRogue_eq]

theorem State.rogueClose_of_stray (hrogue : (s.tree k).rogue.rogue = true) :
    s.rogueClose k c true = (s.strayJudged k true).modRogue k fun r => { r with cleanRun := 0 } := by
  rw [State.rogueClose_eq, hrogue, if_pos rfl, State.moveCleanRun, if_pos rfl]

/-- A clean cycle of a ROGUE tree, counted (R175). -/
def State.cleanCounted (s : State) (k : TreeId) : State :=
  (s.strayJudged k false).modRogue k fun r => { r with cleanRun := r.cleanRun + 1 }

theorem State.tree_cleanCounted (s : State) (k : TreeId) : (s.cleanCounted k).tree k = { s.tree k with
    counters := { (s.tree k).counters with strayCycles := (s.tree k).counters.strayCycles + 0 }
    rogue := { (s.tree k).rogue with
      history := joinHistory (s.tree k).rogue.history false, cleanRun := (s.tree k).rogue.cleanRun + 1 } } := by
  rw [State.cleanCounted, State.tree_modRogue, if_pos rfl, State.tree_strayJudged]
  rfl

theorem State.rogueClose_clean_eq (hrogue : (s.tree k).rogue.rogue = true) : s.rogueClose k c false
    = if 16 ≤ (s.tree k).rogue.cleanRun + 1 then ((s.cleanCounted k).rogueCleared k c).tryCall k else s.cleanCounted k := by
  have htree := s.tree_cleanCounted k
  have heq : (s.strayJudged k false).moveCleanRun k c false
      = if 16 ≤ ((s.cleanCounted k).tree k).rogue.cleanRun then (s.cleanCounted k).clearRogue k c else s.cleanCounted k := rfl
  rw [State.rogueClose_eq, hrogue, if_pos rfl, heq, htree]
  rfl

theorem State.rogueClose_of_clean (hrogue : (s.tree k).rogue.rogue = true)
    (hshort : (s.tree k).rogue.cleanRun + 1 < 16) : s.rogueClose k c false = s.cleanCounted k := by
  rw [State.rogueClose_clean_eq hrogue, if_neg (Nat.not_le.2 hshort)]

theorem State.rogueClose_of_sixteenth (hrogue : (s.tree k).rogue.rogue = true)
    (hlong : 16 ≤ (s.tree k).rogue.cleanRun + 1) :
    s.rogueClose k c false = ((s.cleanCounted k).rogueCleared k c).tryCall k := by
  rw [State.rogueClose_clean_eq hrogue, if_pos hlong]

/-- The judgement is counted and joins the history, whatever it makes of the rogue state. -/
theorem State.rogueClose_judged (s : State) (k : TreeId) (c : Cycle) (stray : Bool) :
    ((s.rogueClose k c stray).tree k).counters.strayCycles
        = (s.tree k).counters.strayCycles + (if stray then 1 else 0)
      ∧ ((s.rogueClose k c stray).tree k).rogue.history = joinHistory (s.tree k).rogue.history stray := by
  have htree := s.tree_strayJudged k stray
  by_cases hrogue : (s.tree k).rogue.rogue = true
  · cases stray with
    | true =>
      rw [State.rogueClose_of_stray hrogue, State.tree_modRogue, if_pos rfl, htree]
      exact ⟨rfl, rfl⟩
    | false =>
      rcases Nat.lt_or_ge ((s.tree k).rogue.cleanRun + 1) 16 with hshort | hlong
      · rw [State.rogueClose_of_clean hrogue hshort, State.tree_cleanCounted]
        exact ⟨rfl, rfl⟩
      · have hround := State.apartFromRound_tryCall ((s.cleanCounted k).rogueCleared k c) k
        obtain ⟨flags, -, hcleared⟩ := (s.cleanCounted k).tree_rogueCleared k c
        rw [State.rogueClose_of_sixteenth hrogue hlong, Tree.counters_of_round hround, Tree.rogue_of_round hround,
          hcleared, State.tree_cleanCounted]
        exact ⟨rfl, rfl⟩
  · have hclear := Bool.eq_false_iff.2 hrogue
    rcases Nat.lt_or_ge ((joinHistory (s.tree k).rogue.history stray).count true) 3 with hfew | hthird
    · rw [State.rogueClose_of_few hclear hfew, htree]
      exact ⟨rfl, rfl⟩
    · have hround := State.apartFromRound_pauseCall ((s.strayJudged k stray).rogueMarked k c true .rogueOn) k
      rw [State.rogueClose_of_third hclear hthird, Tree.counters_of_round hround, Tree.rogue_of_round hround,
        State.tree_rogueMarked, htree]
      exact ⟨rfl, rfl⟩

/-- The third stray judgement makes a clear tree ROGUE, its CALL being set aside (R70, R174, R176). -/
theorem State.rogueClose_third_outcome (hclear : (s.tree k).rogue.rogue = false)
    (hthird : 3 ≤ (joinHistory (s.tree k).rogue.history stray).count true) :
    ((s.rogueClose k c stray).tree k).rogue.rogue = true ∧ ((s.rogueClose k c stray).tree k).rogue.cleanRun = 0
      ∧ ((s.rogueClose k c stray).tree k).indications.rogueChg = true
      ∧ wrote s (s.rogueClose k c stray) .rogueOn k 0 [oneField c.toNat] ∧ callPaused k s (s.rogueClose k c stray) := by
  let v := (s.strayJudged k stray).rogueMarked k c true .rogueOn
  have htree := (s.strayJudged k stray).tree_rogueMarked k c true .rogueOn
  rw [State.tree_strayJudged] at htree
  have hround := v.apartFromRound_pauseCall k
  have hout : v.outQueue = s.outQueue := by rw [State.outQueue_rogueMarked, State.outQueue_strayJudged]
  rw [State.rogueClose_of_third hclear hthird, Tree.rogue_of_round hround, Tree.indications_of_round hround, htree]
  refine ⟨rfl, rfl, rfl, fun hroom => ?_,
    (v.callPaused_pauseCall k).congr (by rw [htree]) (by rw [htree]) hout.symm rfl rfl rfl⟩
  rw [State.eventQueue_pauseCall, (s.strayJudged k stray).wrote_rogueMarked k c true .rogueOn
    (by rw [State.eventQueue_strayJudged]; exact hroom), State.eventQueue_strayJudged]

/-- The sixteenth clean cycle in a row clears the rogue state (R110, R175). -/
theorem State.rogueClose_sixteenth_outcome (hrogue : (s.tree k).rogue.rogue = true)
    (hlong : 16 ≤ (s.tree k).rogue.cleanRun + 1) :
    ((s.rogueClose k c false).tree k).rogue.rogue = false ∧ ((s.rogueClose k c false).tree k).rogue.cleanRun = 0
      ∧ ((s.rogueClose k c false).tree k).indications.rogueChg = true
      ∧ ((s.tree k).rogue.sweep = none → wrote s (s.rogueClose k c false) .rogueOff k 0 [oneField c.toNat])
      ∧ ((s.tree k).state = .active → (s.tree k).upkeep.dark = false → roundResumes k s (s.rogueClose k c false)) := by
  let v := (s.cleanCounted k).rogueCleared k c
  have hround := v.apartFromRound_tryCall k
  obtain ⟨flags, hflag, htree⟩ := (s.cleanCounted k).tree_rogueCleared k c
  rw [State.tree_cleanCounted] at htree
  have hout : v.outQueue = s.outQueue := (State.outQueue_rogueCleared _ k c).trans (s.outQueue_strayJudged k false)
  rw [State.rogueClose_of_sixteenth hrogue hlong, Tree.rogue_of_round hround, Tree.indications_of_round hround, htree]
  refine ⟨rfl, rfl, hflag, fun hsweep hroom => ?_, fun hactive hdark => ?_⟩
  · have hnone : (((s.cleanCounted k).rogueMarked k c false .rogueOff).tree k).rogue.sweep = none := by
      rw [State.tree_rogueMarked, State.tree_cleanCounted]
      exact hsweep
    rw [State.eventQueue_tryCall, State.rogueCleared, State.sweepFound_of_none hnone,
      (s.cleanCounted k).wrote_rogueMarked k c false .rogueOff hroom]
    rfl
  · refine State.roundResumes_tryCall (by rw [htree]) (by rw [htree]) (by rw [htree]) (by rw [htree]) hout ?_
    rw [htree]
    exact State.mayCall_iff.2 ⟨hactive, hdark, rfl⟩

/-- A clearing with a sweep running ends the sweep FOUND in the same act (R180). -/
theorem State.rogueClose_found_outcome {w : Sweep} (hrogue : (s.tree k).rogue.rogue = true)
    (hlong : 16 ≤ (s.tree k).rogue.cleanRun + 1) (hsweep : (s.tree k).rogue.sweep = some w)
    (hf : (s.entry w.current).state ≠ .free) :
    ((s.rogueClose k c false).tree k).rogue.rogue = false ∧ sweepEnded k (s.rogueClose k c false)
      ∧ (s.rogueClose k c false).entry w.current
        = { s.entry w.current with sweepOwned := (s.entry w.current).sweepOwned.map fun _ => false }
      ∧ (∀ j, j ≠ w.current → (s.rogueClose k c false).entry j = s.entry j)
      ∧ (s.eventQueue.length + 4 ≤ 1024 → (s.rogueClose k c false).eventQueue
        = s.eventQueue ++ [eventHeader .rogueOff k 0 [oneField c.toNat], oneField c.toNat,
          eventHeader .sweepFound k w.current [w.foundWord (s.tree k).n], w.foundWord (s.tree k).n]) := by
  let m := (s.cleanCounted k).rogueMarked k c false .rogueOff
  have hmarked := (s.cleanCounted k).tree_rogueMarked k c false .rogueOff
  rw [State.tree_cleanCounted] at hmarked
  have hsome : (m.tree k).rogue.sweep = some w := by rw [hmarked]; exact hsweep
  have hround := (m.sweepFound k).apartFromRound_tryCall k
  have hentry : ∀ j, m.entry j = s.entry j := fun j =>
    (State.entry_rogueMarked _ k c false .rogueOff j).trans (s.entry_strayJudged k false j)
  have hcurrent := State.entry_sweepFound_of_some hsome (by rw [hentry]; exact hf)
  rw [hentry] at hcurrent
  have heq : s.rogueClose k c false = (m.sweepFound k).tryCall k := State.rogueClose_of_sixteenth hrogue hlong
  rw [heq]
  refine ⟨?_, ⟨?_, ?_⟩, ?_, fun j hj => ?_, fun hroom => ?_⟩
  · rw [Tree.rogue_of_round hround, State.tree_sweepFound_of_some hsome, hmarked]
  · rw [Tree.rogue_of_round hround, State.tree_sweepFound_of_some hsome]
  · rw [Tree.indications_of_round hround, State.tree_sweepFound_of_some hsome]
  · rw [State.entry_tryCall, hcurrent]
  · rw [State.entry_tryCall, State.entry_sweepFound_ne hsome hj, hentry]
  · have hmqueue := (s.cleanCounted k).wrote_rogueMarked k c false .rogueOff (show _ + 2 ≤ 1024 by
      show s.eventQueue.length + 2 ≤ 1024; omega)
    have hlength : m.eventQueue.length = s.eventQueue.length + 2 := by
      rw [hmqueue, List.length_append]
      rfl
    have hn : (m.tree k).n = (s.tree k).n := by rw [hmarked]
    have hfound := State.wrote_sweepFound hsome (by rw [hlength]; exact hroom)
    rw [State.eventQueue_tryCall, hfound, hmqueue, hn, List.append_assoc]
    rfl

end

end Sys2Proof.Machine
end

section
/-! PROOFS. The tally of a closed cycle and the dark state, and the judgements of a closed cycle together (R70, R109, R110,
R155, R156, R173 to R180). -/

namespace Sys2Proof.Machine

/-! ## The tally (R155) -/

/-- The tally of a closed cycle discarded (R155). -/
def State.tallyDropped (s : State) (k : TreeId) (c : Cycle) : State :=
  s.modUpkeep k fun u => { u with tallies := u.tallies.filter fun y => y.cycle != c }

/-- The dark state set or cleared, with DARK_CHG and its record (R156). -/
def State.darkMarked (s : State) (k : TreeId) (c : Cycle) (on : Bool) (kind : EventKind) : State :=
  ((s.modUpkeep k fun u => { u with dark := on, darkRun := 0, litRun := 0 }).setDarkChg k).writeEvent kind k 0
    [oneField c.toNat]

section
variable (s : State) (k : TreeId) (c : Cycle)

theorem State.tree_tallyDropped : (s.tallyDropped k c).tree k = { s.tree k with
    upkeep := { (s.tree k).upkeep with tallies := (s.tree k).upkeep.tallies.filter fun y => y.cycle != c } } := by
  rw [State.tallyDropped, State.tree_modUpkeep, if_pos rfl]

theorem State.tree_darkMarked (on : Bool) (kind : EventKind) : (s.darkMarked k c on kind).tree k = { s.tree k with
    upkeep := { (s.tree k).upkeep with dark := on, darkRun := 0, litRun := 0 }
    indications := { (s.tree k).indications with darkChg := true } } := by
  rw [State.darkMarked, State.tree_writeEvent, State.tree_setDarkChg, if_pos rfl, State.tree_modUpkeep, if_pos rfl]

theorem State.outQueue_darkMarked (on : Bool) (kind : EventKind) : (s.darkMarked k c on kind).outQueue = s.outQueue := by
  rw [State.darkMarked, State.outQueue_writeEvent]
  rfl

theorem State.wrote_darkMarked (on : Bool) (kind : EventKind) :
    wrote s (s.darkMarked k c on kind) kind k 0 [oneField c.toNat] :=
  wrote_of_writeEvent (u := (s.modUpkeep k fun u => { u with dark := on, darkRun := 0, litRun := 0 }).setDarkChg k) rfl rfl

theorem State.upkeepClose_eq : s.upkeepClose k c
    = if (s.tree k).upkeep.dark then (s.tallyDropped k c).closeWhileDark k c (cycleLight (s.tree k).upkeep.tallies c)
      else (s.tallyDropped k c).closeWhileLit k c (cycleLight (s.tree k).upkeep.tallies c) := by
  have htree := s.tree_tallyDropped k c
  have heq : s.upkeepClose k c = if ((s.tallyDropped k c).tree k).upkeep.dark
      then (s.tallyDropped k c).closeWhileDark k c (cycleLight (s.tree k).upkeep.tallies c)
      else (s.tallyDropped k c).closeWhileLit k c (cycleLight (s.tree k).upkeep.tallies c) := rfl
  rw [heq, htree]

end

section
variable {s : State} {k : TreeId} {c : Cycle}

theorem cycleLight_of_none {tallies : List Tally} (h : ∀ y ∈ tallies, y.cycle ≠ c) : cycleLight tallies c = .neutral := by
  have hnone : tallies.find? (fun y => y.cycle == c) = none :=
    List.find?_eq_none.2 fun y hy => by rw [beq_iff_eq]; exact h y hy
  rw [cycleLight, hnone]

theorem cycleLight_of_some {tallies : List Tally} {y : Tally} (h : tallies.find? (fun y => y.cycle == c) = some y) :
    cycleLight tallies c = if y.lit then .lit else if y.counted then .dark else .neutral := by rw [cycleLight, h]

/-! ## The judged cycle by cases (R156) -/

/-- A judgement that moves no run and no state. -/
theorem State.upkeepClose_neutral (h : cycleLight (s.tree k).upkeep.tallies c = .neutral) :
    s.upkeepClose k c = s.tallyDropped k c := by
  rw [State.upkeepClose_eq, h]
  split <;> rfl

theorem State.upkeepClose_lit (hdark : (s.tree k).upkeep.dark = false)
    (h : cycleLight (s.tree k).upkeep.tallies c = .lit) :
    s.upkeepClose k c = (s.tallyDropped k c).modUpkeep k fun u => { u with darkRun := 0 } := by
  rw [State.upkeepClose_eq, hdark, h, if_neg (by decide)]
  rfl

theorem State.upkeepClose_dark_whileDark (hdark : (s.tree k).upkeep.dark = true)
    (h : cycleLight (s.tree k).upkeep.tallies c = .dark) :
    s.upkeepClose k c = (s.tallyDropped k c).modUpkeep k fun u => { u with litRun := 0 } := by
  rw [State.upkeepClose_eq, hdark, h, if_pos rfl]
  rfl

/-- One dark cycle more of a tree that is clear. -/
def State.darkCounted (s : State) (k : TreeId) (c : Cycle) : State :=
  (s.tallyDropped k c).modUpkeep k fun u => { u with darkRun := u.darkRun + 1 }

/-- One lit cycle more of a DARK tree. -/
def State.litCounted (s : State) (k : TreeId) (c : Cycle) : State :=
  (s.tallyDropped k c).modUpkeep k fun u => { u with litRun := u.litRun + 1 }

theorem State.tree_darkCounted (s : State) (k : TreeId) (c : Cycle) : (s.darkCounted k c).tree k = { s.tree k with
    upkeep := { (s.tree k).upkeep with
      tallies := (s.tree k).upkeep.tallies.filter fun y => y.cycle != c
      darkRun := (s.tree k).upkeep.darkRun + 1 } } := by
  rw [State.darkCounted, State.tree_modUpkeep, if_pos rfl, State.tree_tallyDropped]

theorem State.tree_litCounted (s : State) (k : TreeId) (c : Cycle) : (s.litCounted k c).tree k = { s.tree k with
    upkeep := { (s.tree k).upkeep with
      tallies := (s.tree k).upkeep.tallies.filter fun y => y.cycle != c
      litRun := (s.tree k).upkeep.litRun + 1 } } := by
  rw [State.litCounted, State.tree_modUpkeep, if_pos rfl, State.tree_tallyDropped]

theorem State.upkeepClose_dark (hdark : (s.tree k).upkeep.dark = false)
    (h : cycleLight (s.tree k).upkeep.tallies c = .dark) : s.upkeepClose k c
      = if (s.tree k).tuning.darkThreshold ≤ (s.tree k).upkeep.darkRun + 1
        then ((s.darkCounted k c).darkMarked k c true .darkOn).pauseCall k else s.darkCounted k c := by
  have htree := s.tree_darkCounted k c
  have heq : (s.tallyDropped k c).closeWhileLit k c .dark
      = if ((s.darkCounted k c).tree k).tuning.darkThreshold ≤ ((s.darkCounted k c).tree k).upkeep.darkRun
        then ((s.darkCounted k c).darkMarked k c true .darkOn).pauseCall k else s.darkCounted k c := rfl
  rw [State.upkeepClose_eq, hdark, h, if_neg (by decide), heq, htree]

theorem State.upkeepClose_lit_whileDark (hdark : (s.tree k).upkeep.dark = true)
    (h : cycleLight (s.tree k).upkeep.tallies c = .lit) : s.upkeepClose k c
      = if 2 ≤ (s.tree k).upkeep.litRun + 1
        then ((s.litCounted k c).darkMarked k c false .darkOff).tryCall k else s.litCounted k c := by
  have htree := s.tree_litCounted k c
  have heq : (s.tallyDropped k c).closeWhileDark k c .lit
      = if 2 ≤ ((s.litCounted k c).tree k).upkeep.litRun
        then ((s.litCounted k c).darkMarked k c false .darkOff).tryCall k else s.litCounted k c := rfl
  rw [State.upkeepClose_eq, hdark, h, if_pos rfl, heq, htree]

/-- The tally of the closed cycle is discarded, whatever its judgement makes of the dark state. -/
theorem State.tallies_upkeepClose (s : State) (k : TreeId) (c : Cycle) : ((s.upkeepClose k c).tree k).upkeep.tallies
    = (s.tree k).upkeep.tallies.filter fun y => y.cycle != c := by
  have hdropped := s.tree_tallyDropped k c
  cases hlight : cycleLight (s.tree k).upkeep.tallies c with
  | neutral => rw [State.upkeepClose_neutral hlight, hdropped]
  | lit =>
    cases hdark : (s.tree k).upkeep.dark with
    | false => rw [State.upkeepClose_lit hdark hlight, State.tree_modUpkeep, if_pos rfl, hdropped]
    | true =>
      rw [State.upkeepClose_lit_whileDark hdark hlight]
      split
      · rw [Tree.upkeep_of_round (State.apartFromRound_tryCall _ k), State.tree_darkMarked, State.tree_litCounted]
      · rw [State.tree_litCounted]
  | dark =>
    cases hdark : (s.tree k).upkeep.dark with
    | false =>
      rw [State.upkeepClose_dark hdark hlight]
      split
      · rw [Tree.upkeep_of_round (State.apartFromRound_pauseCall _ k), State.tree_darkMarked, State.tree_darkCounted]
      · rw [State.tree_darkCounted]
    | true => rw [State.upkeepClose_dark_whileDark hdark hlight, State.tree_modUpkeep, if_pos rfl, hdropped]

/-- The dark cycle that reaches the threshold makes the tree DARK, its CALL being set aside (R70, R109, R156). -/
theorem State.upkeepClose_becomesDark (hdark : (s.tree k).upkeep.dark = false)
    (hlight : cycleLight (s.tree k).upkeep.tallies c = .dark)
    (hreached : (s.tree k).tuning.darkThreshold ≤ (s.tree k).upkeep.darkRun + 1) :
    ((s.upkeepClose k c).tree k).upkeep.dark = true ∧ ((s.upkeepClose k c).tree k).upkeep.darkRun = 0
      ∧ ((s.upkeepClose k c).tree k).upkeep.litRun = 0 ∧ ((s.upkeepClose k c).tree k).indications.darkChg = true
      ∧ wrote s (s.upkeepClose k c) .darkOn k 0 [oneField c.toNat] ∧ callPaused k s (s.upkeepClose k c) := by
  let v := (s.darkCounted k c).darkMarked k c true .darkOn
  have htree := (s.darkCounted k c).tree_darkMarked k c true .darkOn
  rw [State.tree_darkCounted] at htree
  have hround := v.apartFromRound_pauseCall k
  have hout : v.outQueue = s.outQueue := (s.darkCounted k c).outQueue_darkMarked k c true .darkOn
  rw [State.upkeepClose_dark hdark hlight, if_pos hreached, Tree.upkeep_of_round hround, Tree.indications_of_round hround,
    htree]
  refine ⟨rfl, rfl, rfl, rfl, fun hroom => ?_,
    (v.callPaused_pauseCall k).congr (by rw [htree]) (by rw [htree]) hout.symm rfl rfl rfl⟩
  rw [State.eventQueue_pauseCall, (s.darkCounted k c).wrote_darkMarked k c true .darkOn hroom]
  rfl

/-- The second lit cycle in a row clears the dark state, and a paused round goes on (R110, R156). -/
theorem State.upkeepClose_clearsDark (hdark : (s.tree k).upkeep.dark = true)
    (hlight : cycleLight (s.tree k).upkeep.tallies c = .lit) (hsecond : 2 ≤ (s.tree k).upkeep.litRun + 1) :
    ((s.upkeepClose k c).tree k).upkeep.dark = false ∧ ((s.upkeepClose k c).tree k).upkeep.darkRun = 0
      ∧ ((s.upkeepClose k c).tree k).upkeep.litRun = 0 ∧ ((s.upkeepClose k c).tree k).indications.darkChg = true
      ∧ wrote s (s.upkeepClose k c) .darkOff k 0 [oneField c.toNat]
      ∧ ((s.tree k).state = .active → (s.tree k).rogue.rogue = false → roundResumes k s (s.upkeepClose k c)) := by
  let v := (s.litCounted k c).darkMarked k c false .darkOff
  have htree := (s.litCounted k c).tree_darkMarked k c false .darkOff
  rw [State.tree_litCounted] at htree
  have hround := v.apartFromRound_tryCall k
  have hout : v.outQueue = s.outQueue := (s.litCounted k c).outQueue_darkMarked k c false .darkOff
  rw [State.upkeepClose_lit_whileDark hdark hlight, if_pos hsecond, Tree.upkeep_of_round hround,
    Tree.indications_of_round hround, htree]
  refine ⟨rfl, rfl, rfl, rfl, fun hroom => ?_, fun hactive hrogue => ?_⟩
  · rw [State.eventQueue_tryCall, (s.litCounted k c).wrote_darkMarked k c false .darkOff hroom]
    rfl
  · refine State.roundResumes_tryCall (by rw [htree]) (by rw [htree]) (by rw [htree]) (by rw [htree]) hout ?_
    rw [htree]
    exact State.mayCall_iff.2 ⟨hactive, rfl, hrogue⟩

/-! ## A clearing right after a dwell judgement (R179, R180) -/

theorem Sweep.age_of_hushing {w : Sweep} (h : w.stage = .hushing) (n : Cycle) : w.age n = 0 := by
  rw [Sweep.age, h]

/-- The dwell judgement of the current handle: the handle hushed next, the handle unhushed, and what the two write. -/
theorem State.judgeDwell_outcome {w : Sweep} {a : Cycle} {h : Nat} (hsweep : (s.tree k).rogue.sweep = some w)
    (hstage : w.stage = .observing) (ha : w.hushCycle = some a) (hover : w.dwell ≤ Cycle.distance a (s.tree k).n)
    (hcursor : w.cursor = w.current) (hnext : nextRostered s k w.current h) :
    sweptOn k h w.dwell (w.tried + 1) (s.judgeDwell k)
      ∧ ((s.judgeDwell k).entry w.current).state = .registered
      ∧ ((s.judgeDwell k).tree k).rogue.rogue = (s.tree k).rogue.rogue
      ∧ ((s.judgeDwell k).tree k).rogue.cleanRun = (s.tree k).rogue.cleanRun
      ∧ (s.eventQueue.length + 4 ≤ 1024 → (s.judgeDwell k).eventQueue.length = s.eventQueue.length + 4) := by
  let v := s.unhushToRegistered k w.current
  obtain ⟨-, hp, hwrote, -⟩ := s.unhushToRegistered_outcome k w.current
  have hframe := (EngineFrame.refl k s).unhushToRegistered w.current
  obtain ⟨hsteps, hsame⟩ := hp.sweepStep nofun hframe hcursor
  have heq : s.judgeDwell k = v.sweepStep k w.cursor w.dwell w.tried :=
    State.judgeDwell_of_over hsweep (by rw [Sweep.dwellOver_of_observing hstage ha]; exact decide_eq_true hover)
  have hnext' : nextRostered v k w.cursor h := by
    rw [hcursor]
    exact (nextRostered_congr hframe.tree.config fun j hj => by
      rw [Entry.inRoster, (hp.others j (Nat.ne_of_gt hj)).1, Entry.inRoster]).2 hnext
  have hrogue := (State.rogue_of_apartFromPassage (v.apartFromPassage_hushEntry k h true)).trans
    (State.rogue_of_apartFromPassage (s.apartFromPassage_unhushToRegistered k w.current))
  have htree : ((v.sweepStep k w.cursor w.dwell w.tried).tree k).rogue
      = { (s.tree k).rogue with sweep := some { stage := .hushing, cursor := h, dwell := w.dwell, current := h,
                                                hushCycle := none, tried := w.tried + 1 } } := by
    rw [State.sweepStep_some hnext', State.tree_modRogue, if_pos rfl, ← hrogue]
  rw [heq]
  refine ⟨hsteps.1 h hnext, hsame.state, by rw [htree], by rw [htree], fun hroom => ?_⟩
  have hfirst : v.eventQueue.length = s.eventQueue.length + 2 := by
    rw [hwrote (by exact Nat.le_trans (Nat.add_le_add_left (by decide) _) hroom), List.length_append]
    rfl
  have hsecond := (v.hushEntry_passed k h true).2 (by rw [hfirst]; exact hroom)
  rw [State.sweepStep_some hnext', State.eventQueue_modRogue, hsecond, List.length_append, hfirst]
  rfl

end

/-- Settles O49: the stray judgement and the rogue state, the sweep that a clearing finds, and the dark state. -/
theorem closedCycleJudgements : Obligations.ClosedCycleJudgements := by
  intro k c s resumes
  refine ⟨fun stray => ?judged, fun hrogue => ?rogue, fun w hrogue hsweep hhushed => ?sweep, ?upkeep⟩
  case judged =>
    intro t recent
    obtain ⟨hcount, hhistory⟩ := s.rogueClose_judged k c stray
    rw [joinHistory_eq] at hhistory
    refine ⟨hcount, hhistory, fun hclear => ⟨fun hfew => ?_, fun hthird => ?_⟩⟩
    · have ht : t = s.strayJudged k stray := State.rogueClose_of_few hclear (by rw [joinHistory_eq]; exact hfew)
      have htree := s.tree_strayJudged k stray
      rw [ht, htree, s.eventQueue_strayJudged k stray]
      exact ⟨hclear, rfl, rfl, rfl⟩
    · exact State.rogueClose_third_outcome hclear (by rw [joinHistory_eq]; exact hthird)
  case rogue =>
    rw [State.rogueClose_of_stray hrogue, State.tree_modRogue, if_pos rfl, State.tree_strayJudged]
    refine ⟨hrogue, rfl, fun hshort => ?_, fun hlong => State.rogueClose_sixteenth_outcome hrogue hlong⟩
    rw [State.rogueClose_of_clean hrogue hshort, State.tree_cleanCounted]
    exact ⟨hrogue, rfl⟩
  case sweep =>
    intro t
    refine ⟨?_, fun hshort => ?_, fun hlong => ?_, fun a h hlong hstage ha hover hcursor hnext => ?_⟩
    · rw [State.rogueClose_of_stray hrogue, State.tree_modRogue, if_pos rfl, State.tree_strayJudged]
      exact hsweep
    · have ht : t = s.cleanCounted k := State.rogueClose_of_clean hrogue hshort
      rw [ht, State.tree_cleanCounted]
      exact ⟨hrogue, hsweep, rfl⟩
    · obtain ⟨hclear, hended, hentry, -, hevents⟩ :=
        State.rogueClose_found_outcome (c := c) hrogue hlong hsweep (by rw [hhushed]; exact nofun)
      exact ⟨hclear, hended, hentry, hevents⟩
    · intro u found
      obtain ⟨⟨hstate, -, howned, hswept⟩, hregistered, hrogue', hrun', hevents⟩ :=
        State.judgeDwell_outcome hsweep hstage ha hover hcursor hnext
      obtain ⟨hclear, hended, hentry, hothers, hmore⟩ := State.rogueClose_found_outcome (c := c)
        (hrogue'.trans hrogue) (by rw [hrun']; exact hlong) hswept (by rw [hstate]; exact nofun)
      have hne : w.current ≠ h := Nat.ne_of_lt hnext.1
      refine ⟨hclear, hended, by rw [hothers _ hne]; exact hregistered, by rw [hentry]; exact hstate,
        by rw [hentry]; exact congrArg (Option.map fun _ => false) howned, fun hroom => ?_⟩
      have hlength := hevents (by omega)
      refine ⟨(s.judgeDwell k).eventQueue ++ [eventHeader .rogueOff k 0 [oneField c.toNat], oneField c.toNat], ?_⟩
      have hword : found = BitVec.ofNat 32 (0 * 2 ^ 31 + 0 % 2 ^ 15 * 2 ^ 16 + (w.tried + 1) % 2 ^ 16) := by
        rw [Nat.zero_mod, Nat.zero_mul, Nat.zero_mul, Nat.zero_add]
      rw [hmore (by rw [hlength]; omega), List.append_assoc, hword]
      rfl
  case upkeep =>
    intro u t v
    refine ⟨s.tallies_upkeepClose k c, fun hnone => ?_, fun y hy => ⟨fun hlit hcounted hdark => ?_, fun hlit hdark => ?_,
      fun hlit hcounted hdark => ?_, fun hlit hdark => ?_⟩⟩
    · have ht : t = s.tallyDropped k c := State.upkeepClose_neutral (cycleLight_of_none hnone)
      have hsame : u.tallies.filter (fun y => y.cycle != c) = u.tallies :=
        List.filter_eq_self.2 fun y hy => bne_iff_ne.2 (hnone y hy)
      refine ⟨?_, by rw [ht]; rfl⟩
      show (t.tree k).upkeep = u
      rw [ht, State.tree_tallyDropped]
      show { u with tallies := u.tallies.filter fun y => y.cycle != c } = u
      rw [hsame]
    · have hlight : cycleLight u.tallies c = .dark := by rw [cycleLight_of_some hy, hlit, hcounted]; rfl
      refine ⟨fun hfew => ?_, State.upkeepClose_becomesDark hdark hlight⟩
      have ht : t = s.darkCounted k c :=
        (State.upkeepClose_dark hdark hlight).trans (if_neg (Nat.not_le.2 hfew))
      show (t.tree k).upkeep.dark = false ∧ (t.tree k).upkeep.darkRun = u.darkRun + 1 ∧ t.eventQueue = s.eventQueue
      rw [ht, State.tree_darkCounted]
      exact ⟨hdark, rfl, rfl⟩
    · have hlight : cycleLight u.tallies c = .lit := by rw [cycleLight_of_some hy, hlit]; rfl
      have ht := State.upkeepClose_lit hdark hlight
      show (t.tree k).upkeep.dark = false ∧ (t.tree k).upkeep.darkRun = 0 ∧ t.eventQueue = s.eventQueue
      rw [show t = _ from ht, State.tree_modUpkeep, if_pos rfl, State.tree_tallyDropped]
      exact ⟨hdark, rfl, rfl⟩
    · have hlight : cycleLight u.tallies c = .dark := by rw [cycleLight_of_some hy, hlit, hcounted]; rfl
      have ht := State.upkeepClose_dark_whileDark hdark hlight
      show (t.tree k).upkeep.dark = true ∧ (t.tree k).upkeep.litRun = 0
      rw [show t = _ from ht, State.tree_modUpkeep, if_pos rfl, State.tree_tallyDropped]
      exact ⟨hdark, rfl⟩
    · have hlight : cycleLight u.tallies c = .lit := by rw [cycleLight_of_some hy, hlit]; rfl
      refine ⟨fun hfew => ?_, State.upkeepClose_clearsDark hdark hlight⟩
      have ht : t = s.litCounted k c :=
        (State.upkeepClose_lit_whileDark hdark hlight).trans (if_neg (Nat.not_le.2 hfew))
      show (t.tree k).upkeep.dark = true ∧ (t.tree k).upkeep.litRun = u.litRun + 1 ∧ t.eventQueue = s.eventQueue
      rw [ht, State.tree_litCounted]
      exact ⟨hdark, rfl, rfl⟩

end Sys2Proof.Machine
end

section
/-! PROOFS. A plan that passes the plan level: its grants in the slot, its VERDICT, and the pass of arbitration that a
replacement brings (R63, R64, R67, R91 to R93). -/

namespace Sys2Proof.Machine

/-! ## The grants in the slot (R63, R64) -/

theorem mem_foldl_insertReservation {r : Reservation} (l : List Reservation) (rs : List Reservation) :
    r ∈ l.foldl (fun rs p => insertReservation p rs) rs ↔ r ∈ l ∨ r ∈ rs := by
  induction l generalizing rs with
  | nil => simp
  | cons p l ih =>
    rw [List.foldl_cons, ih, mem_insertReservation, List.mem_cons]
    tauto

theorem Slot.mem_takePlan {slot : Slot} {grants : List Reservation} {r : Reservation} :
    r ∈ (slot.takePlan grants).reservations ↔ r ∈ grants ∨ (r ∈ slot.reservations ∧ r.isQuiet = true) := by
  rw [Slot.takePlan, mem_foldl_insertReservation, List.mem_filter]

theorem Tree.windowFor_isQuiet (x : Tree) (q : Claim) : (x.windowFor q).isQuiet = true := by cases q <;> rfl

/-- A slot through a pass of arbitration: itself, or PLANNED before and FILLED now, with quiet windows more. -/
structure Slot.Arbitrated (before after : Slot) : Prop where
  kept : ∀ r ∈ before.reservations, r ∈ after.reservations
  others : ∀ r, r.isQuiet = false → r ∈ after.reservations → r ∈ before.reservations
  state : after = before ∨ (before.state = .planned ∧ after.state = .filled)

theorem Slot.Arbitrated.rfl' (p : Slot) : p.Arbitrated p := ⟨fun _ h => h, fun _ _ h => h, Or.inl rfl⟩

section
variable {s : State} {k : TreeId} {c : Cycle} {p : Slot}

theorem Calendar.cycles_granted (w : Calendar) (q : Claim) (c : Cycle) (r : Reservation) :
    (w.granted q c r).ring.map Slot.cycle = w.ring.map Slot.cycle := by
  show (w.ring.map fun j => if j.cycle = c then j.withWindow r else j).map Slot.cycle = _
  rw [List.map_map]
  refine List.map_congr_left fun j _ => ?_
  rw [Function.comp_apply]
  split <;> rfl

/-- A pass of arbitration leaves a slot as it is unless it is PLANNED, and then it may fill it. -/
theorem State.slot?_arbitrate (hring : (s.tree k).calendar.ring.map Slot.cycle = ringCycles (s.tree k).n)
    (hp : (s.tree k).calendar.slot? c = some p) (hstate : p.state = .planned ∨ p.state = .filled) :
    ∃ y, ((s.arbitrate k).tree k).calendar.slot? c = some y ∧ p.Arbitrated y := by
  refine (State.arbitrate_induction (P := fun u => (u.tree k).calendar.ring.map Slot.cycle = ringCycles (s.tree k).n
    ∧ ∃ y, (u.tree k).calendar.slot? c = some y ∧ p.Arbitrated y) s k ⟨hring, p, hp, .rfl' p⟩ ?_).2
  rintro u q j ⟨hcycles, y, hy, hkept, hothers, hya⟩ hj
  obtain ⟨hmem, he⟩ := Tree.mem_of_eligibleSlot hj
  rw [State.calendar_grantClaim, Calendar.cycles_granted]
  refine ⟨hcycles, ?_⟩
  by_cases hc : c = j.cycle
  · subst hc
    obtain rfl : j = y := Option.some.inj ((Calendar.slot?_of_mem hcycles hmem).symm.trans hy)
    have hplanned : p.state = .planned ∧ j = p := by
      rcases hya with heq | ⟨-, hfilled⟩
      · subst heq
        rcases hstate with h | h
        · exact ⟨h, rfl⟩
        · exact absurd (Tree.state_of_eligible he) (by rw [h]; exact fun hor => hor.elim nofun nofun)
      · exact absurd (Tree.state_of_eligible he) (by rw [hfilled]; exact fun hor => hor.elim nofun nofun)
    refine ⟨_, Calendar.slot?_granted hy, fun r hr => mem_insertReservation.2 (Or.inr (hkept r hr)), fun r hr hin => ?_,
      Or.inr ⟨hplanned.1, ?_⟩⟩
    · rcases mem_insertReservation.1 hin with rfl | hin
      · exact absurd (Tree.windowFor_isQuiet _ q) (Bool.eq_false_iff.1 hr)
      · exact hothers r hr hin
    · show j.state.withQuiet = .filled
      rw [hplanned.2, hplanned.1]
      rfl
  · exact ⟨y, (Calendar.slot?_granted_ne hc).trans hy, hkept, hothers, hya⟩

theorem State.outQueue_arbitrate_of_full (hfull : 512 ≤ s.outQueue.length) : (s.arbitrate k).outQueue = s.outQueue := by
  refine State.arbitrate_induction (P := fun u => u.outQueue = s.outQueue) s k rfl fun u q j hu _ => ?_
  rw [State.outQueue_grantClaim, State.windowGranted,
    State.makeFrame_of_full (by rw [State.outQueue_modCalendar, hu]; exact hfull), State.outQueue_modCalendar, hu]

end

/-! ## The judgement of grants said of what it reads -/

section
variable {s u : State} {k : TreeId} {slot : Slot}

theorem State.judgeGrants_congr (htree : u.tree k = s.tree k) (hentry : ∀ h, u.entry h = s.entry h)
    (grants : List PlanGrant) (i : Nat) (accepted : List Reservation) :
    u.judgeGrants k slot i accepted grants = s.judgeGrants k slot i accepted grants := by
  have hjudge : ∀ a g, u.judgeGrant k slot a g = s.judgeGrant k slot a g := fun a g => by
    rw [State.judgeGrant, htree, hentry, State.judgeGrant]
  induction grants generalizing i accepted with
  | nil => rfl
  | cons g rest ih => rw [State.judgeGrants, State.judgeGrants, hjudge, ih, ih]

/-! ## The plan taken into its slot (R63, R67, R92, R93) -/

/-- The plan in its slot, its struck grants counted, and the VERDICT made (R63, R92, R93). -/
def State.planAnswered (s : State) (k : TreeId) (tree : Byte) (c : Cycle) (accepted : List Reservation)
    (struck : List (Nat × StrikeReason)) : State :=
  ((s.countBy k .grantsStruck struck.length).modSlot k c fun j => j.takePlan accepted).makeFrame
    (.verdict tree c none struck)

theorem State.tree_planAnswered (s : State) (k : TreeId) (tree : Byte) (c : Cycle) (accepted : List Reservation)
    (struck : List (Nat × StrikeReason)) : (s.planAnswered k tree c accepted struck).tree k = { s.tree k with
      counters := { (s.tree k).counters with
        grantsStruck := (s.tree k).counters.grantsStruck + BitVec.ofNat 32 struck.length }
      calendar := (s.tree k).calendar.modSlot c fun j => j.takePlan accepted } := by
  rw [State.planAnswered, State.tree_makeFrame, State.tree_modSlot, if_pos rfl, State.tree_countBy, if_pos rfl]
  rfl

theorem State.outQueue_planAnswered_of_room {tree : Byte} {c : Cycle} {accepted : List Reservation}
    {struck : List (Nat × StrikeReason)} (hroom : s.outQueue.length < 512) :
    (s.planAnswered k tree c accepted struck).outQueue = s.outQueue ++ [.verdict tree c none struck] :=
  State.outQueue_makeFrame hroom

theorem State.outQueue_planAnswered_of_full {tree : Byte} {c : Cycle} {accepted : List Reservation}
    {struck : List (Nat × StrikeReason)} (hfull : 512 ≤ s.outQueue.length) :
    (s.planAnswered k tree c accepted struck).outQueue = s.outQueue := by
  refine (congrArg State.outQueue (State.makeFrame_of_full ?_)).trans ?_
  · exact hfull
  · rfl

theorem State.acceptPlan_eq {tree : Byte} (hk : k.val = tree.toNat) (grants : List PlanGrant) :
    s.acceptPlan k slot grants = if slot.state = .planned ∨ slot.state = .filled
      then (s.planAnswered k tree slot.cycle (s.judgeGrants k slot 0 [] grants).1
        (s.judgeGrants k slot 0 [] grants).2).arbitrate k
      else s.planAnswered k tree slot.cycle (s.judgeGrants k slot 0 [] grants).1
        (s.judgeGrants k slot 0 [] grants).2 := by
  have htree : BitVec.ofNat 8 k.val = tree := by rw [hk, BitVec.ofNat_toNat, BitVec.setWidth_eq]
  rw [State.acceptPlan, htree]
  rfl

theorem State.takePlan_of_passed {tree : Byte} {cycle : Word} {grants : List PlanGrant} (hk : k.val = tree.toNat)
    (hservice : (s.tree k).inService = true) (h7 : 7 ≤ Cycle.distance (s.tree k).n cycle)
    (h14 : Cycle.distance (s.tree k).n cycle ≤ 14) (hcount : grants.length ≤ 64)
    (hslot : (s.tree k).calendar.slot? cycle = some slot) :
    s.takePlan tree cycle grants = s.acceptPlan k slot grants := by
  rw [State.takePlan, State.judgePlan_of_passed hk hservice h7 h14 hcount]
  dsimp only
  rw [hslot]

end

theorem State.entry_of_idle {s u : State} (h : exec .idle s = .next u) (j : Nat) : u.entry j = s.entry j := by
  obtain rfl : s.linkTraffic = u := Host.Outcome.next.inj h
  rw [State.linkTraffic]
  split
  · rfl
  · exact (State.entry_writeEvent _ _ _ _ _ j).trans rfl

theorem Reservation.isQuiet_of_grant {r : Reservation} (h : r.kind = .grant) : r.isQuiet = false := by
  rw [Reservation.isQuiet, h]
  rfl

theorem State.judgeGrants_notQuiet (s : State) (k : TreeId) (slot : Slot) (grants : List PlanGrant) :
    ∀ r ∈ (s.judgeGrants k slot 0 [] grants).1, r.isQuiet = false := by
  obtain ⟨hlawful, -⟩ := s.judgeGrants_lawful k slot grants 0 [] (fun _ h => absurd h List.not_mem_nil) .nil
  intro r hr
  obtain ⟨hkind, -⟩ := hlawful r hr
  exact Reservation.isQuiet_of_grant hkind

/-- What the plan leaves in its slot before any arbitration (R63, R64). -/
theorem Slot.takePlan_others {slot : Slot} {grants : List Reservation} (hgrants : ∀ r ∈ grants, r.isQuiet = false)
    (r : Reservation) : (r.isQuiet = false → (r ∈ (slot.takePlan grants).reservations ↔ r ∈ grants))
      ∧ (r.isQuiet = true → (r ∈ (slot.takePlan grants).reservations ↔ r ∈ slot.reservations)) := by
  rw [Slot.mem_takePlan]
  refine ⟨fun hr => ⟨fun h => h.resolve_right fun hq => Bool.noConfusion (hr.symm.trans hq.2), Or.inl⟩,
    fun hr => ⟨fun h => ?_, fun h => Or.inr ⟨h, hr⟩⟩⟩
  rcases h with h | h
  · exact Bool.noConfusion ((hgrants r h).symm.trans hr)
  · exact h.1

/-- A plan that passes the plan level: what stands before any arbitration, and whether a pass follows (R63, R67, R92). -/
theorem State.takePlan_outcome {tree : Byte} {cycle : Word} {grants : List PlanGrant} {k : TreeId} {slot : Slot}
    {s u : State} (hidle : exec .idle s = .next u) (hk : k.val = tree.toNat) (hservice : (s.tree k).inService = true)
    (h7 : 7 ≤ Cycle.distance (s.tree k).n cycle) (h14 : Cycle.distance (s.tree k).n cycle ≤ 14)
    (hcount : grants.length ≤ 64) (hslot : (s.tree k).calendar.slot? cycle = some slot)
    {accepted : List Reservation} {struck : List (Nat × StrikeReason)}
    (hjudged : s.judgeGrants k slot 0 [] grants = (accepted, struck)) :
    ∃ w : State, exec (.plan tree cycle grants) s
        = .next (if slot.state = .planned ∨ slot.state = .filled then w.arbitrate k else w)
      ∧ w.tree k = { s.tree k with
        counters := { (s.tree k).counters with
          grantsStruck := (s.tree k).counters.grantsStruck + BitVec.ofNat 32 struck.length }
        calendar := (s.tree k).calendar.modSlot cycle fun j => j.takePlan accepted }
      ∧ (u.outQueue.length < 512 → w.outQueue = u.outQueue ++ [.verdict tree cycle none struck])
      ∧ (512 ≤ u.outQueue.length → w.outQueue = u.outQueue) := by
  obtain ⟨hexec, htrees⟩ := exec_plan_of_idle hidle tree cycle grants
  have htree := htrees k
  have hsame : u.judgeGrants k slot 0 [] grants = (accepted, struck) :=
    (State.judgeGrants_congr htree (State.entry_of_idle hidle) grants 0 []).trans hjudged
  refine ⟨u.planAnswered k tree cycle accepted struck, ?_, by rw [State.tree_planAnswered, htree],
    State.outQueue_planAnswered_of_room, State.outQueue_planAnswered_of_full⟩
  rw [hexec, State.takePlan_of_passed hk (by rw [htree]; exact hservice) (by rw [htree]; exact h7)
    (by rw [htree]; exact h14) hcount (by rw [htree]; exact hslot), State.acceptPlan_eq hk, Calendar.slot?_cycle hslot,
    hsame]

theorem Slot.takePlan_state (slot : Slot) (grants : List Reservation) :
    (slot.takePlan grants).state = slot.state.withPlan := rfl

/-- The ring of a calendar keeps its cycles when a plan enters a slot. -/
theorem Calendar.cycles_takePlan (w : Calendar) (c : Cycle) (grants : List Reservation) :
    (w.modSlot c fun j => j.takePlan grants).ring.map Slot.cycle = w.ring.map Slot.cycle := by
  show (w.ring.map fun j => if j.cycle = c then j.takePlan grants else j).map Slot.cycle = _
  rw [List.map_map]
  refine List.map_congr_left fun j _ => ?_
  rw [Function.comp_apply]
  split <;> rfl

/-- The slot of an entered plan, after the pass of arbitration that a replacement brings: `p` before it, `y` after it. -/
theorem Slot.Arbitrated.planned {slot p y : Slot} {accepted : List Reservation} (ha : p.Arbitrated y)
    (hstate : p.state = slot.state)
    (hp : ∀ r : Reservation, (r.isQuiet = false → (r ∈ p.reservations ↔ r ∈ accepted))
      ∧ (r.isQuiet = true → (r ∈ p.reservations ↔ r ∈ slot.reservations))) :
    (∀ r, r.isQuiet = false → (r ∈ y.reservations ↔ r ∈ accepted))
      ∧ (∀ r ∈ slot.reservations, r.isQuiet = true → r ∈ y.reservations)
      ∧ (slot.state = .filled → y = p) ∧ (slot.state = .planned → y.state = .planned ∨ y.state = .filled) := by
  refine ⟨fun r hr => ⟨fun hin => ((hp r).1 hr).1 (ha.others r hr hin), fun hin => ha.kept r (((hp r).1 hr).2 hin)⟩,
    fun r hr hq => ha.kept r (((hp r).2 hq).2 hr), fun hfilled => ?_, fun hplanned => ?_⟩
  · exact ha.state.resolve_right fun hor => absurd (hor.1.symm.trans (hstate.trans hfilled)) nofun
  · rcases ha.state with heq | ⟨-, hfilled⟩
    · exact Or.inl (by rw [heq, hstate, hplanned])
    · exact Or.inr hfilled

/-- Settles O58: the plan in its slot and its VERDICT, and the pass of arbitration after a replacement. -/
theorem planEntersItsSlot : Obligations.PlanEntersItsSlot := by
  intro tree cycle grants k slot s u hcover hidle hk hservice h7 h14 hcount hslot hunsent accepted struck
  obtain ⟨w, hexec, hw, hout, hfull⟩ := State.takePlan_outcome hidle hk hservice h7 h14 hcount hslot
    (accepted := accepted) (struck := struck) (Prod.eta _).symm
  have hgrants : ∀ r ∈ accepted, r.isQuiet = false := s.judgeGrants_notQuiet k slot grants
  obtain ⟨p, hp⟩ : ∃ p, p = slot.takePlan accepted := ⟨_, rfl⟩
  have hpstate : p.state = slot.state.withPlan := by rw [hp, Slot.takePlan_state]
  have hpothers := Slot.takePlan_others (slot := slot) hgrants
  rw [← hp] at hpothers
  have hwp : (w.tree k).calendar.slot? cycle = some p := by
    rw [hw, hp]
    exact Calendar.slot?_modSlot_of_some (f := fun j => j.takePlan accepted) (fun _ => rfl) hslot
  rw [hexec]
  by_cases hreplaced : slot.state = .planned ∨ slot.state = .filled
  · have hring : (w.tree k).calendar.ring.map Slot.cycle = ringCycles (w.tree k).n := by
      rw [hw, Calendar.cycles_takePlan]
      exact hcover k hservice
    have hsame : p.state = slot.state := by rw [hpstate]; rcases hreplaced with h | h <;> rw [h] <;> rfl
    obtain ⟨y, hy, ha⟩ := State.slot?_arbitrate hring hwp (by rw [hsame]; exact hreplaced)
    obtain ⟨hothers, hquiets, hfilled, hplanned⟩ := ha.planned hsame hpothers
    obtain ⟨more, hmore, hframes⟩ := w.outQueue_arbitrate k
    have hnotOpened : slot.state ≠ .opened := fun h => by rw [h] at hreplaced; exact hreplaced.elim nofun nofun
    have hnotClaimed : slot.state ≠ .claimed := fun h => by rw [h] at hreplaced; exact hreplaced.elim nofun nofun
    have hkept : slot.state ≠ .planned ∨ (s.tree k).calendar.claims = [] → y = p := by
      rintro (h | h)
      · exact hfilled (hreplaced.resolve_left h)
      · rw [State.arbitrate_of_nil (by rw [hw]; exact h)] at hy
        exact Option.some.inj (hy.symm.trans hwp)
    rw [if_pos hreplaced]
    refine ⟨w.arbitrate k, y, rfl, hy, hothers, hquiets, fun h => absurd h hnotOpened, fun h => ?_, hplanned, fun h => ?_,
      fun hroom => ⟨more, by rw [hmore, hout hroom, List.append_assoc]; rfl, hframes, fun h => ?_⟩, fun hlong => ?_, ?_⟩
    · have hf := h.resolve_left hnotClaimed
      rw [hfilled hf, hsame, hf]
    · rw [hkept h]
      exact ⟨hpstate, fun r hr hq => ((hpothers r).2 hq).1 hr⟩
    · exact h.elim (fun h => absurd h hnotOpened) fun h => absurd h hnotClaimed
    · rw [State.outQueue_arbitrate_of_full (by rw [hfull hlong]; exact hlong), hfull hlong]
    · rw [Tree.counters_of_round (apartFromRound_of_claims (w.apartFromClaims_arbitrate k)), hw]
  · have hnotPlanned : slot.state ≠ .planned := fun h => hreplaced (Or.inl h)
    rw [if_neg hreplaced]
    refine ⟨w, p, rfl, hwp, fun r hr => (hpothers r).1 hr, fun r hr hq => ((hpothers r).2 hq).2 hr, fun h => ?_,
      fun h => ?_, fun h => absurd h hnotPlanned, fun _ => ⟨hpstate, fun r hr hq => ((hpothers r).2 hq).1 hr⟩,
      fun hroom => ⟨[], hout hroom, nofun, fun _ => rfl⟩, hfull, by rw [hw]⟩
    · rw [hpstate, h]
      rfl
    · rw [hpstate, h.resolve_right fun hf => hreplaced (Or.inr hf)]
      rfl

end Sys2Proof.Machine
end

section
/-! PROOFS. Ranging that fails: the departure, MEASURE_FAILED, and the timed bar (R31, R129). -/

namespace Sys2Proof.Machine

/-! ## The timed bar (R31) -/

section
variable {s : State} {k : TreeId} {h : Nat} {m : Mark} {b : BarRecord}

theorem State.makeTimedBar_of_permanent (hb : s.findBar m = some b) (hkind : b.kind = .permanent) :
    s.makeTimedBar k h m = s := by
  rw [State.makeTimedBar, hb]
  dsimp only
  rw [hkind]

theorem State.makeTimedBar_of_timed (hb : s.findBar m = some b) (hkind : b.kind ≠ .permanent) :
    s.makeTimedBar k h m
      = { s with bars := replaceBar s.bars m (.timed k (s.tree k).tuning.holdOff 0) } := by
  rw [State.makeTimedBar, hb]
  dsimp only
  split
  · next hp => exact absurd hp hkind
  · rfl

theorem State.makeTimedBar_of_joined (hb : s.findBar m = none) {bars : List BarRecord}
    (hjoin : joinBar s.bars { mark := m, kind := .timed k (s.tree k).tuning.holdOff 0 } = some bars) :
    s.makeTimedBar k h m = { s with bars := bars } := by
  rw [State.makeTimedBar, hb]
  dsimp only
  rw [hjoin]

theorem State.makeTimedBar_of_full (hb : s.findBar m = none)
    (hjoin : joinBar s.bars { mark := m, kind := .timed k (s.tree k).tuning.holdOff 0 } = none) :
    s.makeTimedBar k h m = s.writeEvent .barListFull k h (markWords m 0) := by
  rw [State.makeTimedBar, hb]
  dsimp only
  rw [hjoin]

/-- A timed bar changes the Bar List, or writes a record. -/
theorem State.makeTimedBar_cases (s : State) (k : TreeId) (h : Nat) (m : Mark) :
    (∃ bars, s.makeTimedBar k h m = { s with bars := bars })
      ∨ s.makeTimedBar k h m = s.writeEvent .barListFull k h (markWords m 0) := by
  cases hb : s.findBar m with
  | some b =>
    by_cases hkind : b.kind = .permanent
    · exact Or.inl ⟨s.bars, State.makeTimedBar_of_permanent hb hkind⟩
    · exact Or.inl ⟨_, State.makeTimedBar_of_timed hb hkind⟩
  | none =>
    cases hjoin : joinBar s.bars { mark := m, kind := .timed k (s.tree k).tuning.holdOff 0 } with
    | some bars => exact Or.inl ⟨bars, State.makeTimedBar_of_joined hb hjoin⟩
    | none => exact Or.inr (State.makeTimedBar_of_full hb hjoin)

theorem State.entries_makeTimedBar (s : State) (k : TreeId) (h : Nat) (m : Mark) :
    (s.makeTimedBar k h m).entries = s.entries := by
  rcases s.makeTimedBar_cases k h m with ⟨bars, heq⟩ | heq
  · rw [heq]
  · rw [heq, State.entries_writeEvent]

theorem State.tree_makeTimedBar (s : State) (k v : TreeId) (h : Nat) (m : Mark) :
    (s.makeTimedBar k h m).tree v = s.tree v := by
  rcases s.makeTimedBar_cases k h m with ⟨bars, heq⟩ | heq
  · rw [heq]
    rfl
  · rw [heq, State.tree_writeEvent]

theorem State.eventQueue_makeTimedBar (s : State) (k : TreeId) (h : Nat) (m : Mark) :
    ∃ more, (s.makeTimedBar k h m).eventQueue = s.eventQueue ++ more := by
  rcases s.makeTimedBar_cases k h m with ⟨bars, heq⟩ | heq
  · exact ⟨[], by rw [heq, List.append_nil]⟩
  · obtain ⟨more, hmore⟩ := ((EngineFrame.refl k s).writeEvent .barListFull k h (markWords m 0)).events
    exact ⟨more, by rw [heq, hmore]⟩

/-- The Bar List stays as it was, or has room for the new record: nothing is written. -/
theorem State.eventQueue_makeTimedBar_of_room (hroom : (∃ b, s.findBar m = some b) ∨ s.bars.length < 32) :
    (s.makeTimedBar k h m).eventQueue = s.eventQueue := by
  cases hb : s.findBar m with
  | some b =>
    by_cases hkind : b.kind = .permanent
    · rw [State.makeTimedBar_of_permanent hb hkind]
    · rw [State.makeTimedBar_of_timed hb hkind]
  | none =>
    have hlength := hroom.resolve_left fun ⟨b, hsome⟩ => absurd (hb.symm.trans hsome) nofun
    rw [State.makeTimedBar_of_joined hb (joinBar_of_length_lt _ hlength)]

end

/-! ## The failure (R129) -/

/-- The entry departed for a failure to measure, with one RELEASE (R129). -/
def Entry.failedRanging (e : Entry) : Entry :=
  { e.toDeparting .measureFailure with owed := some { kind := .release, sends := 1 } }

/-- The failure before any bar is made: the entry departed, MEASURE_FAILED written and counted (R129). -/
def State.failureTold (s : State) (k : TreeId) (h cause : Nat) : State :=
  ((s.departEntry k h .measureFailure 1).writeEvent .measureFailed k h
    (markWords ((s.entry h).mark.getD 0) (byteFields (s.entry h).state.code cause))).count k .measureFails

section
variable (s : State) (k : TreeId) (h cause : Nat)

theorem State.failureTold_passed : PassedTo (s.entry h).failedRanging h s (s.failureTold k h cause) := by
  obtain ⟨hpassed, -⟩ := s.departEntry_passed k h .measureFailure 1
  exact (hpassed.writeEvent .measureFailed k h _).of_same rfl rfl rfl

theorem State.failureTold_wrote : wrote s (s.failureTold k h cause) .measureFailed k h
    (markWords ((s.entry h).mark.getD 0) (byteFields (s.entry h).state.code cause)) :=
  wrote_of_writeEvent (s.departEntry_passed k h .measureFailure 1).2 rfl

theorem Tree.counters_of_passage {x y : Tree} (hxy : x.apartFromPassage = y.apartFromPassage) :
    x.counters = { y.counters with grantsStruck := x.counters.grantsStruck } := by
  have hsame : ∀ z : Tree, { z.counters with grantsStruck := 0 } = z.apartFromPassage.counters := fun _ => rfl
  have hzero : { x.counters with grantsStruck := 0 } = { y.counters with grantsStruck := 0 } := by
    rw [hsame, hxy, ← hsame]
  calc x.counters
      = { { x.counters with grantsStruck := 0 } with grantsStruck := x.counters.grantsStruck } := rfl
    _ = { y.counters with grantsStruck := x.counters.grantsStruck } := by rw [hzero]

theorem State.measureFails_failureTold : ((s.failureTold k h cause).tree k).counters.measureFails
    = (s.tree k).counters.measureFails + 1 := by
  have hcounters := Tree.counters_of_passage (s.apartFromPassage_departEntry k h .measureFailure 1)
  rw [State.failureTold, State.tree_count, if_pos rfl, State.tree_writeEvent, hcounters]
  rfl

theorem State.tuning_failureTold : ((s.failureTold k h cause).tree k).tuning = (s.tree k).tuning :=
  (((EngineFrame.refl k s).departEntry h .measureFailure 1).writeEvent .measureFailed k h _).count .measureFails
    |>.tree.tuning

theorem State.failRanging_eq : s.failRanging k h cause
    = if (s.tree k).tuning.holdOff = 0 then s.failureTold k h cause
      else (s.failureTold k h cause).makeTimedBar k h ((s.entry h).mark.getD 0) := by
  have heq : s.failRanging k h cause
      = if ((s.failureTold k h cause).tree k).tuning.holdOff = 0 then s.failureTold k h cause
        else (s.failureTold k h cause).makeTimedBar k h ((s.entry h).mark.getD 0) := rfl
  rw [heq, State.tuning_failureTold]

/-- A failure is told, and then no more than the Bar List or a further record changes. -/
theorem State.failRanging_kept : (s.failRanging k h cause).entries = (s.failureTold k h cause).entries
    ∧ (∀ v, (s.failRanging k h cause).tree v = (s.failureTold k h cause).tree v)
    ∧ ∃ more, (s.failRanging k h cause).eventQueue = (s.failureTold k h cause).eventQueue ++ more := by
  rw [State.failRanging_eq]
  split
  · exact ⟨rfl, fun _ => rfl, [], (List.append_nil _).symm⟩
  · exact ⟨State.entries_makeTimedBar .., fun v => State.tree_makeTimedBar .., State.eventQueue_makeTimedBar ..⟩

theorem State.entry_failRanging (j : Nat) : (s.failRanging k h cause).entry j = (s.failureTold k h cause).entry j := by
  rw [State.entry, (s.failRanging_kept k h cause).1, State.entry]

end

/-- Settles O43: the departure and its record, then the Bar List row by row of R31. -/
theorem rangingFailureDepartsAndBars : Obligations.RangingFailureDepartsAndBars := by
  intro k h cause m s hstate hmark t holdOff failed
  let v := s.failureTold k h cause
  have hmark' : (s.entry h).mark.getD 0 = m := by rw [hmark]; rfl
  have hp := s.failureTold_passed k h cause
  have hwrote := s.failureTold_wrote k h cause
  rw [hmark'] at hwrote
  have hbars : v.bars = s.bars := hp.bars
  have hfind : ∀ o, v.findBar o = s.findBar o := fun o => by rw [State.findBar, hbars, State.findBar]
  have htuning : (v.tree k).tuning.holdOff = holdOff := by rw [s.tuning_failureTold k h cause]
  have hzero : holdOff = 0 → t = v := fun hz => (s.failRanging_eq k h cause).trans (if_pos hz)
  have hbar : holdOff ≠ 0 → t = v.makeTimedBar k h m := fun hn => by
    rw [← hmark']
    exact (s.failRanging_eq k h cause).trans (if_neg hn)
  obtain ⟨hentries, htrees, -⟩ := s.failRanging_kept k h cause
  have hentry : ∀ j, t.entry j = v.entry j := s.entry_failRanging k h cause
  refine ⟨by rw [hentry]; exact hp.entry, fun j hj => by rw [hentry]; exact hp.others j hj,
    by rw [htrees]; exact s.measureFails_failureTold k h cause, fun hor hroom => ?_, fun hz => ?_, fun hn => ?_⟩
  · rcases hor with hz | hor
    · rw [hzero hz]
      exact hwrote hroom
    · by_cases hz : holdOff = 0
      · rw [hzero hz]
        exact hwrote hroom
      · rw [hbar hz, State.eventQueue_makeTimedBar_of_room (by rw [hfind, hbars]; exact hor)]
        exact hwrote hroom
  · rw [hzero hz, hbars]
  · rw [hbar hn]
    refine ⟨fun b hb hkind => ?_, fun b hb hkind => ?_, fun hb hlength => ?_,
      fun before b after least hb hlength hsplit hleast hbefore hafter => ?_, fun hb hlength hall => ?_⟩
    · rw [State.makeTimedBar_of_permanent (by rw [hfind, hb]) hkind, hbars]
    · rw [State.makeTimedBar_of_timed (by rw [hfind, hb]) hkind, htuning, hbars, ← replaceBar_eq_map]
    · rw [State.makeTimedBar_of_joined (by rw [hfind, hb]) (joinBar_of_length_lt _ (by rw [hbars]; exact hlength)),
        htuning, hbars]
    · rw [State.makeTimedBar_of_joined (by rw [hfind, hb])
        (bars := before ++ after ++ [{ mark := m, kind := .timed k holdOff 0 }])]
      rw [joinBar_of_full _ (by rw [hbars]; exact hlength), hbars, hsplit, evictTimed_of_least hleast hbefore hafter, htuning]
      rfl
    · have hjoin : joinBar v.bars { mark := m, kind := .timed k (v.tree k).tuning.holdOff 0 } = none := by
        rw [joinBar_of_full _ (by rw [hbars]; exact hlength), hbars, evictTimed_of_permanent hall]
        rfl
      rw [State.makeTimedBar_of_full (by rw [hfind, hb]) hjoin, State.bars_writeEvent]
      refine ⟨hbars, fun hroom => ?_⟩
      have hthree := hwrote (show _ + 3 ≤ 1024 by omega)
      have hlength : v.eventQueue.length + 3 ≤ 1024 := by
        rw [hthree, List.length_append]
        exact hroom
      have hfull : wrote v (v.writeEvent .barListFull k h (markWords m 0)) .barListFull k h (markWords m 0) :=
        wrote_of_writeEvent (u := v) rfl rfl
      rw [hfull hlength, hthree]
      show _ = s.eventQueue ++ ([eventHeader .measureFailed k h [0, 0]] ++ markWords m _) ++ _ ++ _
      simp only [List.append_assoc, List.singleton_append]
      rfl

end Sys2Proof.Machine
end

section
/-! PROOFS. The observation of a grant: what of the state it finds, the presence of a hit, the fence, and the drift filter
(R77, R137, R140 to R143, R149 to R153, R157, R160). -/

namespace Sys2Proof.Machine

/-! ## The outcome in its slot (R76 to R78) -/

/-- The ring of a tree changed. -/
def State.modRing (s : State) (k : TreeId) (f : List Slot → List Slot) : State :=
  s.modCalendar k fun w => { w with ring := f w.ring }

section
variable (s : State) (k : TreeId) (f : List Slot → List Slot)

theorem State.tree_modRing : (s.modRing k f).tree k
    = { s.tree k with calendar := { (s.tree k).calendar with ring := f (s.tree k).calendar.ring } } := by
  rw [State.modRing, State.tree_modCalendar, if_pos rfl]

theorem State.modRing_modRing (g : List Slot → List Slot) :
    (s.modRing k f).modRing k g = s.modRing k fun ring => g (f ring) := State.modCalendar_modCalendar s k _ _

theorem State.modSlot_eq (c : Cycle) (g : Slot → Slot) :
    s.modSlot k c g = s.modRing k fun ring => ring.map fun j => if j.cycle = c then g j else j := rfl

variable {s k}

/-- An outcome changes the ring alone before it is handed on (R76 to R78). -/
theorem State.takeOutcome_eq (c : Cycle) (i : Nat) (r : Reservation) (b : Burst) :
    ∃ f, s.takeOutcome k c i r b = (s.modRing k f).handOutcome k c r b := by
  unfold State.takeOutcome
  dsimp only
  split
  · exact ⟨_, by rw [State.markStray, State.modReservation, State.modSlot_eq, State.modSlot_eq, State.modRing_modRing]⟩
  · exact ⟨_, by rw [State.modReservation, State.modSlot_eq]⟩

end

/-! ## The observation of a grant (R140, R141) -/

/-- The observation of a grant (R140). -/
def grantObservation (c : Cycle) (h start : Nat) (b : Burst) : Observation :=
  { cycle := c, handle := h, start := start, probe := false, outcome := b }

/-- The tally of an observation taken (R155). -/
def State.tallied (s : State) (k : TreeId) (o : Observation) : State :=
  s.modUpkeep k fun u => { u with tallies := tallyObservation u.tallies o.cycle o.outcome.result.light }

section
variable {s : State} {k : TreeId} {o : Observation}

theorem State.observe_of_hit (hroster : (s.entry o.handle).inRoster = true)
    (hhit : o.outcome.matchesHandle o.handle = true) : s.observe k o = (s.tallied k o).takeHit k o := by
  have hkind : o.kind = .hit := if_pos hhit
  rw [State.observe, if_pos hroster]
  dsimp only
  rw [hkind]
  rfl

theorem State.observe_of_miss (hroster : (s.entry o.handle).inRoster = true)
    (hmiss : o.outcome.result ≠ .good) : s.observe k o = (s.tallied k o).takeMiss k o := by
  have hkind : o.kind = .miss := by
    rw [Observation.kind, if_neg, if_neg hmiss]
    rw [Burst.matchesHandle, Bool.and_eq_true, beq_iff_eq]
    exact fun h => hmiss h.1
  rw [State.observe, if_pos hroster]
  dsimp only
  rw [hkind]
  rfl

/-- The state an observation finds: that of before but for the ring and the tallies. -/
structure ObservedFrom (k : TreeId) (s v : State) : Prop where
  entries : v.entries = s.entries
  markIndex : v.markIndex = s.markIndex
  outQueue : v.outQueue = s.outQueue
  eventQueue : v.eventQueue = s.eventQueue
  config : (v.tree k).config = (s.tree k).config
  tuning : (v.tree k).tuning = (s.tree k).tuning
  n : (v.tree k).n = (s.tree k).n
  control : (v.tree k).control = (s.tree k).control
  counters : (v.tree k).counters = (s.tree k).counters
  dark : (v.tree k).upkeep.dark = (s.tree k).upkeep.dark

theorem ObservedFrom.entry {v : State} (hv : ObservedFrom k s v) (h : Nat) : v.entry h = s.entry h := by
  rw [State.entry, hv.entries, State.entry]

theorem State.observedFrom_modRing (s : State) (k : TreeId) (f : List Slot → List Slot) :
    ObservedFrom k s (s.modRing k f) := by
  have htree := s.tree_modRing k f
  exact ⟨rfl, rfl, rfl, rfl, by rw [htree], by rw [htree], by rw [htree], by rw [htree], by rw [htree], by rw [htree]⟩

theorem ObservedFrom.tallied {v : State} (hv : ObservedFrom k s v) (o : Observation) :
    ObservedFrom k s (v.tallied k o) := by
  have htree : (v.tallied k o).tree k = { v.tree k with upkeep := { (v.tree k).upkeep with
      tallies := tallyObservation (v.tree k).upkeep.tallies o.cycle o.outcome.result.light } } := by
    rw [State.tallied, State.tree_modUpkeep, if_pos rfl]
  exact ⟨hv.entries, hv.markIndex, hv.outQueue, hv.eventQueue, by rw [htree]; exact hv.config,
    by rw [htree]; exact hv.tuning, by rw [htree]; exact hv.n, by rw [htree]; exact hv.control,
    by rw [htree]; exact hv.counters, by rw [htree]; exact hv.dark⟩

/-- A report on a grant of a rostered entry is observed: a hit when it matches the handle, a miss when it is not GOOD. -/
theorem exec_burstReport_grant {record : ReportRecord} {c : Cycle} {i h : Nat} {r : Reservation} {b : Burst}
    (hreport : reportsOn s k record c i r b) (hkind : r.kind = .grant) (hhandle : r.handle = some h)
    (houtcome : r.outcome = none) (hroster : (s.entry h).inRoster = true) : ∃ v, ObservedFrom k s v
      ∧ (b.matchesHandle h = true →
        exec (.burstReport k record) s = .next (v.takeHit k (grantObservation c h r.start b)))
      ∧ (b.result ≠ .good →
        exec (.burstReport k record) s = .next (v.takeMiss k (grantObservation c h r.start b))) := by
  obtain ⟨f, hf⟩ := s.takeOutcome_eq (k := k) c i r b
  have hexec : exec (.burstReport k record) s
      = .next ((s.modRing k f).observe k (grantObservation c h r.start b)) := by
    rw [exec_burstReport_of_reportsOn hreport,
      State.takeReport_first (Reservation.takesOutcome_iff.2 (Or.inl hkind)) houtcome, hf, State.handOutcome, hkind, hhandle]
    rfl
  refine ⟨(s.modRing k f).tallied k (grantObservation c h r.start b),
    (s.observedFrom_modRing k f).tallied _, fun hhit => ?_, fun hmiss => ?_⟩
  · rw [hexec, State.observe_of_hit hroster hhit]
  · rw [hexec, State.observe_of_miss hroster hmiss]

end

/-! ## The fence (R153) -/

section
variable {e : Entry} {c f : Cycle}

theorem Entry.clearFence_of_notEffective (h : ∀ f, e.trim ≠ some (.effective f)) : e.clearFence c = e := by
  unfold Entry.clearFence
  split
  · next f hf => exact absurd hf (h f)
  · rfl

theorem Entry.clearFence_of_ahead (hf : e.trim = some (.effective f))
    (h : 1 ≤ Cycle.distance c f ∧ Cycle.distance c f ≤ 32767) : e.clearFence c = e := by
  rw [Entry.clearFence, hf]
  exact if_pos h

theorem Entry.clearFence_of_past (hf : e.trim = some (.effective f))
    (h : ¬ (1 ≤ Cycle.distance c f ∧ Cycle.distance c f ≤ 32767)) : e.clearFence c = { e with trim := some .none } := by
  rw [Entry.clearFence, hf]
  exact if_neg h

/-- The fence is cleared or stays: no other field of the entry changes. -/
theorem Entry.clearFence_eq (e : Entry) (c : Cycle) : ∃ trim, e.clearFence c = { e with trim := trim } := by
  unfold Entry.clearFence
  split
  · split
    · exact ⟨e.trim, rfl⟩
    · exact ⟨_, rfl⟩
  · exact ⟨e.trim, rfl⟩

end

/-! ## The presence of a hit (R141, R143) -/

/-- The entry a hit has seen (R141). -/
def Entry.seenAt (e : Entry) (c : Cycle) : Entry := { e with missCount := some 0, lastObserved := some c }

/-- Presence and fence after a hit, before its deviation is offered (R141, R143, R153). -/
def State.hitSeen (s : State) (k : TreeId) (h : Nat) (c : Cycle) : State :=
  (s.hitPresence k h c).modEntry h fun e => e.clearFence c

section
variable {s : State} {k : TreeId} {h : Nat} {c : Cycle}

theorem State.hitPresence_of_registered (hs : (s.entry h).state = .registered) :
    s.hitPresence k h c = s.modEntry h fun e => e.seenAt c := by
  unfold State.hitPresence
  dsimp only
  rw [hs]
  exact if_neg nofun

theorem State.hitPresence_of_lost (hs : (s.entry h).state = .lost) : s.hitPresence k h c
    = ((s.modEntry h fun e => e.toFound c).rosterNotice k h .registered).writeEvent .found k h
        [halves c.toNat ((s.entry h).graceCount.getD 0)] := by
  unfold State.hitPresence
  dsimp only
  rw [hs]
  exact if_pos rfl

theorem Entry.clearFence_state (e : Entry) (c : Cycle) : (e.clearFence c).state = e.state := by
  obtain ⟨trim, htrim⟩ := e.clearFence_eq c
  rw [htrim]

/-- A hit on a REGISTERED entry changes that entry alone. -/
theorem State.hitSeen_of_registered (hs : (s.entry h).state = .registered) :
    (s.hitSeen k h c).entry h = ((s.entry h).seenAt c).clearFence c
      ∧ (∀ v, (s.hitSeen k h c).tree v = s.tree v) ∧ (s.hitSeen k h c).outQueue = s.outQueue
      ∧ (s.hitSeen k h c).eventQueue = s.eventQueue := by
  have hseen : (s.modEntry h fun e => e.seenAt c).entry h = (s.entry h).seenAt c :=
    State.entry_modEntry_of_ne rfl (by rw [Entry.seenAt, hs]; exact nofun)
  rw [State.hitSeen, State.hitPresence_of_registered hs]
  refine ⟨?_, fun _ => rfl, rfl, rfl⟩
  refine State.entry_modEntry_of_ne (by rw [hseen]) ?_
  rw [Entry.clearFence_state, Entry.seenAt, hs]
  exact nofun

/-- A hit on a LOST entry finds it, with ROSTER and FOUND (R143). -/
theorem State.hitSeen_of_lost (hs : (s.entry h).state = .lost) :
    (s.hitSeen k h c).entry h = ((s.entry h).toFound c).clearFence c
      ∧ (∀ v, (s.hitSeen k h c).tree v = s.tree v)
      ∧ (s.outQueue.length < 512 →
        (s.hitSeen k h c).outQueue = s.outQueue ++ [.roster k h .registered ((s.entry h).termClass.getD 0)])
      ∧ wrote s (s.hitSeen k h c) .found k h [halves c.toNat ((s.entry h).graceCount.getD 0)] := by
  let u := s.modEntry h fun e => e.toFound c
  have hfound : u.entry h = (s.entry h).toFound c := State.entry_modEntry_of_ne rfl nofun
  have hclass : (u.entry h).termClass = (s.entry h).termClass := by rw [hfound]; rfl
  have hout : s.outQueue.length < 512 → (u.rosterNotice k h .registered).outQueue
      = s.outQueue ++ [.roster k h .registered ((s.entry h).termClass.getD 0)] := fun hroom => by
    rw [State.rosterNotice, hclass]
    exact State.outQueue_makeFrame hroom
  rw [State.hitSeen, State.hitPresence_of_lost hs]
  refine ⟨State.entry_modEntry_of_ne (e := ((s.entry h).toFound c).clearFence c) ?_ ?_, fun v => ?_, fun hroom => ?_,
    wrote_of_writeEvent (u := u.rosterNotice k h .registered) (State.eventQueue_makeFrame _ _) rfl⟩
  · rw [State.entry_writeEvent, State.rosterNotice, State.entry_makeFrame, hfound]
  · rw [Entry.clearFence_state]
    exact nofun
  · rw [State.tree_modEntry, State.tree_writeEvent, State.rosterNotice, State.tree_makeFrame, State.tree_modEntry]
  · exact (State.outQueue_writeEvent _ _ _ _ _).trans (hout hroom)

end

/-! ## The drift filter (R149 to R151) -/

section
variable {s : State} {k : TreeId} {h arrival : Nat} {c : Cycle} {start : Nat} {b : Burst}

theorem State.judgeStatus_none (s : State) (k : TreeId) (h : Nat) : s.judgeStatus k h none = s := by
  unfold State.judgeStatus
  split <;> rfl

/-- A hit on a grant: presence, fence and deviation, and no status (R148). -/
theorem State.takeHit_grant : s.takeHit k (grantObservation c h start b)
    = (s.hitSeen k h c).offerDeviation k (grantObservation c h start b) := by
  have hstatus : (grantObservation c h start b).status = none := rfl
  rw [State.takeHit, if_neg (by rw [hstatus]; exact fun hor => nomatch hor.2.1), hstatus, State.judgeStatus_none]
  rfl

theorem State.offerDeviation_of_dark {o : Observation} (hdark : (s.tree k).upkeep.dark = true) :
    s.offerDeviation k o = s := if_pos hdark

theorem State.offerDeviation_of_taken {o : Observation} (hdark : (s.tree k).upkeep.dark = false)
    (harrival : o.outcome.arrival = some arrival)
    (htakes : filterTakes (s.tree k).tuning.hardLimit (s.entry o.handle) o ((arrival : Int) - o.start) = true) :
    s.offerDeviation k o = s.judgeDeviation k o.handle ((arrival : Int) - o.start) := by
  rw [State.offerDeviation, if_neg (Bool.eq_false_iff.1 hdark), harrival]
  exact if_pos htakes

theorem State.offerDeviation_of_notTaken {o : Observation} (hdark : (s.tree k).upkeep.dark = false)
    (harrival : o.outcome.arrival = some arrival)
    (htakes : filterTakes (s.tree k).tuning.hardLimit (s.entry o.handle) o ((arrival : Int) - o.start) = false) :
    s.offerDeviation k o = s := by
  rw [State.offerDeviation, if_neg (Bool.eq_false_iff.1 hdark), harrival]
  exact if_neg (Bool.eq_false_iff.1 htakes)

theorem filterTakes_grant_iff {hardLimit : Nat} {e : Entry} {d : Int} :
    filterTakes hardLimit e (grantObservation c h start b) d = true
      ↔ hardLimit < d.natAbs ∨ e.trim = some .none := by
  have hgeneration : (grantObservation c h start b).generation = none := rfl
  rw [filterTakes, hgeneration, Bool.and_true, Bool.or_eq_true, decide_eq_true_iff, beq_iff_eq]

variable {d p : Int}

theorem State.judgeDeviation_of_hard (hhard : (s.tree k).tuning.hardLimit < d.natAbs) :
    s.judgeDeviation k h d = s.rerange k h .rerange rerangeHardLimit := if_pos hhard

theorem State.judgeDeviation_of_dead (hdead : d.natAbs ≤ (s.tree k).tuning.deadBand)
    (hlimits : (s.tree k).tuning.deadBand ≤ (s.tree k).tuning.hardLimit) :
    s.judgeDeviation k h d = s.modEntry h fun e => { e with driftPending := none } :=
  (if_neg (Nat.not_lt.2 (hdead.trans hlimits))).trans (if_pos hdead)

theorem State.judgeDeviation_of_pending (hdead : (s.tree k).tuning.deadBand < d.natAbs)
    (hhard : d.natAbs ≤ (s.tree k).tuning.hardLimit) (hp : (s.entry h).driftPending = some p)
    (hsign : (0 < p ∧ 0 < d) ∨ (p < 0 ∧ d < 0)) : s.judgeDeviation k h d = s.formTrim k h p d := by
  rw [State.judgeDeviation]
  refine (if_neg (Nat.not_lt.2 hhard)).trans ((if_neg (Nat.not_le.2 hdead)).trans ?_)
  rw [hp]
  exact if_pos (decide_eq_true hsign)

theorem State.judgeDeviation_of_first (hdead : (s.tree k).tuning.deadBand < d.natAbs)
    (hhard : d.natAbs ≤ (s.tree k).tuning.hardLimit)
    (hnot : ∀ p, (s.entry h).driftPending = some p → ¬ ((0 < p ∧ 0 < d) ∨ (p < 0 ∧ d < 0))) :
    s.judgeDeviation k h d = s.modEntry h fun e => { e with driftPending := some d } := by
  rw [State.judgeDeviation]
  refine (if_neg (Nat.not_lt.2 hhard)).trans ((if_neg (Nat.not_le.2 hdead)).trans ?_)
  cases hp : (s.entry h).driftPending with
  | none => rfl
  | some p => exact if_neg (by rw [sameSign, decide_eq_true_iff]; exact hnot p hp)

/-! ## The TRIM (R151, R160) -/

/-- The state a TRIM is formed in: no drift pending (R151). -/
def State.driftTaken (s : State) (h : Nat) : State := s.modEntry h fun e => { e with driftPending := none }

theorem State.entry_driftTaken (hf : (s.entry h).state ≠ .free) :
    (s.driftTaken h).entry h = { s.entry h with driftPending := none } := State.entry_modEntry_of_ne rfl hf

variable {delay g : Nat}

theorem State.formTrim_of_valid (hf : (s.entry h).state ≠ .free) (hdelay : (s.entry h).delay = some delay)
    (hg : (s.entry h).generation = some g)
    (hvalid : (s.tree k).config.validSample (delay + trimAmount p d) = true) :
    s.formTrim k h p d = (s.driftTaken h).offerTrim k h (trimAmount p d) ((g + 1) % 8) := by
  have hentry := State.entry_driftTaken hf
  have heq : s.formTrim k h p d
      = if (s.tree k).config.validSample (((((s.driftTaken h).entry h).delay.getD 0 : Nat) : Int) + trimAmount p d)
        then (s.driftTaken h).offerTrim k h (trimAmount p d) ((((s.driftTaken h).entry h).generation.getD 0 + 1) % 8)
        else (s.driftTaken h).rerange k h .rerange rerangeDelayRange := rfl
  rw [heq, hentry]
  dsimp only
  rw [hdelay, hg]
  exact if_pos hvalid

theorem State.formTrim_of_invalid (hf : (s.entry h).state ≠ .free) (hdelay : (s.entry h).delay = some delay)
    (hvalid : (s.tree k).config.validSample (delay + trimAmount p d) = false) :
    s.formTrim k h p d = (s.driftTaken h).rerange k h .rerange rerangeDelayRange := by
  have hentry := State.entry_driftTaken hf
  have heq : s.formTrim k h p d
      = if (s.tree k).config.validSample (((((s.driftTaken h).entry h).delay.getD 0 : Nat) : Int) + trimAmount p d)
        then (s.driftTaken h).offerTrim k h (trimAmount p d) ((((s.driftTaken h).entry h).generation.getD 0 + 1) % 8)
        else (s.driftTaken h).rerange k h .rerange rerangeDelayRange := rfl
  rw [heq, hentry]
  dsimp only
  rw [hdelay]
  exact if_neg (Bool.eq_false_iff.1 hvalid)

variable {amount : Int} {generation : Nat}

theorem State.offerTrim_of_room (hf : (s.entry h).state ≠ .free) (hroom : (s.tree k).control.queue.length < 32) :
    (s.offerTrim k h amount generation).entry h = { s.entry h with trim := some .queued }
      ∧ ((s.offerTrim k h amount generation).tree k).control.queue
        = insertMessage (.trim h amount generation) (s.tree k).control.queue := by
  have heq : s.offerTrim k h amount generation
      = (s.modControl k fun q => { q with queue := insertMessage (.trim h amount generation) q.queue }).modEntry h
        fun e => { e with trim := some .queued } := if_pos hroom
  rw [heq]
  refine ⟨State.entry_modEntry_of_ne rfl hf, ?_⟩
  rw [State.tree_modEntry, State.tree_modControl, if_pos rfl]

theorem State.offerTrim_of_full (hfull : 32 ≤ (s.tree k).control.queue.length) :
    (∀ j, (s.offerTrim k h amount generation).entry j = s.entry j)
      ∧ ((s.offerTrim k h amount generation).tree k).control.queue = (s.tree k).control.queue
      ∧ ((s.offerTrim k h amount generation).tree k).counters.trimsDropped = (s.tree k).counters.trimsDropped + 1
      ∧ wrote s (s.offerTrim k h amount generation) .trimLost k h [halves (signed16 amount) generation] := by
  have heq : s.offerTrim k h amount generation
      = (s.count k .trimsDropped).writeEvent .trimLost k h [halves (signed16 amount) generation] :=
    if_neg (Nat.not_lt.2 hfull)
  rw [heq, State.tree_writeEvent, State.tree_count, if_pos rfl]
  exact ⟨fun j => State.entry_writeEvent _ _ _ _ _ j, rfl, rfl, wrote_of_writeEvent (u := s.count k .trimsDropped) rfl rfl⟩

/-- An entry sent to RERANGING is named REMOVED first, whatever else follows (R23, R137). -/
theorem State.outQueue_rerange (s : State) (k : TreeId) (h : Nat) (origin : RangingOrigin) (reason : Nat)
    (hroom : s.outQueue.length < 512) : ∃ more, (s.rerange k h origin reason).outQueue
      = s.outQueue ++ .roster k h .removed ((s.entry h).termClass.getD 0) :: more := by
  let u := s.modEntry h fun e => e.toReranging origin
  have hclass : (u.entry h).termClass = (s.entry h).termClass := by
    rw [State.entry_modEntry_of_ne (e := (s.entry h).toReranging origin) rfl nofun]
    rfl
  have hroster : (u.rosterNotice k h .removed).outQueue
      = s.outQueue ++ [.roster k h .removed ((s.entry h).termClass.getD 0)] := by
    rw [State.rosterNotice, hclass]
    exact State.outQueue_makeFrame hroom
  obtain ⟨more, hmore⟩ := (((((EngineFrame.refl k (u.rosterNotice k h .removed)).strike h).modUpkeep
    fun u => { u with probeDue := u.probeDue.filter (· != h) }).dropTrim h).writeEvent .rerange k h
    [halves reason ((s.entry h).delay.getD 0)]).requestRanging h |>.frames
  exact ⟨more, hmore.trans (by rw [hroster, List.append_assoc]; rfl)⟩

end

end Sys2Proof.Machine
end

section
/-! PROOFS. The report on a grant: a hit case by case (R77, R137, R141, R143, R149 to R153, R157, R160), and a miss
(R141, R142, R153, R157). -/

namespace Sys2Proof.Machine

/-! ## A hit on a tree that is not DARK -/

section
variable {s v : State} {k : TreeId} {h arrival : Nat} {c : Cycle} {start : Nat} {b : Burst}

/-- The state after presence and fence, with the entry it leaves and the deviation still to be offered. -/
structure HitSeen (k : TreeId) (h : Nat) (e : Entry) (s w : State) : Prop where
  entry : w.entry h = e
  config : (w.tree k).config = (s.tree k).config
  tuning : (w.tree k).tuning = (s.tree k).tuning
  control : (w.tree k).control = (s.tree k).control
  counters : (w.tree k).counters = (s.tree k).counters
  dark : (w.tree k).upkeep.dark = (s.tree k).upkeep.dark

theorem ObservedFrom.hitSeen (hv : ObservedFrom k s v) {w : State} {e : Entry} (hentry : w.entry h = e)
    (htrees : ∀ t, w.tree t = v.tree t) : HitSeen k h e s w :=
  ⟨hentry, by rw [htrees]; exact hv.config, by rw [htrees]; exact hv.tuning, by rw [htrees]; exact hv.control,
    by rw [htrees]; exact hv.counters, by rw [htrees]; exact hv.dark⟩

theorem ObservedFrom.registered (hv : ObservedFrom k s v) (hs : (s.entry h).state = .registered) {e : Entry}
    (he : ((s.entry h).seenAt c).clearFence c = e) : HitSeen k h e s (v.hitSeen k h c)
      ∧ (v.hitSeen k h c).outQueue = s.outQueue ∧ (v.hitSeen k h c).eventQueue = s.eventQueue := by
  obtain ⟨hentry, htrees, hout, hevents⟩ :=
    State.hitSeen_of_registered (s := v) (k := k) (c := c) (by rw [hv.entry]; exact hs)
  rw [hv.entry, he] at hentry
  exact ⟨hv.hitSeen hentry htrees, hout.trans hv.outQueue, hevents.trans hv.eventQueue⟩

/-- What the scheduler and the host are told when a LOST entry is found (R96, R143). -/
def foundTold (k : TreeId) (h : Nat) (c : Cycle) (s t : State) : Prop :=
  (s.outQueue.length < 512 → t.outQueue = s.outQueue ++ [.roster k h .registered ((s.entry h).termClass.getD 0)])
    ∧ wrote s t .found k h [halves c.toNat ((s.entry h).graceCount.getD 0)]

theorem ObservedFrom.lost (hv : ObservedFrom k s v) (hs : (s.entry h).state = .lost) {e : Entry}
    (he : ((s.entry h).toFound c).clearFence c = e) :
    HitSeen k h e s (v.hitSeen k h c) ∧ foundTold k h c s (v.hitSeen k h c) := by
  obtain ⟨hentry, htrees, hout, hwrote⟩ := State.hitSeen_of_lost (s := v) (k := k) (c := c) (by rw [hv.entry]; exact hs)
  rw [hv.entry, he] at hentry
  rw [hv.entry, hv.outQueue] at hout
  rw [hv.entry, wrote, hv.eventQueue] at hwrote
  exact ⟨hv.hitSeen hentry htrees, hout, hwrote⟩

variable {w : State} {e : Entry}

theorem HitSeen.offered_dark (hw : HitSeen k h e s w) (hdark : (s.tree k).upkeep.dark = true) :
    w.offerDeviation k (grantObservation c h start b) = w :=
  State.offerDeviation_of_dark (by rw [hw.dark]; exact hdark)

theorem HitSeen.offered_taken (hw : HitSeen k h e s w) (hdark : (s.tree k).upkeep.dark = false)
    (harrival : b.arrival = some arrival)
    (htakes : (s.tree k).tuning.hardLimit < ((arrival : Int) - start).natAbs ∨ e.trim = some .none) :
    w.offerDeviation k (grantObservation c h start b) = w.judgeDeviation k h ((arrival : Int) - start) :=
  State.offerDeviation_of_taken (by rw [hw.dark]; exact hdark) harrival
    (filterTakes_grant_iff.2 (by rw [hw.tuning, show w.entry (grantObservation c h start b).handle = e from hw.entry]
                                 exact htakes))

theorem HitSeen.offered_notTaken (hw : HitSeen k h e s w) (hdark : (s.tree k).upkeep.dark = false)
    (harrival : b.arrival = some arrival) (hhard : ((arrival : Int) - start).natAbs ≤ (s.tree k).tuning.hardLimit)
    (htrim : e.trim ≠ some .none) : w.offerDeviation k (grantObservation c h start b) = w := by
  refine State.offerDeviation_of_notTaken (by rw [hw.dark]; exact hdark) harrival (Bool.eq_false_iff.2 fun htakes => ?_)
  have hor := filterTakes_grant_iff.1 htakes
  rw [hw.tuning, show w.entry (grantObservation c h start b).handle = e from hw.entry] at hor
  exact hor.elim (Nat.not_lt.2 hhard) htrim

variable {d : Int}

theorem HitSeen.dead (hw : HitSeen k h e s w) (hf : e.state ≠ .free) (hdead : d.natAbs ≤ (s.tree k).tuning.deadBand)
    (hlimits : (s.tree k).tuning.deadBand ≤ (s.tree k).tuning.hardLimit) :
    w.judgeDeviation k h d = w.driftTaken h ∧ (w.driftTaken h).entry h = { e with driftPending := none } := by
  refine ⟨State.judgeDeviation_of_dead (by rw [hw.tuning]; exact hdead) (by rw [hw.tuning]; exact hlimits), ?_⟩
  rw [State.entry_driftTaken (by rw [hw.entry]; exact hf), hw.entry]

theorem HitSeen.first (hw : HitSeen k h e s w) (hf : e.state ≠ .free) (hdead : (s.tree k).tuning.deadBand < d.natAbs)
    (hhard : d.natAbs ≤ (s.tree k).tuning.hardLimit)
    (hnot : ∀ p, e.driftPending = some p → ¬ ((0 < p ∧ 0 < d) ∨ (p < 0 ∧ d < 0))) :
    (w.judgeDeviation k h d).entry h = { e with driftPending := some d } := by
  rw [State.judgeDeviation_of_first (by rw [hw.tuning]; exact hdead) (by rw [hw.tuning]; exact hhard)
    (by rw [hw.entry]; exact hnot)]
  exact State.entry_modEntry_of_ne (by rw [hw.entry]) hf

theorem HitSeen.hard (hw : HitSeen k h e s w) (hhard : (s.tree k).tuning.hardLimit < d.natAbs) :
    w.judgeDeviation k h d = w.rerange k h .rerange rerangeHardLimit :=
  State.judgeDeviation_of_hard (by rw [hw.tuning]; exact hhard)

theorem HitSeen.rerange (hw : HitSeen k h e s w) (hevents : w.eventQueue = s.eventQueue) (reason : Nat) :
    sameButClaim (e.toReranging .rerange) ((w.rerange k h .rerange reason).entry h)
      ∧ wrote s (w.rerange k h .rerange reason) .rerange k h [halves reason (e.delay.getD 0)] := by
  obtain ⟨hpassed, hwrote⟩ := w.rerange_passed k h .rerange reason
  rw [wrote, hevents, hw.entry] at hwrote
  have hentry := hpassed.entry
  rw [hw.entry] at hentry
  exact ⟨hentry, hwrote⟩

end

/-- A second deviation of the sign of drift pending: a TRIM queued, lost, or the entry reranged (R151, R160). -/
theorem HitSeen.trim {s w : State} {k : TreeId} {h delay g : Nat} {e : Entry} {p d : Int} (hw : HitSeen k h e s w)
    (hf : e.state ≠ .free) (hevents : w.eventQueue = s.eventQueue) (hdelay : e.delay = some delay)
    (hg : e.generation = some g) :
    ((s.tree k).config.validSample (delay + trimAmount p d) = true → (s.tree k).control.queue.length < 32 →
      (w.formTrim k h p d).entry h = { e with driftPending := none, trim := some .queued }
        ∧ ((w.formTrim k h p d).tree k).control.queue
          = insertMessage (.trim h (trimAmount p d) ((g + 1) % 8)) (s.tree k).control.queue)
    ∧ ((s.tree k).config.validSample (delay + trimAmount p d) = true → 32 ≤ (s.tree k).control.queue.length →
      (w.formTrim k h p d).entry h = { e with driftPending := none }
        ∧ ((w.formTrim k h p d).tree k).control.queue = (s.tree k).control.queue
        ∧ ((w.formTrim k h p d).tree k).counters.trimsDropped = (s.tree k).counters.trimsDropped + 1
        ∧ wrote s (w.formTrim k h p d) .trimLost k h [halves (signed16 (trimAmount p d)) ((g + 1) % 8)])
    ∧ ((s.tree k).config.validSample (delay + trimAmount p d) = false →
      sameButClaim (e.toReranging .rerange) ((w.formTrim k h p d).entry h)
        ∧ wrote s (w.formTrim k h p d) .rerange k h [halves 1 delay]) := by
  have hf' : (w.entry h).state ≠ .free := by rw [hw.entry]; exact hf
  have hdelay' : (w.entry h).delay = some delay := by rw [hw.entry]; exact hdelay
  have hg' : (w.entry h).generation = some g := by rw [hw.entry]; exact hg
  have htaken : HitSeen k h { e with driftPending := none } s (w.driftTaken h) :=
    ⟨by rw [State.entry_driftTaken hf', hw.entry], hw.config, hw.tuning, hw.control, hw.counters, hw.dark⟩
  have hqueue : ((w.driftTaken h).tree k).control.queue = (s.tree k).control.queue := by rw [htaken.control]
  refine ⟨fun hvalid hroom => ?_, fun hvalid hfull => ?_, fun hvalid => ?_⟩
  · rw [State.formTrim_of_valid hf' hdelay' hg' (by rw [hw.config]; exact hvalid)]
    obtain ⟨hentry, hinsert⟩ := State.offerTrim_of_room (s := w.driftTaken h) (k := k) (h := h)
      (amount := trimAmount p d) (generation := (g + 1) % 8)
      (by rw [htaken.entry]; exact hf) (by rw [hqueue]; exact hroom)
    rw [htaken.entry] at hentry
    rw [hqueue] at hinsert
    exact ⟨hentry, hinsert⟩
  · rw [State.formTrim_of_valid hf' hdelay' hg' (by rw [hw.config]; exact hvalid)]
    obtain ⟨hentries, hsame, hcount, hwrote⟩ := State.offerTrim_of_full (s := w.driftTaken h) (k := k) (h := h)
      (amount := trimAmount p d) (generation := (g + 1) % 8) (by rw [hqueue]; exact hfull)
    have hbefore : (w.driftTaken h).eventQueue = s.eventQueue := hevents
    rw [wrote, hbefore] at hwrote
    exact ⟨by rw [hentries, htaken.entry], by rw [hsame, hqueue], by rw [hcount, htaken.counters], hwrote⟩
  · rw [State.formTrim_of_invalid hf' hdelay' (by rw [hw.config]; exact hvalid)]
    obtain ⟨hentry, hwrote⟩ := htaken.rerange hevents rerangeDelayRange
    rw [hdelay] at hwrote
    exact ⟨hentry, hwrote⟩

/-! ## The entry a hit has seen, with its fence (R141, R153) -/

section
variable {e : Entry} {c f : Cycle}

theorem Entry.clearFence_of_trimNone (h : e.trim = some .none) : e.clearFence c = e :=
  Entry.clearFence_of_notEffective fun _ hf => absurd (h.symm.trans hf) nofun

theorem Entry.clearFence_of_trimQueued (h : e.trim = some .queued) : e.clearFence c = e :=
  Entry.clearFence_of_notEffective fun _ hf => absurd (h.symm.trans hf) nofun

end

/-- Settles O35: presence and fence of the hit, then the deviation judged, case by case. -/
theorem grantHitRefreshesPresence : Obligations.GrantHitRefreshesPresence := by
  intro k record c i h arrival r b s hreport hkind hhandle houtcome hmatch harrival hlimits d dead hard seen e ahead
    reranged told
  have hit : (s.entry h).inRoster = true → ∃ v, ObservedFrom k s v ∧ exec (.burstReport k record) s
      = .next ((v.hitSeen k h c).offerDeviation k (grantObservation c h r.start b)) := fun hroster => by
    obtain ⟨v, hv, hexec, -⟩ := exec_burstReport_grant hreport hkind hhandle houtcome hroster
    exact ⟨v, hv, by rw [hexec hmatch, State.takeHit_grant]⟩
  have hregistered : (s.entry h).state = .registered → (s.entry h).inRoster = true := fun hs => by
    rw [Entry.inRoster, hs]; rfl
  have hlost : (s.entry h).state = .lost → (s.entry h).inRoster = true := fun hs => by rw [Entry.inRoster, hs]; rfl
  have hseen : ∀ x : Entry, (s.entry h).state = .registered → x.state = seen.state → x.state ≠ .free :=
    fun x hs hx => by rw [hx]; show (s.entry h).state ≠ .free; rw [hs]; exact nofun
  refine ⟨fun hdark => ⟨fun hs htrim hd => ?within, fun p delay g hs htrim hlow hhigh hp hsign hdelay hg => ?trim,
    fun hs htrim hlow hhigh hnot => ?first, fun hs htrim hd => ?found, fun hs hd => ?hard, fun hs hd htrim => ?fenced,
    fun f hs htrim hpast => ⟨fun hd => ?pastWithin, fun hlow hhigh hp => ?pastFirst⟩⟩, fun hdark =>
    ⟨fun hs => ⟨fun hfence => ?darkAhead, fun f htrim hpast => ?darkPast⟩, fun hs htrim => ?darkFound⟩⟩
  case within =>
    obtain ⟨v, hv, hexec⟩ := hit (hregistered hs)
    obtain ⟨hw, -, -⟩ := hv.registered (c := c) hs (e := seen) (Entry.clearFence_of_trimNone htrim)
    obtain ⟨hjudged, hentry⟩ := hw.dead (hseen seen hs rfl) hd hlimits
    rw [hexec, hw.offered_taken hdark harrival (Or.inr htrim), hjudged]
    exact ⟨_, rfl, hentry⟩
  case trim =>
    intro amount
    obtain ⟨v, hv, hexec⟩ := hit (hregistered hs)
    obtain ⟨hw, -, hevents⟩ := hv.registered (c := c) hs (e := seen) (Entry.clearFence_of_trimNone htrim)
    have hformed := State.judgeDeviation_of_pending (s := v.hitSeen k h c) (k := k) (h := h) (d := d) (p := p)
      (by rw [hw.tuning]; exact hlow) (by rw [hw.tuning]; exact hhigh) (by rw [hw.entry]; exact hp) hsign
    obtain ⟨hqueued, hdropped, hranged⟩ := hw.trim (p := p) (d := d) (hseen seen hs rfl) hevents hdelay hg
    rw [hexec, hw.offered_taken hdark harrival (Or.inr htrim), hformed]
    exact ⟨fun hvalid hroom => ⟨_, rfl, hqueued hvalid hroom⟩, fun hvalid hfull => ⟨_, rfl, hdropped hvalid hfull⟩,
      fun hvalid => ⟨_, rfl, hranged hvalid⟩⟩
  case first =>
    obtain ⟨v, hv, hexec⟩ := hit (hregistered hs)
    obtain ⟨hw, -, -⟩ := hv.registered (c := c) hs (e := seen) (Entry.clearFence_of_trimNone htrim)
    rw [hexec, hw.offered_taken hdark harrival (Or.inr htrim)]
    exact ⟨_, rfl, hw.first (hseen seen hs rfl) hlow hhigh hnot⟩
  case found =>
    obtain ⟨v, hv, hexec⟩ := hit (hlost hs)
    obtain ⟨hw, htold⟩ := hv.lost (c := c) hs (e := (s.entry h).toFound c) (Entry.clearFence_of_trimNone htrim)
    obtain ⟨hjudged, hentry⟩ := hw.dead nofun hd hlimits
    rw [hexec, hw.offered_taken hdark harrival (Or.inr htrim), hjudged]
    exact ⟨_, rfl, hentry, htold⟩
  case hard =>
    obtain ⟨v, hv, hexec⟩ := hit (hregistered hs)
    obtain ⟨fence, hfence⟩ := seen.clearFence_eq c
    obtain ⟨hw, hout, hevents⟩ := hv.registered (c := c) hs (e := { seen with trim := fence }) hfence
    obtain ⟨hentry, hwrote⟩ := hw.rerange hevents rerangeHardLimit
    rw [hexec, hw.offered_taken hdark harrival (Or.inl hd), hw.hard hd]
    refine ⟨_, rfl, hentry, hwrote, fun hroom => ?_⟩
    obtain ⟨more, hmore⟩ := (v.hitSeen k h c).outQueue_rerange k h .rerange rerangeHardLimit (by rw [hout]; exact hroom)
    rw [hout, hw.entry] at hmore
    exact ⟨more, hmore⟩
  case fenced =>
    obtain ⟨v, hv, hexec⟩ := hit (hregistered hs)
    have hkept : seen.clearFence c = seen := by
      rcases htrim with htrim | ⟨f, htrim, hahead⟩
      · exact Entry.clearFence_of_trimQueued htrim
      · exact Entry.clearFence_of_ahead htrim hahead
    have hnot : seen.trim ≠ some .none := by
      rcases htrim with htrim | ⟨f, htrim, -⟩ <;> exact fun hnone => absurd (htrim.symm.trans hnone) nofun
    obtain ⟨hw, -, -⟩ := hv.registered (c := c) hs (e := seen) hkept
    rw [hexec, hw.offered_notTaken hdark harrival hd hnot]
    exact ⟨_, rfl, hw.entry⟩
  case pastWithin =>
    obtain ⟨v, hv, hexec⟩ := hit (hregistered hs)
    obtain ⟨hw, -, -⟩ := hv.registered (c := c) hs (e := { seen with trim := some .none })
      (Entry.clearFence_of_past htrim hpast)
    obtain ⟨hjudged, hentry⟩ := hw.dead (hseen _ hs rfl) hd hlimits
    rw [hexec, hw.offered_taken hdark harrival (Or.inr rfl), hjudged]
    exact ⟨_, rfl, hentry⟩
  case pastFirst =>
    obtain ⟨v, hv, hexec⟩ := hit (hregistered hs)
    obtain ⟨hw, -, -⟩ := hv.registered (c := c) hs (e := { seen with trim := some .none })
      (Entry.clearFence_of_past htrim hpast)
    rw [hexec, hw.offered_taken hdark harrival (Or.inr rfl)]
    exact ⟨_, rfl, hw.first (hseen _ hs rfl) hlow hhigh fun p hsome => absurd (hp.symm.trans hsome) nofun⟩
  case darkAhead =>
    obtain ⟨v, hv, hexec⟩ := hit (hregistered hs)
    have hkept : seen.clearFence c = seen := by
      by_cases heffective : ∃ f, seen.trim = some (.effective f)
      · obtain ⟨f, htrim⟩ := heffective
        exact Entry.clearFence_of_ahead htrim ((hfence f).resolve_left (not_not.2 htrim))
      · exact Entry.clearFence_of_notEffective (not_exists.1 heffective)
    obtain ⟨hw, -, -⟩ := hv.registered (c := c) hs (e := seen) hkept
    rw [hexec, hw.offered_dark hdark]
    exact ⟨_, rfl, hw.entry⟩
  case darkPast =>
    obtain ⟨v, hv, hexec⟩ := hit (hregistered hs)
    obtain ⟨hw, -, -⟩ := hv.registered (c := c) hs (e := { seen with trim := some .none })
      (Entry.clearFence_of_past htrim hpast)
    rw [hexec, hw.offered_dark hdark]
    exact ⟨_, rfl, hw.entry⟩
  case darkFound =>
    obtain ⟨v, hv, hexec⟩ := hit (hlost hs)
    obtain ⟨hw, htold⟩ := hv.lost (c := c) hs (e := (s.entry h).toFound c) (Entry.clearFence_of_trimNone htrim)
    rw [hexec, hw.offered_dark hdark]
    exact ⟨_, rfl, hw.entry, htold⟩

/-! ## A miss (R141, R142, R153) -/

section
variable {s : State} {k : TreeId} {h m : Nat}

theorem State.missPresence_of_dark (hdark : (s.tree k).upkeep.dark = true) : s.missPresence k h = s := if_pos hdark

theorem State.missPresence_of_below (hdark : (s.tree k).upkeep.dark = false) (hm : (s.entry h).missCount = some m)
    (hbelow : m + 1 < (s.tree k).tuning.lostThreshold) :
    s.missPresence k h = s.modEntry h fun e => { e with missCount := some (m + 1) } := by
  have hmin : min ((s.entry h).missCount.getD 0 + 1) (s.tree k).tuning.lostThreshold = m + 1 := by
    rw [hm]
    exact Nat.min_eq_left hbelow.le
  unfold State.missPresence
  dsimp only
  rw [hmin, if_neg (Bool.eq_false_iff.1 hdark)]
  exact if_neg fun hor => absurd hor.2 (Nat.not_le.2 hbelow)

/-- At the threshold a REGISTERED entry is LOST (R142). -/
theorem State.missPresence_of_reached (hdark : (s.tree k).upkeep.dark = false) (hm : (s.entry h).missCount = some m)
    (hs : (s.entry h).state = .registered) (hreached : (s.tree k).tuning.lostThreshold ≤ m + 1) :
    s.missPresence k h
      = (((s.modEntry h fun e => { e with missCount := some (s.tree k).tuning.lostThreshold }).modEntry h
            fun e => e.toLost (s.tree k).n).rosterNotice k h .lost).writeEvent .lost k h
          [oneField ((s.entry h).lastObserved.getD 0).toNat] := by
  have hmin : min ((s.entry h).missCount.getD 0 + 1) (s.tree k).tuning.lostThreshold
      = (s.tree k).tuning.lostThreshold := by
    rw [hm]
    exact Nat.min_eq_right hreached
  have hcounted : (s.modEntry h fun e => { e with missCount := some (s.tree k).tuning.lostThreshold }).entry h
      = { s.entry h with missCount := some (s.tree k).tuning.lostThreshold } :=
    State.entry_modEntry_of_ne rfl (by show (s.entry h).state ≠ .free; rw [hs]; exact nofun)
  have hlost : (((s.modEntry h fun e => { e with missCount := some (s.tree k).tuning.lostThreshold }).modEntry h
      fun e => e.toLost (s.tree k).n).rosterNotice k h .lost).entry h
      = { s.entry h with missCount := some (s.tree k).tuning.lostThreshold }.toLost (s.tree k).n := by
    rw [State.rosterNotice, State.entry_makeFrame]
    exact State.entry_modEntry_of_ne (by rw [hcounted]) nofun
  unfold State.missPresence
  dsimp only
  rw [hmin, if_neg (Bool.eq_false_iff.1 hdark), hcounted]
  refine (if_pos ⟨hs, le_rfl⟩).trans ?_
  rfl

end

/-- Settles O36: the fence of the miss, its count, and the entry LOST at the threshold. -/
theorem missedGrantCountsTowardLost : Obligations.MissedGrantCountsTowardLost := by
  intro k record c i h m r b s hreport hkind hhandle houtcome hmiss hs hm trim hkeeps hpasses
  have hfence : (s.entry h).clearFence c = { s.entry h with trim := trim } := by
    by_cases hahead : ∀ f, (s.entry h).trim = some (.effective f) →
        1 ≤ Cycle.distance c f ∧ Cycle.distance c f ≤ 32767
    · rw [hkeeps hahead]
      by_cases heffective : ∃ f, (s.entry h).trim = some (.effective f)
      · obtain ⟨f, hf⟩ := heffective
        exact Entry.clearFence_of_ahead hf (hahead f hf)
      · exact Entry.clearFence_of_notEffective (not_exists.1 heffective)
    · obtain ⟨f, hf⟩ := not_forall.1 hahead
      obtain ⟨htrim, hpast⟩ := Classical.not_imp.1 hf
      rw [hpasses f htrim hpast]
      exact Entry.clearFence_of_past htrim hpast
  obtain ⟨v, hv, -, hexec⟩ := exec_burstReport_grant hreport hkind hhandle houtcome (by rw [Entry.inRoster, hs]; rfl)
  let w := v.modEntry h fun e => e.clearFence c
  have hw : w.entry h = { s.entry h with trim := trim } := by
    refine State.entry_modEntry_of_ne (by rw [hv.entry]; exact hfence) ?_
    show (s.entry h).state ≠ .free
    rw [hs]
    exact nofun
  have htaken : exec (.burstReport k record) s = .next (w.missPresence k h) := hexec hmiss
  have hwm : (w.entry h).missCount = some m := by rw [hw]; exact hm
  have hws : (w.entry h).state = .registered := by rw [hw]; exact hs
  have htuning : (w.tree k).tuning = (s.tree k).tuning := hv.tuning
  have hwn : (w.tree k).n = (s.tree k).n := hv.n
  have hwdark : (w.tree k).upkeep.dark = (s.tree k).upkeep.dark := hv.dark
  rw [htaken]
  refine ⟨fun hdark hbelow => ?below, fun hdark hreached => ?reached, fun hdark => ?dark⟩
  case below =>
    rw [State.missPresence_of_below (s := w) (hwdark.trans hdark) hwm (by rw [htuning]; exact hbelow)]
    have hcounted : (w.modEntry h fun e => { e with missCount := some (m + 1) }).entry h
        = { s.entry h with trim := trim, missCount := some (m + 1) } :=
      State.entry_modEntry_of_ne (by rw [hw]) (by show (s.entry h).state ≠ .free; rw [hs]; exact nofun)
    exact ⟨_, rfl, hcounted, hv.outQueue, hv.eventQueue⟩
  case reached =>
    let u := (w.modEntry h fun e => { e with missCount := some (s.tree k).tuning.lostThreshold }).modEntry h
      fun e => e.toLost (s.tree k).n
    have heq := State.missPresence_of_reached (s := w) (hwdark.trans hdark) hwm hws (by rw [htuning]; exact hreached)
    rw [htuning, hwn] at heq
    have hcounted : (w.modEntry h fun e => { e with missCount := some (s.tree k).tuning.lostThreshold }).entry h
        = { s.entry h with trim := trim, missCount := some (s.tree k).tuning.lostThreshold } :=
      State.entry_modEntry_of_ne (by rw [hw]) (by show (s.entry h).state ≠ .free; rw [hs]; exact nofun)
    have hu : u.entry h = { s.entry h with
        state := .lost, missCount := some (s.tree k).tuning.lostThreshold, lostSince := some (s.tree k).n,
        graceCount := some 0, trim := trim } := State.entry_modEntry_of_ne (by rw [hcounted]; rfl) nofun
    have huout : u.outQueue = s.outQueue := hv.outQueue
    have huevents : u.eventQueue = s.eventQueue := hv.eventQueue
    rw [heq, hw]
    refine ⟨_, rfl, ?_, fun hroom => ?_,
      wrote_of_writeEvent (u := u.rosterNotice k h .lost) ((State.eventQueue_makeFrame _ _).trans huevents) rfl⟩
    · rw [State.entry_writeEvent, State.rosterNotice, State.entry_makeFrame]
      exact hu
    · rw [State.outQueue_writeEvent, State.rosterNotice]
      refine (State.outQueue_makeFrame (s := u) (by rw [huout]; exact hroom)).trans ?_
      rw [hu, huout]
  case dark =>
    rw [State.missPresence_of_dark (s := w) (hwdark.trans hdark)]
    exact ⟨_, rfl, hw, hv.outQueue, hv.eventQueue⟩

end Sys2Proof.Machine
end

section
/-! PROOFS. The probe test of a boundary, and the judgement of a PROBE echo (R143, R145 to R148). -/

namespace Sys2Proof.Machine

/-! ## The probe test (R145, R146) -/

section
variable {s : State} {k : TreeId} {h : Nat} {c n : Cycle} {e : Entry} {interval : Nat}

theorem Entry.boundAge_lastObserved (hc : e.lastObserved = some c) : (e.boundAge n).lastObserved
    = some (if 32768 ≤ Cycle.distance c n then n - 32768 else c) := by
  rw [Entry.boundAge, hc]
  rfl

/-- An age bounded at 32,768 cycles passes the same intervals as the age itself (R146). -/
theorem le_distance_bounded_iff (hinterval : interval ≤ 32768) :
    interval ≤ Cycle.distance (if 32768 ≤ Cycle.distance c n then n - 32768 else c) n
      ↔ interval ≤ Cycle.distance c n := by
  split
  case isTrue hold =>
    have hbound : Cycle.distance (n - 32768) n = 32768 := by
      rw [Cycle.distance, sub_sub_cancel]
      rfl
    exact ⟨fun _ => hinterval.trans hold, fun _ => by rw [hbound]; exact hinterval⟩
  case isFalse => exact Iff.rfl

/-- The state whose entry's age is bounded (R146). -/
def State.ageBounded (s : State) (k : TreeId) (h : Nat) : State := s.modEntry h fun e => e.boundAge (s.tree k).n

theorem State.entry_ageBounded (hroster : (s.entry h).inRoster = true) :
    (s.ageBounded k h).entry h = (s.entry h).boundAge (s.tree k).n :=
  State.entry_modEntry_of_ne rfl fun hfree => by
    have hstate : (s.entry h).state = .free := hfree
    rw [Entry.inRoster, hstate] at hroster
    exact nomatch hroster

/-- An entry joins the Probe Due list when it is due, not listed yet, and has no probe in flight (R145, R146). -/
theorem State.testProbe_due (hroster : (s.entry h).inRoster = true)
    (hflight : (s.entry h).probeInFlight = some false) (hlisted : h ∉ (s.tree k).upkeep.probeDue)
    (hdue : ((s.entry h).boundAge (s.tree k).n).probeDue (s.tree k).n (s.tree k).tuning.probeInterval = true) :
    s.testProbe k h = (s.ageBounded k h).modUpkeep k fun u => { u with probeDue := u.probeDue ++ [h] } := by
  rw [State.testProbe, if_pos hroster]
  refine if_pos ?_
  have hentry := State.entry_ageBounded (k := k) hroster
  rw [State.ageBounded] at hentry
  rw [hentry, Bool.and_eq_true, Bool.and_eq_true, Bool.not_eq_true', List.contains_eq_mem, decide_eq_false_iff_not]
  exact ⟨⟨beq_iff_eq.2 hflight, hlisted⟩, hdue⟩

theorem State.testProbe_notDue (hroster : (s.entry h).inRoster = true)
    (hnot : (s.entry h).probeInFlight ≠ some false ∨ h ∈ (s.tree k).upkeep.probeDue
      ∨ ((s.entry h).boundAge (s.tree k).n).probeDue (s.tree k).n (s.tree k).tuning.probeInterval = false) :
    s.testProbe k h = s.ageBounded k h := by
  rw [State.testProbe, if_pos hroster]
  refine if_neg fun hall => ?_
  have hentry := State.entry_ageBounded (k := k) hroster
  rw [State.ageBounded] at hentry
  rw [hentry, Bool.and_eq_true, Bool.and_eq_true, Bool.not_eq_true', List.contains_eq_mem,
    decide_eq_false_iff_not] at hall
  obtain ⟨⟨hflight, hlisted⟩, hdue⟩ := hall
  rcases hnot with hf | hl | hd
  · exact hf (beq_iff_eq.1 hflight)
  · exact hlisted hl
  · exact Bool.false_ne_true (hd.symm.trans hdue)

theorem State.entry_testProbe (hroster : (s.entry h).inRoster = true) :
    (s.testProbe k h).entry h = (s.entry h).boundAge (s.tree k).n := by
  by_cases hnot : (s.entry h).probeInFlight ≠ some false ∨ h ∈ (s.tree k).upkeep.probeDue
      ∨ ((s.entry h).boundAge (s.tree k).n).probeDue (s.tree k).n (s.tree k).tuning.probeInterval = false
  · rw [State.testProbe_notDue hroster hnot, State.entry_ageBounded hroster]
  · obtain ⟨hflight, hlisted, hdue⟩ : _ ∧ _ ∧ _ := by rwa [not_or, not_or, not_not, Bool.not_eq_false] at hnot
    rw [State.testProbe_due hroster hflight hlisted hdue, State.entry_modUpkeep, State.entry_ageBounded hroster]

/-- What the probe test does to the Probe Due list, the due condition being given (R145, R146). -/
theorem State.probeDue_testProbe {p : Prop} [Decidable p] (hroster : (s.entry h).inRoster = true)
    (hflight : (s.entry h).probeInFlight = some false) (hlisted : h ∉ (s.tree k).upkeep.probeDue)
    (hp : ((s.entry h).boundAge (s.tree k).n).probeDue (s.tree k).n (s.tree k).tuning.probeInterval = true ↔ p) :
    ((s.testProbe k h).tree k).upkeep.probeDue
      = if p then (s.tree k).upkeep.probeDue ++ [h] else (s.tree k).upkeep.probeDue := by
  by_cases hdue : p
  · rw [State.testProbe_due hroster hflight hlisted (hp.2 hdue), State.tree_modUpkeep, if_pos rfl, if_pos hdue]
    rfl
  · rw [State.testProbe_notDue hroster (.inr (.inr (Bool.eq_false_iff.2 (mt hp.1 hdue)))), if_neg hdue]
    rfl

theorem Entry.probeDue_registered (hs : e.state = .registered) (hc : e.lastObserved = some c)
    (hinterval : interval ≤ 32768) :
    (e.boundAge n).probeDue n interval = true ↔ interval ≤ Cycle.distance c n := by
  have hstate : (e.boundAge n).state = .registered := hs
  rw [Entry.probeDue, hstate]
  dsimp only
  rw [Entry.boundAge_lastObserved hc, decide_eq_true_iff]
  exact le_distance_bounded_iff hinterval

theorem Entry.probeDue_lost (hs : e.state = .lost) (hc : e.lostSince = some c) :
    (e.boundAge n).probeDue n interval = true
      ↔ Cycle.distance c n ≠ 0 ∧ Cycle.distance c n % interval = 0 := by
  have hstate : (e.boundAge n).state = .lost := hs
  have hsince : (e.boundAge n).lostSince = some c := hc
  rw [Entry.probeDue, hstate]
  dsimp only
  rw [hsince, Bool.and_eq_true, bne_iff_ne, beq_iff_eq]
  rfl

end

/-! ## A PROBE echo (R78, R143, R147, R148) -/

/-- The observation of a PROBE echo (R140, R147). -/
def probeObservation (c : Cycle) (h start : Nat) (b : Burst) : Observation :=
  { cycle := c, handle := h, start := start, probe := true, outcome := b }

section
variable {s : State} {k : TreeId} {h arrival start : Nat} {c : Cycle} {b : Burst}

/-- The state a PROBE echo's hit finds: that of before, but for the probe in flight, the ring and the tallies. -/
structure ProbedFrom (k : TreeId) (h : Nat) (s v : State) : Prop where
  entry : v.entry h = { s.entry h with probeInFlight := some false }
  tuning : (v.tree k).tuning = (s.tree k).tuning
  eventQueue : v.eventQueue = s.eventQueue

/-- A matching report on the PROBE echo slot of a rostered entry is a hit, the probe no longer in flight (R147). -/
theorem exec_burstReport_probe {record : ReportRecord} {i : Nat} {r : Reservation}
    (hreport : reportsOn s k record c i r b) (hkind : r.kind = .echo) (hpurpose : r.purpose = some .probe)
    (hhandle : r.handle = some h) (houtcome : r.outcome = none) (hroster : (s.entry h).inRoster = true)
    (hmatch : b.matchesHandle h = true) : ∃ v, ProbedFrom k h s v
      ∧ exec (.burstReport k record) s = .next (v.takeHit k (probeObservation c h r.start b)) := by
  obtain ⟨f, hf⟩ := s.takeOutcome_eq (k := k) c i r b
  let v := (s.modRing k f).modEntry h fun e => { e with probeInFlight := some false }
  have hentry : v.entry h = { s.entry h with probeInFlight := some false } :=
    State.entry_modEntry_of_ne (s := s.modRing k f) rfl fun hfree => by
      have hstate : (s.entry h).state = .free := hfree
      rw [Entry.inRoster, hstate] at hroster
      exact nomatch hroster
  have hexec : exec (.burstReport k record) s = .next (v.observe k (probeObservation c h r.start b)) := by
    rw [exec_burstReport_of_reportsOn hreport,
      State.takeReport_first (Reservation.takesOutcome_iff.2 (Or.inr hkind)) houtcome, hf, State.handOutcome, hkind,
      hpurpose, hhandle]
    dsimp only [Option.getD_some]
    rw [if_pos (show ((s.modRing k f).entry h).inRoster = true from hroster)]
    rfl
  have htree : (v.tallied k (probeObservation c h r.start b)).tree k
      = { v.tree k with upkeep := { (v.tree k).upkeep with
            tallies := tallyObservation (v.tree k).upkeep.tallies c b.result.light } } := by
    rw [State.tallied, State.tree_modUpkeep, if_pos rfl]
    rfl
  have htuning : (v.tree k).tuning = (s.tree k).tuning := by
    rw [State.tree_modEntry, State.tree_modRing]
  refine ⟨v.tallied k (probeObservation c h r.start b), ⟨hentry, by rw [htree]; exact htuning, rfl⟩, ?_⟩
  rw [hexec, State.observe_of_hit (o := probeObservation c h r.start b) ?_ hmatch]
  show (v.entry h).inRoster = true
  rw [hentry]
  exact hroster

/-- A deviation within the dead band changes at most the drift pending of its entry (R149, R150). -/
theorem State.offerDeviation_dead {o : Observation} (harrival : o.outcome.arrival = some arrival)
    (hdead : ((arrival : Int) - o.start).natAbs ≤ (s.tree k).tuning.deadBand)
    (hlimits : (s.tree k).tuning.deadBand ≤ (s.tree k).tuning.hardLimit)
    (hf : (s.entry o.handle).state ≠ .free) :
    (∃ p, (s.offerDeviation k o).entry o.handle = { s.entry o.handle with driftPending := p })
      ∧ (s.offerDeviation k o).eventQueue = s.eventQueue := by
  by_cases hdark : (s.tree k).upkeep.dark = true
  · rw [State.offerDeviation_of_dark hdark]
    exact ⟨⟨_, rfl⟩, rfl⟩
  have hlit := Bool.eq_false_iff.2 hdark
  by_cases htakes :
      filterTakes (s.tree k).tuning.hardLimit (s.entry o.handle) o ((arrival : Int) - o.start) = true
  · rw [State.offerDeviation_of_taken hlit harrival htakes, State.judgeDeviation_of_dead hdead hlimits]
    exact ⟨⟨none, State.entry_driftTaken hf⟩, rfl⟩
  · rw [State.offerDeviation_of_notTaken hlit harrival (Bool.eq_false_iff.2 htakes)]
    exact ⟨⟨_, rfl⟩, rfl⟩

/-- What a hit leaves of a rostered entry, before its status is judged: it is REGISTERED and seen (R141, R143). -/
structure SeenEntry (c : Cycle) (e e' : Entry) : Prop where
  state : e'.state = .registered
  missCount : e'.missCount = some 0
  lastObserved : e'.lastObserved = some c
  probeInFlight : e'.probeInFlight = e.probeInFlight
  leavingSeen : e'.leavingSeen = e.leavingSeen
  toDeparting : ∀ reason, e'.toDeparting reason = e.toDeparting reason

theorem SeenEntry.mark {e e' : Entry} (he : SeenEntry c e e') : e'.mark = e.mark := by
  have hmark : (e'.toDeparting .leave).mark = (e.toDeparting .leave).mark := by rw [he.toDeparting]
  exact hmark

theorem SeenEntry.of_clearFence {e e' : Entry} (he : SeenEntry c e e') : SeenEntry c e (e'.clearFence c) := by
  obtain ⟨trim, htrim⟩ := e'.clearFence_eq c
  rw [htrim]
  exact ⟨he.state, he.missCount, he.lastObserved, he.probeInFlight, he.leavingSeen, he.toDeparting⟩

theorem SeenEntry.of_driftPending {e e' : Entry} (he : SeenEntry c e e') (p : Option Int) :
    SeenEntry c e { e' with driftPending := p } :=
  ⟨he.state, he.missCount, he.lastObserved, he.probeInFlight, he.leavingSeen, he.toDeparting⟩

theorem SeenEntry.of_registered {e : Entry} (hs : e.state = .registered) : SeenEntry c e (e.seenAt c) :=
  ⟨hs, rfl, rfl, rfl, rfl, fun _ => rfl⟩

theorem SeenEntry.of_lost {e : Entry} : SeenEntry c e (e.toFound c) := ⟨rfl, rfl, rfl, rfl, rfl, fun _ => rfl⟩

/-- A hit within the dead band, up to the judgement of its status; only a LOST entry's finding writes an event. -/
theorem State.seen_of_hit (hroster : (s.entry h).inRoster = true) (harrival : b.arrival = some arrival)
    (hlimits : (s.tree k).tuning.deadBand ≤ (s.tree k).tuning.hardLimit)
    (hdead : ((arrival : Int) - start).natAbs ≤ (s.tree k).tuning.deadBand) :
    let u := (s.hitSeen k h c).offerDeviation k (probeObservation c h start b)
    SeenEntry c (s.entry h) (u.entry h)
      ∧ ((s.entry h).state ≠ .lost → u.eventQueue = s.eventQueue) := by
  have key : SeenEntry c (s.entry h) ((s.hitSeen k h c).entry h)
      ∧ (∀ v, (s.hitSeen k h c).tree v = s.tree v)
      ∧ ((s.entry h).state ≠ .lost → (s.hitSeen k h c).eventQueue = s.eventQueue) := by
    cases hs : (s.entry h).state with
    | registered =>
      obtain ⟨hentry, htrees, -, hevents⟩ := State.hitSeen_of_registered (k := k) (c := c) hs
      rw [hentry]
      exact ⟨(SeenEntry.of_registered hs).of_clearFence, htrees, fun _ => hevents⟩
    | lost =>
      obtain ⟨hentry, htrees, -, -⟩ := State.hitSeen_of_lost (k := k) (c := c) hs
      rw [hentry]
      exact ⟨SeenEntry.of_lost.of_clearFence, htrees, fun hne => absurd rfl hne⟩
    | free | reserved | candidate | settling | reranging | hushed | departing =>
      rw [Entry.inRoster, hs] at hroster
      exact nomatch hroster
  obtain ⟨hseen, htrees, hevents⟩ := key
  obtain ⟨⟨p, hp⟩, hkept⟩ := State.offerDeviation_dead (s := s.hitSeen k h c) (k := k)
    (o := probeObservation c h start b) harrival (by rw [htrees]; exact hdead) (by rw [htrees]; exact hlimits)
    (by show ((s.hitSeen k h c).entry h).state ≠ .free; rw [hseen.state]; exact nofun)
  refine ⟨?_, fun hne => hkept.trans (hevents hne)⟩
  have hentry : ((s.hitSeen k h c).offerDeviation k (probeObservation c h start b)).entry h
      = { (s.hitSeen k h c).entry h with driftPending := p } := hp
  rw [hentry]
  exact hseen.of_driftPending p

variable {status : EchoStatus}

/-- A status OK, or a first LEAVING, is noted (R148). -/
theorem State.judgeStatus_noted (hs : (s.entry h).state = .registered)
    (hnote : status = .ok ∨ (s.entry h).leavingSeen ≠ some true) :
    (s.judgeStatus k h (some status)).entry h = { s.entry h with leavingSeen := some (status == .leaving) } := by
  have hroster : (s.entry h).inRoster = true := by rw [Entry.inRoster, hs]; rfl
  have hf : (s.entry h).state ≠ .free := by rw [hs]; exact nofun
  cases status with
  | ok =>
    have heq : s.judgeStatus k h (some .ok) = s.modEntry h fun e => { e with leavingSeen := some false } :=
      if_pos hroster
    rw [heq]
    exact State.entry_modEntry_of_ne rfl hf
  | leaving =>
    have heq : s.judgeStatus k h (some .leaving) = s.modEntry h fun e => { e with leavingSeen := some true } :=
      (if_pos hroster).trans (if_neg (hnote.resolve_left nofun))
    rw [heq]
    exact State.entry_modEntry_of_ne rfl hf

theorem State.judgeStatus_leaves (hs : (s.entry h).state = .registered)
    (hseen : (s.entry h).leavingSeen = some true) : s.judgeStatus k h (some .leaving) = s.leave k h := by
  have hroster : (s.entry h).inRoster = true := by rw [Entry.inRoster, hs]; rfl
  exact (if_pos hroster).trans (if_pos hseen)

/-- A leave: DEPARTING with one RELEASE, LEFT written (R148, R165). -/
theorem State.leave_outcome (s : State) (k : TreeId) (h : Nat) :
    sameButClaim { (s.entry h).toDeparting .leave with owed := some { kind := .release, sends := 1 } }
        ((s.leave k h).entry h)
      ∧ wrote s (s.leave k h) .left k h (markWords ((s.entry h).mark.getD 0) 0) := by
  obtain ⟨hpassed, hevents⟩ := s.departEntry_passed k h .leave 1
  refine ⟨?_, wrote_of_writeEvent hevents rfl⟩
  have hentry : (s.leave k h).entry h = (s.departEntry k h .leave 1).entry h := State.entry_writeEvent _ _ _ _ _ _
  rw [hentry]
  exact hpassed.entry

/-- What a hit on a PROBE echo does: the second LEAVING of a LOST entry comes first, else presence, deviation and status
in turn (R143, R148). -/
theorem State.takeHit_leaves (hs : (s.entry h).state = .lost) (hseen : (s.entry h).leavingSeen = some true)
    (hstatus : (probeObservation c h start b).status = some .leaving) :
    s.takeHit k (probeObservation c h start b) = s.leave k h := by
  rw [State.takeHit]
  exact if_pos ⟨hs, hstatus, hseen⟩

theorem State.takeHit_judged (hstatus : (probeObservation c h start b).status = some status)
    (hnot : ¬ ((s.entry h).state = .lost ∧ status = .leaving ∧ (s.entry h).leavingSeen = some true)) :
    s.takeHit k (probeObservation c h start b)
      = ((s.hitSeen k h c).offerDeviation k (probeObservation c h start b)).judgeStatus k h (some status) := by
  rw [State.takeHit, hstatus]
  exact if_neg fun hall => hnot ⟨hall.1, Option.some.inj hall.2.1, hall.2.2⟩

end

/-- Settles O37: the probe test through its due condition, and the echo through presence, deviation and status. -/
theorem probesAreMadeDueAndTheirEchoesJudged : Obligations.ProbesAreMadeDueAndTheirEchoesJudged := by
  refine ⟨fun k h s hroster hinterval => ⟨fun c hc => ?bounded, fun hnot => ?stays, fun hflight hlisted =>
    ⟨fun c hs hc => ?registered, fun c hs hc => ?lost⟩⟩, ?echo⟩
  case bounded => rw [State.entry_testProbe hroster, Entry.boundAge_lastObserved hc]
  case stays =>
    rw [State.testProbe_notDue hroster (hnot.imp_right Or.inl)]
    rfl
  case registered =>
    exact State.probeDue_testProbe hroster hflight hlisted (Entry.probeDue_registered hs hc hinterval)
  case lost => exact State.probeDue_testProbe hroster hflight hlisted (Entry.probeDue_lost hs hc)
  case echo =>
    intro k record c i h arrival g status r b s hreport hkind hpurpose hhandle houtcome hmatch harrival hpayload hroster
      hlimits hdead
    obtain ⟨v, hv, hexec⟩ := exec_burstReport_probe hreport hkind hpurpose hhandle houtcome hroster hmatch
    have hstatus : (probeObservation c h r.start b).status = some status := by
      show (match true, b.payload with | true, some (.echo _ status _) => some status | _, _ => none) = some status
      rw [hpayload]
    have hleaving : (v.entry h).leavingSeen = (s.entry h).leavingSeen := by rw [hv.entry]
    have hdeparting : ∀ reason, (v.entry h).toDeparting reason = (s.entry h).toDeparting reason := fun reason => by
      rw [hv.entry]
      rfl
    have hmark : (v.entry h).mark = (s.entry h).mark := by rw [hv.entry]
    obtain ⟨hseen, hevents⟩ := State.seen_of_hit (s := v) (k := k) (c := c) (start := r.start) (b := b)
      (by rw [hv.entry]; exact hroster) harrival (by rw [hv.tuning]; exact hlimits) (by rw [hv.tuning]; exact hdead)
    refine ⟨_, hexec, fun hnote => ?_, fun hleave hagain => ?_⟩
    · have hnotAgain : ¬ ((v.entry h).state = .lost ∧ status = .leaving ∧ (v.entry h).leavingSeen = some true) :=
        fun hall => hnote.elim (fun hok => nomatch hok.symm.trans hall.2.1)
          fun hne => hne (hleaving.symm.trans hall.2.2)
      rw [State.takeHit_judged hstatus hnotAgain,
        State.judgeStatus_noted hseen.state (by rw [hseen.leavingSeen, hleaving]; exact hnote)]
      exact ⟨hseen.state, hseen.missCount, hseen.lastObserved, hseen.probeInFlight.trans (by rw [hv.entry]), rfl⟩
    · subst hleave
      by_cases hlost : (v.entry h).state = .lost
      · rw [State.takeHit_leaves hlost (hleaving.trans hagain) hstatus]
        obtain ⟨hentry, hwrote⟩ := v.leave_outcome k h
        rw [hdeparting] at hentry
        rw [wrote, hv.eventQueue, hmark] at hwrote
        exact ⟨hentry, hwrote⟩
      · rw [State.takeHit_judged hstatus fun hall => hlost hall.1,
          State.judgeStatus_leaves hseen.state (by rw [hseen.leavingSeen, hleaving]; exact hagain)]
        obtain ⟨hentry, hwrote⟩ :=
          ((v.hitSeen k h c).offerDeviation k (probeObservation c h r.start b)).leave_outcome k h
        rw [hseen.toDeparting, hdeparting] at hentry
        rw [wrote, hevents hlost, hv.eventQueue, hseen.mark, hmark] at hwrote
        exact ⟨hentry, hwrote⟩

end Sys2Proof.Machine
end

section
/-! PROOFS. HELLO intake: the HELLOs that change no entry (R24, R111 to R118). -/

namespace Sys2Proof.Machine

/-! ## What a discarded HELLO leaves (R112) -/

/-- No entry, mark, bar, frame, pooled handle or slot changes, and neither count of the HELLOs. -/
structure HelloKept (k : TreeId) (s u : State) : Prop where
  entries : u.entries = s.entries
  markIndex : u.markIndex = s.markIndex
  bars : u.bars = s.bars
  outQueue : u.outQueue = s.outQueue
  helloDiscarded : (u.tree k).counters.helloDiscarded = (s.tree k).counters.helloDiscarded
  helloOk : (u.tree k).counters.helloOk = (s.tree k).counters.helloOk
  freePool : (u.tree k).freePool = (s.tree k).freePool
  calendar : (u.tree k).calendar = (s.tree k).calendar

section
variable {s u : State} {k : TreeId}

theorem HelloKept.refl (k : TreeId) (s : State) : HelloKept k s s := ⟨rfl, rfl, rfl, rfl, rfl, rfl, rfl, rfl⟩

theorem HelloKept.writeEvent (hu : HelloKept k s u) (kind : EventKind) (v : TreeId) (h : Nat)
    (extra : List EventWord) : HelloKept k s (u.writeEvent kind v h extra) := by
  have htree := State.tree_writeEvent u kind v h extra k
  exact ⟨(State.entries_writeEvent ..).trans hu.entries, (State.markIndex_writeEvent ..).trans hu.markIndex,
    (State.bars_writeEvent ..).trans hu.bars, (State.outQueue_writeEvent ..).trans hu.outQueue,
    by rw [htree]; exact hu.helloDiscarded, by rw [htree]; exact hu.helloOk, by rw [htree]; exact hu.freePool,
    by rw [htree]; exact hu.calendar⟩

/-- A change of the tree's parts that a HELLO's discard leaves, alone, keeps the rest. -/
theorem HelloKept.of_tree {x : Tree} (hu : HelloKept k s u) {w : State} (hentries : w.entries = u.entries)
    (hindex : w.markIndex = u.markIndex) (hbars : w.bars = u.bars) (hout : w.outQueue = u.outQueue)
    (htree : w.tree k = x) (hdiscarded : x.counters.helloDiscarded = (u.tree k).counters.helloDiscarded)
    (hok : x.counters.helloOk = (u.tree k).counters.helloOk) (hpool : x.freePool = (u.tree k).freePool)
    (hcalendar : x.calendar = (u.tree k).calendar) : HelloKept k s w := by
  subst htree
  exact ⟨hentries.trans hu.entries, hindex.trans hu.markIndex, hbars.trans hu.bars, hout.trans hu.outQueue,
    hdiscarded.trans hu.helloDiscarded, hok.trans hu.helloOk, hpool.trans hu.freePool,
    hcalendar.trans hu.calendar⟩

theorem State.tree_enrollBusy (s : State) (k : TreeId) : (s.count k .enrollBusy).tree k = { s.tree k with
    counters := { (s.tree k).counters with enrollBusy := (s.tree k).counters.enrollBusy + 1 } } := by
  rw [State.tree_count, if_pos rfl]
  rfl

theorem HelloKept.enrollBusy (hu : HelloKept k s u) : HelloKept k s (u.count k .enrollBusy) :=
  hu.of_tree rfl rfl rfl rfl (u.tree_enrollBusy k) rfl rfl rfl rfl

theorem State.tree_discardHello (s : State) (k : TreeId) : (s.discardHello k).tree k = { s.tree k with
    counters := { (s.tree k).counters with helloDiscarded := (s.tree k).counters.helloDiscarded + 1 } } := by
  rw [State.discardHello, State.tree_count, if_pos rfl]
  rfl

theorem HelloKept.discarded (hu : HelloKept k s u) : helloDropped k s (u.discardHello k) := by
  have htree := u.tree_discardHello k
  refine ⟨?_, ?_, hu.entries, hu.markIndex, hu.bars, hu.outQueue, ?_, ?_⟩
  · rw [htree, hu.helloDiscarded]
  · rw [htree, ← hu.helloOk]
  · rw [htree, ← hu.freePool]
  · rw [htree, ← hu.calendar]

theorem helloDropped_discardHello (k : TreeId) (s : State) : helloDropped k s (s.discardHello k) :=
  (HelloKept.refl k s).discarded

/-- A HELLO discarded with an event (R114, R115, R118). -/
theorem helloDropped_withEvent (s : State) (k : TreeId) (kind : EventKind) (h : Nat) (extra : List EventWord) :
    helloDropped k s ((s.writeEvent kind k h extra).discardHello k)
      ∧ wrote s ((s.writeEvent kind k h extra).discardHello k) kind k h extra :=
  ⟨((HelloKept.refl k s).writeEvent kind k h extra).discarded, wrote_of_writeEvent (u := s) rfl rfl⟩

/-- A HELLO dropped because the enrollment slots are in use (R24). -/
theorem helloDropped_dropForSlots (s : State) (k : TreeId) : helloDropped k s (s.dropForSlots k)
    ∧ (s.dropForSlots k).eventQueue = s.eventQueue
    ∧ ((s.dropForSlots k).tree k).counters.enrollBusy = (s.tree k).counters.enrollBusy + 1 := by
  refine ⟨(HelloKept.refl k s).enrollBusy.discarded, rfl, ?_⟩
  rw [State.dropForSlots, State.tree_discardHello, State.tree_enrollBusy]

end

/-! ## Check 2 and the tree's state (R111 to R113) -/

section
variable {s : State} {k : TreeId} {head : MarkHead} {point : Nat} {b : Burst} {m : Mark} {termClass n : Nat}

theorem helloInWindow_iff {range : BackoffRange} : helloInWindow head range m n = true
    ↔ invalidMark m = false ∧ m.toNat / 2 ^ (48 - head.bits) = head.value
      ∧ (n < range.grains ∨ (range = .b0 ∧ n = 0)) := by
  rw [helloInWindow, Bool.and_eq_true, Bool.and_eq_true, Bool.not_eq_true', Bool.or_eq_true, Bool.and_eq_true,
    decide_eq_true_iff, beq_iff_eq, beq_iff_eq, beq_iff_eq, and_assoc]

theorem invalidMark_iff : invalidMark m = true ↔ m = 0 ∨ m = BitVec.allOnes 48 := by
  rw [invalidMark, Bool.or_eq_true, beq_iff_eq, beq_iff_eq]

theorem helloInWindow_eq_false {range : BackoffRange}
    (h : m = 0 ∨ m = BitVec.allOnes 48 ∨ m.toNat / 2 ^ (48 - head.bits) ≠ head.value ∨ (range.grains ≤ n ∧ n ≠ 0)) :
    helloInWindow head range m n = false := by
  refine Bool.eq_false_iff.2 fun hin => ?_
  obtain ⟨hvalid, hhead, hbackoff⟩ := helloInWindow_iff.1 hin
  have hinvalid : ¬ (m = 0 ∨ m = BitVec.allOnes 48) := by
    rw [← invalidMark_iff, hvalid]
    exact Bool.false_ne_true
  rcases h with h0 | h1 | hother | ⟨hlong, hsome⟩
  · exact hinvalid (.inl h0)
  · exact hinvalid (.inr h1)
  · exact hother hhead
  · exact hbackoff.elim (fun hlt => Nat.not_le.2 hlt hlong) fun hzero => hsome hzero.2

theorem State.intake_of_notGood (hb : b.result ≠ .good) : s.intake k head point b = s := if_pos hb

theorem State.intake_of_held (hb : b.result = .good) (hs : (s.tree k).state = .held) : s.intake k head point b
    = (s.modDiscovery k fun d => { d with call := d.call.map fun r => { r with heldIgnored := true } }).discardHello k :=
  (if_neg (not_not.2 hb)).trans (if_pos hs)

/-- What is no HELLO within the window's head and range, on a tree that is not HELD, is discarded (R112, R113). -/
theorem State.intake_of_turnedAway (hb : b.result = .good) (hs : (s.tree k).state ≠ .held)
    (hnot : ∀ m termClass n, b.payload = some (.hello m termClass n) →
      helloInWindow head (s.tree k).config.backoff m n = false) : s.intake k head point b = s.discardHello k := by
  refine ((if_neg (not_not.2 hb)).trans (if_neg hs)).trans ?_
  split
  · next m termClass n arrival hpayload harrival => exact if_neg (Bool.eq_false_iff.1 (hnot m termClass n hpayload))
  · rfl

theorem State.intake_of_hello {arrival : Nat} (hb : b.result = .good) (hs : (s.tree k).state ≠ .held)
    (hpayload : b.payload = some (.hello m termClass n)) (harrival : b.arrival = some arrival)
    (hin : helloInWindow head (s.tree k).config.backoff m n = true) : s.intake k head point b
      = s.judgeHello k { mark := m, termClass := termClass, sample :=
          if (s.tree k).config.validSample ((point : Int) + n - arrival) then some ((point : Int) + n - arrival)
          else none } := by
  refine ((if_neg (not_not.2 hb)).trans (if_neg hs)).trans ?_
  rw [hpayload, harrival]
  exact if_pos hin

end

/-! ## The Bar List and the Mark Index (R114 to R118) -/

section
variable {s : State} {k : TreeId} {hello : Hello} {h : Nat}

theorem State.judgeHello_of_barred {b : BarRecord} (hb : s.findBar hello.mark = some b) : s.judgeHello k hello
    = (s.writeEvent .barred k 0 (markWords hello.mark b.kind.code)).discardHello k := by
  rw [State.judgeHello, hb]

theorem State.judgeHello_of_known (hb : s.findBar hello.mark = none) (hm : s.findMark hello.mark = some h) :
    s.judgeHello k hello = s.followEntry k h hello := by
  rw [State.judgeHello, hb, hm]

theorem State.judgeHello_of_unknown (hb : s.findBar hello.mark = none) (hm : s.findMark hello.mark = none) :
    s.judgeHello k hello = s.admitHello k hello := by
  rw [State.judgeHello, hb, hm]

theorem State.followEntry_elsewhere {j : TreeId} (ht : s.treeOf h = some j) (hj : j ≠ k) :
    s.followEntry k h hello = (s.writeEvent (if (s.entry h).state = .reserved then .misplaced else .markClash) k h
      (markWords hello.mark j.val)).discardHello k := by
  rw [State.followEntry, ht]
  exact if_pos hj

/-- On the mark's own tree the state of its entry decides (R115). -/
theorem State.followEntry_rejoin (ht : s.treeOf h = some k) (hs : (s.entry h).inRoster = true
      ∨ (s.entry h).state = .settling ∨ (s.entry h).state = .reranging) :
    s.followEntry k h hello = s.rejoin k h hello := by
  rw [State.followEntry, ht]
  refine (if_neg (not_not.2 rfl)).trans ?_
  cases hstate : (s.entry h).state with
  | registered | lost | settling | reranging => rfl
  | free | reserved | candidate | hushed | departing =>
    rw [Entry.inRoster, hstate] at hs
    exact absurd hs (by decide)

theorem State.followEntry_candidate (ht : s.treeOf h = some k) (hs : (s.entry h).state = .candidate) :
    s.followEntry k h hello = s.refresh k h hello := by
  rw [State.followEntry, ht, hs]
  exact if_neg (not_not.2 rfl)

theorem State.followEntry_reserved (ht : s.treeOf h = some k) (hs : (s.entry h).state = .reserved) :
    s.followEntry k h hello = s.enrollReserved k h hello := by
  rw [State.followEntry, ht, hs]
  exact if_neg (not_not.2 rfl)

theorem State.followEntry_discarded (ht : s.treeOf h = some k)
    (hs : (s.entry h).state = .hushed ∨ (s.entry h).state = .departing) :
    s.followEntry k h hello = s.discardHello k := by
  rw [State.followEntry, ht]
  rcases hs with hs | hs <;> rw [hs] <;> exact if_neg (not_not.2 rfl)

theorem State.slotsFull_iff : s.slotsFull k = true ↔ 8 ≤ s.slotsInUse k := decide_eq_true_iff

theorem State.slotsFull_eq_false (hroom : s.slotsInUse k < 8) : s.slotsFull k = false :=
  decide_eq_false (Nat.not_le.2 hroom)

theorem State.refresh_granted (hgranted : (s.entry h).measureCycle ≠ none) :
    s.refresh k h hello = s.discardHello k :=
  if_neg (by rw [Option.isNone_iff_eq_none]; exact hgranted)

theorem State.enrollReserved_busy (hfull : 8 ≤ s.slotsInUse k) :
    s.enrollReserved k h hello = s.dropForSlots k := if_pos (State.slotsFull_iff.2 hfull)

theorem State.rejoin_busy (hs : (s.entry h).state ≠ .settling) (hfull : 8 ≤ s.slotsInUse k) :
    s.rejoin k h hello = s.dropForSlots k :=
  if_pos (by rw [State.slotsFull_iff.2 hfull, Bool.and_true, bne_iff_ne]; exact hs)

theorem State.admitHello_listed (ha : (s.tree k).tuning.admission = 1) : s.admitHello k hello
    = (s.writeEvent .stranger k 0 (markWords hello.mark hello.termClass)).discardHello k := if_pos ha

theorem State.admitHello_busy (ha : (s.tree k).tuning.admission ≠ 1) (hfull : 8 ≤ s.slotsInUse k) :
    s.admitHello k hello = s.dropForSlots k := (if_neg ha).trans (if_pos (State.slotsFull_iff.2 hfull))

theorem State.admitHello_noHandle (ha : (s.tree k).tuning.admission ≠ 1) (hroom : s.slotsInUse k < 8)
    (hpool : (s.tree k).freePool = []) : s.admitHello k hello
      = ((s.writeEvent .tableFull k 0 (markWords hello.mark 0)).setTableFull k).discardHello k := by
  rw [State.admitHello, if_neg ha, if_neg (Bool.eq_false_iff.1 (State.slotsFull_eq_false hroom)), hpool]

/-- The end of the Free Pool: TABLE_FULL, and its indication (R118). -/
theorem State.noHandle_outcome (s : State) (k : TreeId) (m : Mark) :
    let t := ((s.writeEvent .tableFull k 0 (markWords m 0)).setTableFull k).discardHello k
    helloDropped k s t ∧ (t.tree k).indications.tableFull = true ∧ wrote s t .tableFull k 0 (markWords m 0) := by
  let u := s.writeEvent .tableFull k 0 (markWords m 0)
  have hu : HelloKept k s u := (HelloKept.refl k s).writeEvent .tableFull k 0 (markWords m 0)
  have hset : HelloKept k s (u.setTableFull k) :=
    hu.of_tree rfl rfl rfl rfl ((State.tree_setTableFull u k k).trans (if_pos rfl)) rfl rfl rfl rfl
  refine ⟨hset.discarded, ?_, wrote_of_writeEvent (u := s) rfl rfl⟩
  rw [State.tree_discardHello, State.tree_setTableFull, if_pos rfl]

end

/-- Settles O39: the branches of intake, and of the judgement of a HELLO, that end in a discard. -/
theorem helloDropsChangeNoEntry : Obligations.HelloDropsChangeNoEntry := by
  refine ⟨fun k head point b s => ⟨State.intake_of_notGood, fun hb hheld => ?held, fun hb hs hnot => ?noHello,
    fun m termClass n hb hs hpayload haway => ?away⟩, fun k m termClass sample s =>
    ⟨fun b hbar => ?barred, fun hbar => ⟨fun h j hm ht hj => ?elsewhere, fun h hm ht => ⟨fun hs => ?ignored,
      fun hs hfull => ?busy⟩, fun hm => ⟨fun ha => ?listed, fun ha hfull => ?full, fun ha hroom hpool => ?empty⟩⟩⟩⟩
  case held =>
    let u := s.modDiscovery k fun d => { d with call := d.call.map fun r => { r with heldIgnored := true } }
    have htree : u.tree k = { s.tree k with discovery := { (s.tree k).discovery with
        call := (s.tree k).discovery.call.map fun r => { r with heldIgnored := true } } } := by
      rw [State.tree_modDiscovery, if_pos rfl]
    have hu : HelloKept k s u := (HelloKept.refl k s).of_tree rfl rfl rfl rfl htree rfl rfl rfl rfl
    rw [State.intake_of_held hb hheld]
    refine ⟨hu.discarded, ?_⟩
    rw [State.tree_discardHello]
    show (u.tree k).discovery.call = _
    rw [htree]
  case noHello =>
    rw [State.intake_of_turnedAway hb hs fun m termClass n hpayload => absurd hpayload (hnot m termClass n)]
    exact helloDropped_discardHello k s
  case away =>
    rw [State.intake_of_turnedAway hb hs]
    · exact helloDropped_discardHello k s
    · intro m' termClass' n' hpayload'
      obtain ⟨rfl, rfl, rfl⟩ := Payload.hello.inj (Option.some.inj (hpayload.symm.trans hpayload'))
      exact helloInWindow_eq_false haway
  case barred =>
    rw [State.judgeHello_of_barred hbar]
    obtain ⟨hdropped, hwrote⟩ := helloDropped_withEvent s k .barred 0 (markWords m b.kind.code)
    refine ⟨hdropped, fun hp => ?_, fun hp => ?_⟩
    · have hcode : b.kind.code = 1 := by rw [hp]; rfl
      rw [hcode] at hwrote ⊢
      exact hwrote
    · have hcode : b.kind.code = 2 := by
        cases hkind : b.kind with
        | permanent => exact absurd hkind hp
        | timed _ _ => rfl
      rw [hcode] at hwrote ⊢
      exact hwrote
  case elsewhere =>
    rw [State.judgeHello_of_known hbar hm, State.followEntry_elsewhere ht hj]
    obtain ⟨hdropped, hwrote⟩ := helloDropped_withEvent s k
      (if (s.entry h).state = .reserved then .misplaced else .markClash) h (markWords m j.val)
    refine ⟨hdropped, fun hs => ?_, fun hs => ?_⟩
    · rw [if_pos hs] at hwrote ⊢
      exact hwrote
    · rw [if_neg hs] at hwrote ⊢
      exact hwrote
  case ignored =>
    have heq : s.judgeHello k { mark := m, termClass := termClass, sample := sample } = s.discardHello k := by
      rw [State.judgeHello_of_known hbar hm]
      rcases hs with hs | hs | ⟨hs, hgranted⟩
      · exact State.followEntry_discarded ht (.inl hs)
      · exact State.followEntry_discarded ht (.inr hs)
      · rw [State.followEntry_candidate ht hs, State.refresh_granted hgranted]
    rw [heq]
    exact ⟨helloDropped_discardHello k s, rfl⟩
  case busy =>
    have heq : s.judgeHello k { mark := m, termClass := termClass, sample := sample } = s.dropForSlots k := by
      rw [State.judgeHello_of_known hbar hm]
      rcases hs with hs | hs | hs
      · rw [State.followEntry_rejoin ht (.inl hs), State.rejoin_busy (fun hset => ?_) hfull]
        rw [Entry.inRoster, hset] at hs
        exact nomatch hs
      · rw [State.followEntry_rejoin ht (.inr (.inr hs)), State.rejoin_busy (by rw [hs]; exact nofun) hfull]
      · rw [State.followEntry_reserved ht hs, State.enrollReserved_busy hfull]
    rw [heq]
    exact helloDropped_dropForSlots s k
  case listed =>
    rw [State.judgeHello_of_unknown hbar hm, State.admitHello_listed ha]
    exact helloDropped_withEvent s k .stranger 0 (markWords m termClass)
  case full =>
    rw [State.judgeHello_of_unknown hbar hm, State.admitHello_busy (by rw [ha]; decide) hfull]
    exact helloDropped_dropForSlots s k
  case empty =>
    rw [State.judgeHello_of_unknown hbar hm, State.admitHello_noHandle (by rw [ha]; decide) hroom hpool]
    exact s.noHandle_outcome k m

end Sys2Proof.Machine
end

section
/-! PROOFS. HELLO intake: enrollment, rejoin and refresh (R24, R26, R79, R113 to R119). -/

namespace Sys2Proof.Machine

/-! ## A HELLO accepted: HELLO_OK and the claim request (R119) -/

/-- HELLO_OK is counted and a measuring window is requested (R119). -/
def State.helloAccepted (s : State) (k : TreeId) (h : Nat) : State := (s.count k .helloOk).requestRanging k h

section
variable (s : State) (k : TreeId) (h : Nat) (hello : Hello)

theorem State.tree_helloOk : (s.count k .helloOk).tree k = { s.tree k with
    counters := { (s.tree k).counters with helloOk := (s.tree k).counters.helloOk + 1 } } := by
  rw [State.tree_count, if_pos rfl]
  rfl

theorem State.helloAccepted_claims : ClaimsOnly s (s.helloAccepted k h) :=
  ((ClaimsOnly.refl s).count k .helloOk).requestRanging h

theorem State.counters_helloAccepted : ((s.helloAccepted k h).tree k).counters
    = { (s.tree k).counters with helloOk := (s.tree k).counters.helloOk + 1 } := by
  have hsame : ∀ z : Tree, z.counters = z.apartFromClaims.counters := fun _ => rfl
  rw [hsame, State.helloAccepted, State.apartFromClaims_requestRanging, ← hsame, State.tree_helloOk]

theorem State.freePool_helloAccepted : ((s.helloAccepted k h).tree k).freePool = (s.tree k).freePool := by
  have hsame : ∀ z : Tree, z.freePool = z.apartFromClaims.freePool := fun _ => rfl
  rw [hsame, State.helloAccepted, State.apartFromClaims_requestRanging, ← hsame, State.tree_helloOk]

/-- An enrollment, once its entry is set: DISCOVERED, and the HELLO accepted (R117, R119). -/
theorem State.discovered_eq : s.discovered k h hello
    = (s.writeEvent .discovered k h (markWords hello.mark hello.termClass)).helloAccepted k h := rfl

theorem State.wrote_discovered :
    wrote s (s.discovered k h hello) .discovered k h (markWords hello.mark hello.termClass) :=
  wrote_of_writeEvent (u := s) rfl (State.helloAccepted_claims _ k h).eventQueue

theorem State.counters_discovered : ((s.discovered k h hello).tree k).counters
    = { (s.tree k).counters with helloOk := (s.tree k).counters.helloOk + 1 } := by
  rw [State.discovered_eq, State.counters_helloAccepted, State.tree_writeEvent]

theorem State.freePool_discovered : ((s.discovered k h hello).tree k).freePool = (s.tree k).freePool := by
  rw [State.discovered_eq, State.freePool_helloAccepted, State.tree_writeEvent]

theorem State.markIndex_discovered : (s.discovered k h hello).markIndex = s.markIndex :=
  (State.helloAccepted_claims _ k h).markIndex.trans (State.markIndex_writeEvent ..)

theorem State.entryKept_discovered (j : Nat) : entryKept (s.entry j) ((s.discovered k h hello).entry j) := by
  rw [← State.entry_writeEvent s .discovered k h (markWords hello.mark hello.termClass) j]
  exact (State.helloAccepted_claims _ k h).entries j

end

/-! ## The passage to CANDIDATE (R116, R117) -/

section
variable {s : State} {k : TreeId} {h : Nat} {hello : Hello}

/-- The state in which the entry is CANDIDATE by a HELLO, and nothing else has changed (R21). -/
def State.madeCandidate (s : State) (h : Nat) (hello : Hello) : State :=
  s.modEntry h fun e => e.toCandidateHello hello.termClass hello.sample

theorem State.madeCandidate_passed :
    PassedTo ((s.entry h).toCandidateHello hello.termClass hello.sample) h s (s.madeCandidate h hello) :=
  .of_modEntry rfl nofun

theorem State.enrollReserved_of_room (hroom : s.slotsInUse k < 8) :
    s.enrollReserved k h hello = (s.madeCandidate h hello).discovered k h hello :=
  if_neg (Bool.eq_false_iff.1 (State.slotsFull_eq_false hroom))

/-- The enrollment of a RESERVED entry (R117). -/
theorem State.enrollReserved_passed (hroom : s.slotsInUse k < 8) :
    PassedTo ((s.entry h).toCandidateHello hello.termClass hello.sample) h s (s.enrollReserved k h hello) := by
  rw [State.enrollReserved_of_room hroom]
  exact (s.madeCandidate_passed.writeEvent _ _ _ _).claims nofun (State.helloAccepted_claims _ k h)

/-- The state of a rejoin before its event: the entry CANDIDATE, the notices of the state it left sent (R23, R116). -/
def State.leftForCandidate (s : State) (k : TreeId) (h : Nat) (hello : Hello) : State :=
  ((s.madeCandidate h hello).leftNotices k h (s.entry h).state).dropTrimAfter k h (s.entry h).state

theorem State.leftForCandidate_claims : ClaimsOnly (s.madeCandidate h hello) (s.leftForCandidate k h hello) :=
  ((ClaimsOnly.refl _).leftNotices h _).dropTrimAfter h _

theorem State.rejoin_of_room (hroom : (s.entry h).state = .settling ∨ s.slotsInUse k < 8) :
    s.rejoin k h hello = ((s.leftForCandidate k h hello).writeEvent .rejoin k h
      [oneField (s.entry h).state.code]).helloAccepted k h := by
  refine if_neg fun hfull => ?_
  rw [Bool.and_eq_true, bne_iff_ne, State.slotsFull_iff] at hfull
  exact hroom.elim hfull.1 (Nat.not_lt.2 hfull.2)

/-- A rejoin (R116). -/
theorem State.rejoin_passed (hroom : (s.entry h).state = .settling ∨ s.slotsInUse k < 8) :
    PassedTo ((s.entry h).toCandidateHello hello.termClass hello.sample) h s (s.rejoin k h hello)
      ∧ wrote s (s.rejoin k h hello) .rejoin k h [oneField (s.entry h).state.code] := by
  have hleft : ClaimsOnly (s.madeCandidate h hello) (s.leftForCandidate k h hello) := State.leftForCandidate_claims
  rw [State.rejoin_of_room hroom]
  have hpassed := s.madeCandidate_passed (h := h) (hello := hello)
  exact ⟨((hpassed.claims nofun hleft).writeEvent _ _ _ _).claims nofun (State.helloAccepted_claims _ k h),
    wrote_of_writeEvent hleft.eventQueue (State.helloAccepted_claims _ k h).eventQueue⟩

theorem State.counters_leftForCandidate : ∃ struck, ((s.leftForCandidate k h hello).tree k).counters
    = { (s.tree k).counters with grantsStruck := struck } :=
  ⟨_, Tree.counters_of_passage (by rw [State.leftForCandidate, State.apartFromPassage_dropTrimAfter,
    State.apartFromPassage_leftNotices, State.madeCandidate, State.tree_modEntry])⟩

theorem State.counters_rejoin (hroom : (s.entry h).state = .settling ∨ s.slotsInUse k < 8) :
    ((s.rejoin k h hello).tree k).counters.helloOk = (s.tree k).counters.helloOk + 1
      ∧ ((s.rejoin k h hello).tree k).counters.helloDiscarded = (s.tree k).counters.helloDiscarded := by
  obtain ⟨struck, hstruck⟩ := s.counters_leftForCandidate (k := k) (h := h) (hello := hello)
  rw [State.rejoin_of_room hroom, State.counters_helloAccepted, State.tree_writeEvent, hstruck]
  exact ⟨rfl, rfl⟩

theorem State.refresh_of_waiting (hwaits : (s.entry h).measureCycle = none) : s.refresh k h hello
    = (s.modEntry h fun e =>
        { e with termClass := some hello.termClass, lastSample := hello.sample.or e.lastSample }).count k .helloOk :=
  if_pos (Option.isNone_iff_eq_none.2 hwaits)

end

/-- Settles O40: the three passages that a HELLO of a known mark causes. -/
theorem helloOfAKnownMarkRejoinsRefreshesOrEnrolls : Obligations.HelloOfAKnownMarkRejoinsRefreshesOrEnrolls := by
  intro k m h termClass sample s hbar hm ht t candidate ok
  have hknown : t = s.followEntry k h { mark := m, termClass := termClass, sample := sample } :=
    State.judgeHello_of_known hbar hm
  refine ⟨fun hs => ?rejoin, fun hs hwaits => ?refresh, fun hs hroom => ?enroll⟩
  case rejoin =>
    have hstates : (s.entry h).inRoster = true ∨ (s.entry h).state = .settling ∨ (s.entry h).state = .reranging :=
      hs.elim (fun hset => .inr (.inl hset)) fun hr => hr.1.imp_right .inr
    have hroom : (s.entry h).state = .settling ∨ s.slotsInUse k < 8 := hs.imp_right And.right
    have heq := hknown.trans (State.followEntry_rejoin ht hstates)
    obtain ⟨hpassed, hwrote⟩ := s.rejoin_passed (h := h) hroom
    obtain ⟨hok, hdiscarded⟩ := State.counters_rejoin hroom
    rw [← heq] at hpassed hwrote hok hdiscarded
    exact ⟨hpassed.entry, ⟨hok, hdiscarded, hpassed.markIndex⟩, hpassed.others, hwrote⟩
  case refresh =>
    have heq := hknown.trans ((State.followEntry_candidate ht hs).trans (State.refresh_of_waiting hwaits))
    have hentry : t.entry h
        = { s.entry h with termClass := some termClass, lastSample := sample.or (s.entry h).lastSample } := by
      rw [heq, State.entry_count]
      exact State.entry_modEntry_of_ne rfl (by show (s.entry h).state ≠ .free; rw [hs]; exact nofun)
    have hcounters : (t.tree k).counters
        = { (s.tree k).counters with helloOk := (s.tree k).counters.helloOk + 1 } := by
      rw [heq, State.tree_helloOk, State.tree_modEntry]
    refine ⟨hentry, ⟨by rw [hcounters], by rw [hcounters], by rw [heq]; rfl⟩, by rw [heq]; rfl, by rw [heq]; rfl,
      fun j hj => ?_⟩
    rw [heq, State.entry_count]
    exact State.entry_modEntry_ne s h j _ hj
  case enroll =>
    have heq := hknown.trans (State.followEntry_reserved ht hs)
    have hpassed := State.enrollReserved_passed (h := h)
      (hello := { mark := m, termClass := termClass, sample := sample }) hroom
    have hdiscovered := heq.trans (State.enrollReserved_of_room hroom)
    rw [← heq] at hpassed
    have hcounters : (t.tree k).counters
        = { (s.tree k).counters with helloOk := (s.tree k).counters.helloOk + 1 } := by
      rw [hdiscovered, State.counters_discovered]
      rfl
    refine ⟨hpassed.entry, ⟨by rw [hcounters], by rw [hcounters], hpassed.markIndex⟩, hpassed.others, ?_⟩
    have hwrote := (s.madeCandidate h { mark := m, termClass := termClass, sample := sample }).wrote_discovered k h
      { mark := m, termClass := termClass, sample := sample }
    have hbefore : (s.madeCandidate h { mark := m, termClass := termClass, sample := sample }).eventQueue
        = s.eventQueue := rfl
    rw [← hdiscovered, wrote, hbefore] at hwrote
    exact hwrote

/-! ## A report in a CALL window (R79) -/

section
variable {s : State} {k : TreeId} {h : Nat} {hello : Hello}

theorem State.takeBurst_call {c : Cycle} {i : Nat} {r : Reservation} {b : Burst} (hkind : r.kind = .quietCall) :
    ∃ f, s.takeBurst k c i r b
      = (s.modRing k f).intake k (r.head.getD { bits := 0, value := 0 }) (r.answerPoint.getD 0) b := by
  unfold State.takeBurst
  rw [hkind]
  exact ⟨_, rfl⟩

/-- A report on a GOOD burst of an open CALL window goes through intake (R79). -/
theorem exec_burstReport_call {record : ReportRecord} {c : Cycle} {i : Nat} {r : Reservation} {b : Burst}
    (hreport : reportsOn s k record c i r b) (hkind : r.kind = .quietCall) (hopen : r.ended = false)
    (hroom : r.bursts.length < 16) (hb : b.result = .good) : ∃ f, exec (.burstReport k record) s
      = .next ((s.modRing k f).intake k (r.head.getD { bits := 0, value := 0 }) (r.answerPoint.getD 0) b) := by
  obtain ⟨f, hf⟩ := s.takeBurst_call (k := k) (c := c) (i := i) (b := b) hkind
  have htakes : r.takesOutcome = false := by rw [Reservation.takesOutcome, hkind]; rfl
  refine ⟨f, ?_⟩
  rw [exec_burstReport_of_reportsOn hreport, State.takeReport_burst htakes hopen (by rw [hb]; exact nofun),
    if_neg (show ¬ Config.maxBursts ≤ r.bursts.length from Nat.not_le.2 hroom), hf]

theorem State.slotsInUse_modRing (s : State) (k : TreeId) (f : List Slot → List Slot) :
    (s.modRing k f).slotsInUse k = s.slotsInUse k := by
  have hwindow : ((s.modRing k f).tree k).inWindow = (s.tree k).inWindow := by
    funext j
    rw [State.tree_modRing]
    rfl
  rw [State.slotsInUse, hwindow]
  rfl

/-- The state whose Free Pool has given its top handle to a new CANDIDATE (R26, R50, R119). -/
def State.enrolledNew (s : State) (k : TreeId) (h : Nat) (rest : List Nat) (hello : Hello) : State :=
  (s.modTree k fun x => { x with freePool := rest }).enterEntry h hello.mark
    (Entry.toCandidateNew hello.mark hello.termClass hello.sample)

theorem State.admitHello_of_handle {rest : List Nat} (ha : (s.tree k).tuning.admission ≠ 1)
    (hroom : s.slotsInUse k < 8) (hpool : (s.tree k).freePool = h :: rest) :
    s.admitHello k hello = (s.enrolledNew k h rest hello).discovered k h hello := by
  rw [State.admitHello, if_neg ha, if_neg (Bool.eq_false_iff.1 (State.slotsFull_eq_false hroom)), hpool]
  rfl

variable {rest : List Nat}

theorem State.tree_enrolledNew : (s.enrolledNew k h rest hello).tree k = { s.tree k with freePool := rest } :=
  (State.tree_modTree s k k fun x => { x with freePool := rest }).trans (if_pos rfl)

theorem State.entry_enrolledNew : (s.enrolledNew k h rest hello).entry h
    = Entry.toCandidateNew hello.mark hello.termClass hello.sample := by
  have hset : (s.enrolledNew k h rest hello).entry h
      = ((s.modTree k fun x => { x with freePool := rest }).setEntry h
          (Entry.toCandidateNew hello.mark hello.termClass hello.sample)).entry h := rfl
  have hne : (Entry.toCandidateNew hello.mark hello.termClass hello.sample).state ≠ .free := nofun
  rw [hset, State.entry_setEntry, if_pos rfl, if_neg hne]

end

/-- Settles O38: the report taken in, check 2 passed, and the handle of the Free Pool's top entered. -/
theorem helloOfAnUnknownMarkEnrolls : Obligations.HelloOfAnUnknownMarkEnrolls := by
  intro k record c i h arrival termClass backoff rest m r b s hstate hreport hkind hopen hroom hb hpayload harrival hin
    hbar hm ha hslots hpool sample
  obtain ⟨f, hf⟩ := exec_burstReport_call hreport hkind hopen hroom hb
  have htree := s.tree_modRing k f
  let v := s.modRing k f
  let hello : Hello := { mark := m, termClass := termClass, sample :=
    if (s.tree k).config.validSample sample then some sample else none }
  have hheld : (v.tree k).state ≠ .held := by rw [htree, hstate]; exact nofun
  have hconfig : (v.tree k).config = (s.tree k).config := by rw [htree]
  have hintake := State.intake_of_hello (s := v) (k := k) (point := r.answerPoint.getD 0) hb hheld hpayload harrival
    (by rw [hconfig]; exact hin)
  rw [hconfig] at hintake
  have hadmit : v.judgeHello k hello = (v.enrolledNew k h rest hello).discovered k h hello := by
    rw [State.judgeHello_of_unknown (s := v) (hello := hello) hbar hm]
    exact State.admitHello_of_handle (s := v) (by rw [htree, ha]; decide)
      (by rw [State.slotsInUse_modRing]; exact hslots) (by rw [htree]; exact hpool)
  let u := v.enrolledNew k h rest hello
  have hentry : u.entry h = Entry.toCandidateNew m termClass hello.sample := State.entry_enrolledNew
  have hcounters : (u.tree k).counters = (s.tree k).counters := by rw [State.tree_enrolledNew, htree]
  have hvalid : invalidMark m = false := (helloInWindow_iff.1 hin).1
  have hwrote := u.wrote_discovered k h hello
  refine ⟨u.discovered k h hello, hf.trans (congrArg _ (hintake.trans hadmit)), ?_, ?_, ?_, ?_, hwrote⟩
  · have hkept := u.entryKept_discovered k h hello h
    rw [hentry] at hkept
    exact hkept.2 nofun
  · rw [State.freePool_discovered, State.tree_enrolledNew]
  · have hfind : u.findMark m = some h :=
      (State.findMark_enterEntry hvalid _ h _ m).trans (if_pos rfl)
    rw [State.findMark, State.markIndex_discovered, ← State.findMark, hfind]
  · rw [State.counters_discovered, hcounters]

end Sys2Proof.Machine
end

section
/-! PROOFS. The echo of a SETTLE: an ACCEPT within the tolerance, one beyond it, and a failed echo (R129, R131 to R136). -/

namespace Sys2Proof.Machine

section
variable {s v : State} {k : TreeId} {h arrival : Nat} {c : Cycle} {start : Nat} {b : Burst}

/-- The state the echo of a SETTLE is judged in: that of before, but for the ring and the entry's settle echo cycle. -/
structure SettledFrom (k : TreeId) (h : Nat) (s v : State) : Prop where
  entry : v.entry h = { s.entry h with settleEchoCycle := none }
  outQueue : v.outQueue = s.outQueue
  eventQueue : v.eventQueue = s.eventQueue
  tuning : (v.tree k).tuning = (s.tree k).tuning
  counters : (v.tree k).counters = (s.tree k).counters
  settleDue : (v.tree k).calendar.settleDue = (s.tree k).calendar.settleDue
  claims : (v.tree k).calendar.claims = (s.tree k).calendar.claims

/-- What the echo makes of an entry once its settle echo cycle is absent (R131, R132). -/
def State.judgeSettle (s : State) (k : TreeId) (h : Nat) (c : Cycle) (start : Nat) (b : Burst) : State :=
  match b.isAccept h, b.arrival with
  | true, some arrival =>
    if ((arrival : Int) - start).natAbs ≤ (s.tree k).tuning.tolerance then s.registerEntry k h c
    else s.settleDeviated k h
  | _, _ => s.settleFailed k h

theorem State.settleOutcome_of_awaited (hs : (s.entry h).state = .settling)
    (hc : (s.entry h).settleEchoCycle = some c) : s.settleOutcome k h c start b
      = (s.modEntry h fun e => { e with settleEchoCycle := none }).judgeSettle k h c start b := by
  rw [State.settleOutcome]
  exact (if_pos ⟨hs, hc⟩).trans rfl

theorem State.judgeSettle_of_good (haccept : b.isAccept h = true) (harrival : b.arrival = some arrival)
    (hnear : ((arrival : Int) - start).natAbs ≤ (s.tree k).tuning.tolerance) :
    s.judgeSettle k h c start b = s.registerEntry k h c := by
  rw [State.judgeSettle, haccept, harrival]
  exact if_pos hnear

theorem State.judgeSettle_of_deviated (haccept : b.isAccept h = true) (harrival : b.arrival = some arrival)
    (hfar : (s.tree k).tuning.tolerance < ((arrival : Int) - start).natAbs) :
    s.judgeSettle k h c start b = s.settleDeviated k h := by
  rw [State.judgeSettle, haccept, harrival]
  exact if_neg (Nat.not_le.2 hfar)

theorem State.judgeSettle_of_failed (haccept : b.isAccept h = false) :
    s.judgeSettle k h c start b = s.settleFailed k h := by
  rw [State.judgeSettle, haccept]

/-- A report on the SETTLE echo slot that a SETTLING entry awaits is judged (R78, R131). -/
theorem exec_burstReport_settle {record : ReportRecord} {i : Nat} {r : Reservation}
    (hreport : reportsOn s k record c i r b) (hkind : r.kind = .echo) (hpurpose : r.purpose = some .settle)
    (hhandle : r.handle = some h) (houtcome : r.outcome = none) (hs : (s.entry h).state = .settling)
    (hc : (s.entry h).settleEchoCycle = some c) : ∃ v, SettledFrom k h s v
      ∧ exec (.burstReport k record) s = .next (v.judgeSettle k h c r.start b) := by
  obtain ⟨f, hf⟩ := s.takeOutcome_eq (k := k) c i r b
  let v := (s.modRing k f).modEntry h fun e => { e with settleEchoCycle := none }
  have hentry : v.entry h = { s.entry h with settleEchoCycle := none } :=
    State.entry_modEntry_of_ne (s := s.modRing k f) rfl (by show (s.entry h).state ≠ .free; rw [hs]; exact nofun)
  have htree : v.tree k
      = { s.tree k with calendar := { (s.tree k).calendar with ring := f (s.tree k).calendar.ring } } := by
    rw [State.tree_modEntry, State.tree_modRing]
  refine ⟨v, ⟨hentry, rfl, rfl, by rw [htree], by rw [htree], by rw [htree], by rw [htree]⟩, ?_⟩
  rw [exec_burstReport_of_reportsOn hreport,
    State.takeReport_first (Reservation.takesOutcome_iff.2 (Or.inr hkind)) houtcome, hf, State.handOutcome, hkind,
    hpurpose, hhandle]
  exact congrArg Host.Outcome.next (State.settleOutcome_of_awaited (s := s.modRing k f) hs hc)

/-! ## An ACCEPT within the tolerance (R23, R133) -/

theorem State.tree_dropSettleDue (s : State) (k : TreeId) (h : Nat) : (s.dropSettleDue k h).tree k
    = { s.tree k with calendar := { (s.tree k).calendar with
          settleDue := (s.tree k).calendar.settleDue.filter (· != h) } } := by
  rw [State.dropSettleDue, State.tree_modCalendar, if_pos rfl]

theorem notMem_filter_ne (l : List Nat) (h : Nat) : h ∉ l.filter (· != h) := fun hmem =>
  absurd rfl (bne_iff_ne.1 (List.mem_filter.1 hmem).2)

/-- The state of a registration before its frame and its event: REGISTERED, and off the Settle Due list. -/
def State.settledInto (s : State) (k : TreeId) (h : Nat) (f : Entry → Entry) : State :=
  (s.modEntry h f).dropSettleDue k h

theorem State.tree_settledInto (s : State) (k : TreeId) (h : Nat) (f : Entry → Entry) : (s.settledInto k h f).tree k
    = { s.tree k with calendar := { (s.tree k).calendar with
          settleDue := (s.tree k).calendar.settleDue.filter (· != h) } } := by
  rw [State.settledInto, State.tree_dropSettleDue, State.tree_modEntry]

theorem State.registerEntry_eq : s.registerEntry k h c
    = (((s.settledInto k h fun e => e.toRegistered c).rosterNotice k h .registered).count k .registrations).writeEvent
        .registered k h [halves ((s.entry h).settleSample.getD 0) (((s.entry h).origin.getD .enroll).code)] := rfl

theorem State.registerEntry_outcome :
    (s.registerEntry k h c).entry h = (s.entry h).toRegistered c
      ∧ ((s.registerEntry k h c).tree k).counters.registrations = (s.tree k).counters.registrations + 1
      ∧ h ∉ ((s.registerEntry k h c).tree k).calendar.settleDue
      ∧ wrote s (s.registerEntry k h c) .registered k h
        [halves ((s.entry h).settleSample.getD 0) (((s.entry h).origin.getD .enroll).code)]
      ∧ (s.outQueue.length < 512 → (s.registerEntry k h c).outQueue
        = s.outQueue ++ [.roster k h .registered ((s.entry h).termClass.getD 0)]) := by
  let u := s.settledInto k h fun e => e.toRegistered c
  have hentry : u.entry h = (s.entry h).toRegistered c :=
    State.entry_modEntry_of_ne (s := s) (f := fun e => e.toRegistered c) rfl nofun
  have htree : ((u.rosterNotice k h .registered).count k .registrations).tree k
      = { u.tree k with counters :=
            { (u.tree k).counters with registrations := (u.tree k).counters.registrations + 1 } } := by
    rw [State.tree_count, if_pos rfl, State.rosterNotice, State.tree_makeFrame]
    rfl
  have hu := s.tree_settledInto k h fun e => e.toRegistered c
  rw [State.registerEntry_eq]
  refine ⟨?_, ?_, ?_, wrote_of_writeEvent
    (u := (u.rosterNotice k h .registered).count k .registrations) (State.eventQueue_makeFrame u _) rfl, fun hroom => ?_⟩
  · rw [State.entry_writeEvent, State.entry_count, State.rosterNotice, State.entry_makeFrame]
    exact hentry
  · rw [State.tree_writeEvent, htree, hu]
  · rw [State.tree_writeEvent, htree, hu]
    exact notMem_filter_ne _ h
  · rw [State.outQueue_writeEvent, State.outQueue_count]
    refine (State.outQueue_makeFrame (s := u) hroom).trans ?_
    rw [hentry]
    rfl

/-! ## An ACCEPT beyond the tolerance (R23, R135) -/

theorem State.settleDeviated_eq :
    s.settleDeviated k h = (s.settledInto k h Entry.backToMeasuring).requestRanging k h := rfl

theorem Entry.backToMeasuring_ne_free (e : Entry) : e.backToMeasuring.state ≠ .free := by
  show (if e.origin = some .enroll then EntryState.candidate else .reranging) ≠ .free
  split <;> exact nofun

theorem State.settleDue_requestRanging (s : State) (k : TreeId) (h : Nat) :
    ((s.requestRanging k h).tree k).calendar.settleDue = (s.tree k).calendar.settleDue := by
  have hsame : ∀ z : Tree, z.calendar.settleDue = z.apartFromClaims.calendar.settleDue := fun _ => rfl
  rw [hsame, State.apartFromClaims_requestRanging, ← hsame]

/-! ## A failed echo (R129, R136) -/

theorem State.settleDue_failRanging (hs : (s.entry h).state = .settling) (cause : Nat) :
    h ∉ ((s.failRanging k h cause).tree k).calendar.settleDue := by
  obtain ⟨-, htrees, -⟩ := s.failRanging_kept k h cause
  have hdeparted : s.departEntry k h .measureFailure 1
      = ((s.modEntry h fun e => e.toDeparting .measureFailure).recordOwed k h .release 1).dropSettleDue k h := by
    rw [State.departEntry, hs]
    rfl
  rw [htrees, State.failureTold, State.tree_count, if_pos rfl, State.tree_writeEvent, hdeparted,
    State.tree_dropSettleDue]
  exact notMem_filter_ne _ h

end

/-- Settles O42: the three outcomes of the echo that a SETTLING entry awaits. -/
theorem settleEchoIsJudged : Obligations.SettleEchoIsJudged := by
  intro k record c i h r b s hreport hkind hpurpose hhandle houtcome hs hc
  obtain ⟨v, hv, hexec⟩ := exec_burstReport_settle hreport hkind hpurpose hhandle houtcome hs hc
  rw [hexec]
  refine ⟨fun arrival haccept harrival => ⟨fun hnear => ?good, fun origin hfar horigin => ?deviated⟩,
    fun n haccept hn => ⟨fun hfew => ?again, fun hmany => ?fails⟩⟩
  case good =>
    rw [State.judgeSettle_of_good haccept harrival (by rw [hv.tuning]; exact hnear)]
    obtain ⟨hentry, hcount, hdue, hwrote, hout⟩ := State.registerEntry_outcome (s := v) (k := k) (h := h) (c := c)
    rw [hv.entry] at hentry
    rw [hv.counters] at hcount
    rw [wrote, hv.eventQueue, hv.entry] at hwrote
    rw [hv.outQueue, hv.entry] at hout
    exact ⟨_, rfl, hentry, hcount, hdue, hwrote, hout⟩
  case deviated =>
    intro back
    have hreturned : (v.entry h).backToMeasuring = back := by
      rw [hv.entry, Entry.backToMeasuring, horigin]
      cases origin <;> rfl
    let u := v.settledInto k h Entry.backToMeasuring
    have hback : u.entry h = back :=
      State.entry_modEntry_of_ne (s := v) hreturned (by rw [← hreturned]; exact (v.entry h).backToMeasuring_ne_free)
    have htree := v.tree_settledInto k h Entry.backToMeasuring
    have hclaims : ClaimsOnly u (u.requestRanging k h) := (ClaimsOnly.refl u).requestRanging h
    have hkept : sameButClaim back ((u.requestRanging k h).entry h) := by
      rw [← hback]
      exact hclaims.entry_eq (by rw [hback, ← hreturned]; exact (v.entry h).backToMeasuring_ne_free)
    refine ⟨u, _, ?_, rfl, hback, hkept, ?_, hv.outQueue, ?_, hclaims.eventQueue.trans hv.eventQueue⟩
    · rw [State.judgeSettle_of_deviated haccept harrival (by rw [hv.tuning]; exact hfar), State.settleDeviated_eq]
    · rw [htree]
      exact hv.claims
    · rw [State.settleDue_requestRanging, htree]
      exact notMem_filter_ne _ h
  case again =>
    have hfailed : v.settleFailed k h = v.joinSettleDue k h :=
      if_pos (by rw [hv.entry]; dsimp only; rw [hn]; exact hfew)
    rw [State.judgeSettle_of_failed haccept, hfailed]
    refine ⟨_, rfl, hv.entry, ?_⟩
    rw [State.joinSettleDue, State.tree_modCalendar, if_pos rfl, hv.settleDue]
  case fails =>
    have hfailed : v.settleFailed k h = v.failRanging k h 1 :=
      if_neg (by rw [hv.entry]; dsimp only; rw [hn]; exact Nat.not_lt.2 hmany)
    have hdeparted := (v.failureTold_passed k h 1).entry
    rw [State.judgeSettle_of_failed haccept, hfailed]
    refine ⟨_, rfl, ?_, ?_, ?_, State.settleDue_failRanging (by rw [hv.entry]; exact hs) 1⟩
    all_goals
      rw [v.entry_failRanging k h 1, hdeparted]
      rfl

end Sys2Proof.Machine
end

section
/-! PROOFS. The end of a measuring window: its sample, the pairing of samples, and the measure attempts (R25, R122, R125 to
R130). -/

namespace Sys2Proof.Machine

/-! ## The sample of a window (R122) -/

theorem TreeConfig.validSample_iff {c : TreeConfig} {v : Int} : c.validSample v = true
    ↔ (c.teq.toNat : Int) - c.maxRtt.toNat ≤ v ∧ v ≤ (c.teq.toNat : Int) - c.minRtt.toNat := decide_eq_true_iff

theorem TreeConfig.windowSample_iff (c : TreeConfig) (e : Entry) (h point : Nat) (bursts : List Burst) (v : Int) :
    c.windowSample e h point bursts = some v ↔ ∃ (b : Burst) (m : Mark) (arrival : Nat), bursts = [b] ∧ b.result = .good
      ∧ b.payload = some (.answer m h) ∧ e.mark = some m ∧ b.arrival = some arrival ∧ v = (point : Int) - arrival
      ∧ (c.teq.toNat : Int) - c.maxRtt.toNat ≤ v ∧ v ≤ (c.teq.toNat : Int) - c.minRtt.toNat := by
  constructor
  · intro hsome
    unfold TreeConfig.windowSample at hsome
    split at hsome
    · next b =>
      split at hsome
      · next m handle arrival hresult hpayload harrival =>
        dsimp only at hsome
        split at hsome
        · next hall =>
          obtain ⟨hmark, rfl, hvalid⟩ := hall
          obtain rfl := Option.some.inj hsome
          exact ⟨b, m, arrival, rfl, hresult, hpayload, hmark.symm, harrival, rfl, TreeConfig.validSample_iff.1 hvalid⟩
        · exact nomatch hsome
      · exact nomatch hsome
    · exact nomatch hsome
  · rintro ⟨b, m, arrival, rfl, hresult, hpayload, hmark, harrival, rfl, hrange⟩
    unfold TreeConfig.windowSample
    dsimp only
    rw [hresult, hpayload, harrival]
    exact if_pos ⟨hmark.symm, rfl, TreeConfig.validSample_iff.2 hrange⟩

/-! ## The state the result finds (R76, R80) -/

/-- The state a measuring window's result finds: that of before, but for the ring and the report errors. -/
structure MeasuredFrom (k : TreeId) (s v : State) : Prop where
  entries : v.entries = s.entries
  bars : v.bars = s.bars
  outQueue : v.outQueue = s.outQueue
  eventQueue : v.eventQueue = s.eventQueue
  config : (v.tree k).config = (s.tree k).config
  tuning : (v.tree k).tuning = (s.tree k).tuning
  claims : (v.tree k).calendar.claims = (s.tree k).calendar.claims

section
variable {s v : State} {k : TreeId} {h : Nat} {c : Cycle}

theorem MeasuredFrom.entry (hv : MeasuredFrom k s v) (j : Nat) : v.entry j = s.entry j := by
  rw [State.entry, hv.entries, State.entry]

/-- The end of a measuring window hands its result on (R76, R80). -/
theorem exec_burstReport_measure {record : ReportRecord} {i : Nat} {r : Reservation} {b : Burst}
    (hreport : reportsOn s k record c i r b) (hkind : r.kind = .quietMeasure) (hhandle : r.handle = some h)
    (hopen : r.ended = false) (hb : b.result = .windowEnd) : ∃ v, MeasuredFrom k s v
      ∧ exec (.burstReport k record) s = .next (v.measureResult k h c (r.answerPoint.getD 0) r.bursts) := by
  have htakes : r.takesOutcome = false := by rw [Reservation.takesOutcome, hkind]; rfl
  have hend : ∀ u : State, ∃ f, u.endWindow k c i r
      = (u.modRing k f).measureResult k h c (r.answerPoint.getD 0) r.bursts := fun u => by
    unfold State.endWindow
    rw [hkind, hhandle]
    exact ⟨_, rfl⟩
  obtain ⟨u, hu, htree, hexec⟩ : ∃ u : State, (u.entries = s.entries ∧ u.bars = s.bars ∧ u.outQueue = s.outQueue
      ∧ u.eventQueue = s.eventQueue) ∧ u.tree k = s.tree k
      ∧ exec (.burstReport k record) s = .next (u.endWindow k c i r) := by
    rw [exec_burstReport_of_reportsOn hreport, State.takeReport_end htakes hopen hb]
    split
    · exact ⟨s, ⟨rfl, rfl, rfl, rfl⟩, rfl, rfl⟩
    · exact ⟨s.countReportError, ⟨rfl, rfl, rfl, rfl⟩, rfl, rfl⟩
  obtain ⟨f, hf⟩ := hend u
  obtain ⟨hentries, hbars, hout, hevents⟩ := hu
  have hring := u.tree_modRing k f
  rw [htree] at hring
  exact ⟨u.modRing k f, ⟨hentries, hbars, hout, hevents, by rw [hring], by rw [hring], by rw [hring]⟩,
    by rw [hexec, hf]⟩

/-! ## The attempt counted (R125, R126) -/

theorem Entry.measuring_iff {e : Entry} : e.measuring = true ↔ e.state = .candidate ∨ e.state = .reranging := by
  rw [Entry.measuring, Bool.or_eq_true, beq_iff_eq, beq_iff_eq]

/-- The entry whose measuring window has ended (R126). -/
def Entry.windowOver (e : Entry) : Entry :=
  { e with measureCycle := none, measureAttempts := e.measureAttempts.map fun n => min (n + 1) 7 }

/-- The state in which the window of the entry has ended. -/
def State.windowOver (s : State) (h : Nat) : State := s.modEntry h Entry.windowOver

theorem State.measureResult_of_measuring {point : Nat} {bursts : List Burst} (hs : (s.entry h).measuring = true)
    (hc : (s.entry h).measureCycle = some c) {drawn : Option Int}
    (hdrawn : (s.tree k).config.windowSample (s.entry h) h point bursts = drawn) :
    s.measureResult k h c point bursts
      = drawn.elim ((s.windowOver h).judgeAttempts k h) fun sample => (s.windowOver h).pairSample k h sample := by
  rw [State.measureResult]
  refine (if_pos (by rw [hs, hc, Bool.true_and, beq_iff_eq])).trans ?_
  have htree : ((s.modEntry h fun e => { e with
      measureCycle := none, measureAttempts := e.measureAttempts.map fun n => min (n + 1) 7 }).tree k).config
      = (s.tree k).config := rfl
  dsimp only
  rw [htree, hdrawn]
  cases drawn <;> rfl

theorem State.measureResult_of_not {point : Nat} {bursts : List Burst}
    (hnot : (s.entry h).measuring = false ∨ (s.entry h).measureCycle ≠ some c) :
    s.measureResult k h c point bursts = s := by
  rw [State.measureResult]
  refine if_neg fun hall => ?_
  rw [Bool.and_eq_true, beq_iff_eq] at hall
  exact hnot.elim (fun hf => Bool.false_ne_true (hf.symm.trans hall.1)) fun hc => hc hall.2

/-! ## The attempts judged (R128, R129) -/

theorem State.judgeAttempts_of_left (hleft : (s.entry h).measureAttempts.getD 0 < (s.tree k).tuning.measureAttempts) :
    s.judgeAttempts k h = s.requestRanging k h := if_neg (Nat.not_le.2 hleft)

theorem State.judgeAttempts_of_none (hnone : (s.tree k).tuning.measureAttempts ≤ (s.entry h).measureAttempts.getD 0) :
    s.judgeAttempts k h = s.failRanging k h 0 := if_pos hnone

/-- A failure departs the entry with one RELEASE, and MEASURE_FAILED comes first of what it writes (R129). -/
theorem State.failRanging_departs (s : State) (k : TreeId) (h cause : Nat) :
    sameButClaim (s.entry h).failedRanging ((s.failRanging k h cause).entry h)
      ∧ ∃ more, s.eventQueue.length + 3 ≤ 1024 → (s.failRanging k h cause).eventQueue
        = s.eventQueue ++ eventHeader .measureFailed k h [0, 0]
          :: (markWords ((s.entry h).mark.getD 0) (byteFields (s.entry h).state.code cause) ++ more) := by
  obtain ⟨-, -, more, hmore⟩ := s.failRanging_kept k h cause
  refine ⟨by rw [s.entry_failRanging k h cause]; exact (s.failureTold_passed k h cause).entry, more, fun hroom => ?_⟩
  rw [hmore, s.failureTold_wrote k h cause hroom]
  simp only [List.append_assoc, List.cons_append]
  rfl

/-! ## A pair of samples (R25, R127, R130) -/

theorem NumMap.countP_set {α : Type} {p : Nat × α → Bool} {k : Nat} {a : α} (ha : p (k, a) = false) :
    ∀ {m : NumMap α}, (∀ b, NumMap.get? m k = some b → p (k, b) = false) →
      (NumMap.set m k a).countP p = m.countP p
  | [], _ => by rw [NumMap.set, List.countP_cons_of_neg (by rw [ha]; exact Bool.false_ne_true)]
  | (j, b) :: rest, hb => by
    rw [NumMap.set]
    by_cases hlt : k < j
    · rw [if_pos hlt, List.countP_cons_of_neg (by rw [ha]; exact Bool.false_ne_true)]
    by_cases hkj : k = j
    · subst hkj
      have hold := hb b (by rw [NumMap.get?, if_pos rfl])
      rw [if_neg hlt, if_pos rfl, List.countP_cons_of_neg (by rw [ha]; exact Bool.false_ne_true),
        List.countP_cons_of_neg (by rw [hold]; exact Bool.false_ne_true)]
    · have hrest : (NumMap.set rest k a).countP p = rest.countP p :=
        NumMap.countP_set ha fun b' hget => hb b' (by rw [NumMap.get?, if_neg (Ne.symm hkj)]; exact hget)
      rw [if_neg hlt, if_neg hkj, List.countP_cons, List.countP_cons, hrest]

/-- A change between states that hold no enrollment slot leaves the slots in use (R24). -/
theorem State.slotsInUse_modEntry {f : Entry → Entry} (hold : (s.entry h).enrolling = false)
    (hnew : (f (s.entry h)).enrolling = false) (hf : (f (s.entry h)).state ≠ .free) :
    (s.modEntry h f).slotsInUse k = s.slotsInUse k := by
  have hentries : (s.modEntry h f).entries = NumMap.set s.entries h (f (s.entry h)) := if_neg hf
  rw [State.slotsInUse, hentries, State.tree_modEntry]
  refine NumMap.countP_set (by rw [hnew, Bool.and_false]) fun e he => ?_
  have hentry : s.entry h = e := by rw [State.entry, he, Option.getD_some]
  rw [← hentry, hold, Bool.and_false]

variable {sample last : Int}

theorem State.pairSample_of_pair (hl : (s.entry h).lastSample = some last)
    (hagrees : (sample - last).natAbs ≤ (s.tree k).tuning.tolerance)
    (hslot : (s.entry h).state = .candidate ∨ s.slotsInUse k < 8) :
    s.pairSample k h sample = s.settle k h sample last := by
  rw [State.pairSample, hl]
  refine if_pos ?_
  rw [Bool.and_eq_true, Bool.or_eq_true, beq_iff_eq, decide_eq_true_iff, samplesAgree, decide_eq_true_iff]
  exact ⟨hagrees, hslot⟩

theorem State.pairSample_of_kept (hnot : ∀ last, (s.entry h).lastSample = some last →
      (sample - last).natAbs ≤ (s.tree k).tuning.tolerance → (s.entry h).state ≠ .candidate ∧ 8 ≤ s.slotsInUse k) :
    s.pairSample k h sample
      = (s.modEntry h fun e => { e with lastSample := some sample }).judgeAttempts k h := by
  unfold State.pairSample
  dsimp only
  cases hl : (s.entry h).lastSample with
  | none => rfl
  | some last =>
    refine if_neg fun hall => ?_
    rw [Bool.and_eq_true, Bool.or_eq_true, beq_iff_eq, decide_eq_true_iff, samplesAgree, decide_eq_true_iff] at hall
    obtain ⟨hcandidate, hfull⟩ := hnot last hl hall.1
    exact hall.2.elim hcandidate (Nat.not_lt.2 hfull)

/-- An agreeing pair settles the entry (R127, R130). -/
theorem State.settle_outcome : sameButClaim ((s.entry h).toSettling ((sample + last) / 2).toNat sample)
      ((s.settle k h sample last).entry h) ∧ h ∈ ((s.settle k h sample last).tree k).calendar.settleDue := by
  let u := s.modEntry h fun e => e.toSettling ((sample + last) / 2).toNat sample
  have hentry : u.entry h = (s.entry h).toSettling ((sample + last) / 2).toNat sample :=
    State.entry_modEntry_of_ne (s := s) (f := fun e => e.toSettling ((sample + last) / 2).toNat sample) rfl nofun
  have hclaims : ClaimsOnly u (s.settle k h sample last) := ((ClaimsOnly.refl u).dropClaim h).joinSettleDue h
  refine ⟨?_, ?_⟩
  · rw [← hentry]
    exact hclaims.entry_eq (by rw [hentry]; exact nofun)
  · rw [State.settle, State.joinSettleDue, State.tree_modCalendar, if_pos rfl]
    exact List.mem_append_right _ List.mem_cons_self

end

/-! ## The result judged -/

/-- The state after a window that settles nothing, its attempts still to be judged: the entry is the one given. -/
structure MeasuredTo (k : TreeId) (h : Nat) (e : Entry) (s u : State) : Prop where
  entry : u.entry h = e
  bars : u.bars = s.bars
  outQueue : u.outQueue = s.outQueue
  eventQueue : u.eventQueue = s.eventQueue
  tuning : (u.tree k).tuning = (s.tree k).tuning
  claims : (u.tree k).calendar.claims = (s.tree k).calendar.claims

section
variable {s v u : State} {k : TreeId} {h n : Nat} {e : Entry}

theorem MeasuredFrom.windowOver (hv : MeasuredFrom k s v) (hf : (s.entry h).state ≠ .free) :
    MeasuredTo k h (s.entry h).windowOver s (v.windowOver h) where
  entry := State.entry_modEntry_of_ne (s := v) (f := Entry.windowOver) (by rw [hv.entry]) hf
  bars := hv.bars
  outQueue := hv.outQueue
  eventQueue := hv.eventQueue
  tuning := hv.tuning
  claims := hv.claims

theorem MeasuredTo.modEntry (hu : MeasuredTo k h e s u) {f : Entry → Entry} (hf : (f e).state ≠ .free) :
    MeasuredTo k h (f e) s (u.modEntry h f) where
  entry := State.entry_modEntry_of_ne (by rw [hu.entry]) hf
  bars := hu.bars
  outQueue := hu.outQueue
  eventQueue := hu.eventQueue
  tuning := hu.tuning
  claims := hu.claims

/-- With attempts left the next window is requested (R128). -/
theorem MeasuredTo.attemptsLeft (hu : MeasuredTo k h e s u) (hf : e.state ≠ .free) (hn : e.measureAttempts = some n)
    (hleft : n < (s.tree k).tuning.measureAttempts) : u.judgeAttempts k h = u.requestRanging k h
      ∧ sameButClaim e ((u.requestRanging k h).entry h) := by
  refine ⟨State.judgeAttempts_of_left (by rw [hu.entry, hn, hu.tuning]; exact hleft), ?_⟩
  have hkept := ((ClaimsOnly.refl u).requestRanging (t := k) h).entry_eq (j := h) (by rw [hu.entry]; exact hf)
  rwa [hu.entry] at hkept

/-- With no attempt left ranging fails (R129). -/
theorem MeasuredTo.attemptsSpent (hu : MeasuredTo k h e s u) (hn : e.measureAttempts = some n)
    (hspent : (s.tree k).tuning.measureAttempts ≤ n) : u.judgeAttempts k h = u.failRanging k h 0
      ∧ sameButClaim e.failedRanging ((u.failRanging k h 0).entry h)
      ∧ ∃ more, s.eventQueue.length + 3 ≤ 1024 → (u.failRanging k h 0).eventQueue
        = s.eventQueue ++ eventHeader .measureFailed k h [0, 0]
          :: (markWords (e.mark.getD 0) (byteFields e.state.code 0) ++ more) := by
  obtain ⟨hentry, more, hmore⟩ := u.failRanging_departs k h 0
  rw [hu.entry] at hentry
  rw [hu.entry, hu.eventQueue] at hmore
  exact ⟨State.judgeAttempts_of_none (by rw [hu.entry, hn, hu.tuning]; exact hspent), hentry, more, hmore⟩

end

/-- Settles O41: the sample, then the pair, the attempts, and a result that comes to no entry. -/
theorem measuringWindowPairsSamples : Obligations.MeasuringWindowPairsSamples := by
  refine ⟨TreeConfig.windowSample_iff, ?_⟩
  intro k record c i h r b s hreport hkind hhandle hopen hb e drawn agrees
  obtain ⟨v, hv, hexec⟩ := exec_burstReport_measure hreport hkind hhandle hopen hb
  have hve : v.entry h = e := hv.entry h
  refine ⟨fun n hs hc hn => ?measured, fun hnot => ?ignored⟩
  case ignored =>
    have hsame : v.measureResult k h c (r.answerPoint.getD 0) r.bursts = v :=
      State.measureResult_of_not (by
        rw [hve]
        exact hnot.imp_left fun hstates => Bool.eq_false_iff.2 fun hm =>
          (Entry.measuring_iff.1 hm).elim hstates.1 hstates.2)
    exact ⟨v, by rw [hexec, hsame], hv.entries, hv.eventQueue, hv.outQueue, hv.claims⟩
  case measured =>
    have hf : e.state ≠ .free := by rcases hs with hs | hs <;> rw [hs] <;> exact nofun
    have hover := hv.windowOver (h := h) hf
    have hresult := State.measureResult_of_measuring (s := v) (k := k) (h := h) (c := c) (drawn := drawn)
      (by rw [hve]; exact Entry.measuring_iff.2 hs) (by rw [hve]; exact hc) (by rw [hv.config, hve])
    have hattempts : e.windowOver.measureAttempts = some (min (n + 1) 7) := by
      show e.measureAttempts.map _ = _
      rw [hn]
      rfl
    intro judged
    have hjudged : ∀ (last : Option Int) (u : State), MeasuredTo k h { e.windowOver with lastSample := last } s u →
        v.measureResult k h c (r.answerPoint.getD 0) r.bursts = u.judgeAttempts k h → judged last := by
      intro last u hu heq
      have hentry : { e.windowOver with lastSample := last }
          = { e with lastSample := last, measureAttempts := some (min (n + 1) 7), measureCycle := none } := by
        rw [← hattempts]
        rfl
      rw [hentry] at hu
      refine ⟨fun hleft => ?_, fun hspent => ?_⟩
      · obtain ⟨hnext, hkept⟩ := hu.attemptsLeft hf rfl hleft
        exact ⟨u, by rw [hexec, heq, hnext], hu.entry, hkept, hu.claims, hu.outQueue, hu.eventQueue⟩
      · obtain ⟨hnext, hfailed, more, hmore⟩ := hu.attemptsSpent rfl hspent
        exact ⟨u, more, by rw [hexec, heq, hnext], hu.entry, hu.bars, by rw [hfailed]; rfl, by rw [hfailed]; rfl,
          by rw [hfailed]; rfl, hmore⟩
    let w := v.windowOver h
    have hslots : e.state = .reranging → w.slotsInUse k = s.slotsInUse k := fun hre => by
      have hbefore : v.slotsInUse k = s.slotsInUse k := by
        rw [State.slotsInUse, hv.entries, State.slotsInUse]
        have hwindow : (v.tree k).inWindow = (s.tree k).inWindow := by
          funext j
          rw [Tree.inWindow, hv.config, Tree.inWindow]
        rw [hwindow]
      have hrests : e.enrolling = false := by rw [Entry.enrolling, hre]; rfl
      exact (State.slotsInUse_modEntry (s := v) (f := Entry.windowOver) (by rw [hve]; exact hrests)
        (by rw [hve]; exact hrests) (by rw [hve]; exact hf)).trans hbefore
    refine ⟨fun sample last hdrawn hlast hnear hslot => ?_, fun sample hdrawn hnot => ?_, fun hdrawn => ?_⟩
    · have hpair : w.pairSample k h sample = w.settle k h sample last :=
        State.pairSample_of_pair (by rw [hover.entry]; exact hlast) (by rw [hover.tuning]; exact hnear) (by
          rw [hover.entry]
          refine hs.imp_right fun hre => ?_
          rw [hslots hre]
          exact hslot.resolve_left (by rw [hre]; exact nofun))
      obtain ⟨hentry, hdue⟩ := State.settle_outcome (s := w) (k := k) (h := h) (sample := sample) (last := last)
      rw [hover.entry, Entry.toSettling, hattempts] at hentry
      rw [hdrawn] at hresult
      exact ⟨_, hexec.trans (congrArg Host.Outcome.next (hresult.trans hpair)), hentry, hdue⟩
    · have hkept : w.pairSample k h sample
          = (w.modEntry h fun e => { e with lastSample := some sample }).judgeAttempts k h := by
        refine State.pairSample_of_kept fun last hlast hnear => ?_
        rw [hover.entry] at hlast ⊢
        rw [hover.tuning] at hnear
        obtain ⟨hre, hfull⟩ := hnot.resolve_left (not_not.2 ⟨last, hlast, hnear⟩)
        exact ⟨by show e.state ≠ .candidate; rw [hre]; exact nofun, by rw [hslots hre]; exact hfull⟩
      refine hjudged (some sample) _ (hover.modEntry (f := fun e => { e with lastSample := some sample }) hf) ?_
      rw [hresult, hdrawn]
      exact hkept
    · refine hjudged e.lastSample w hover ?_
      rw [hresult, hdrawn]
      rfl

end Sys2Proof.Machine
end

section
/-! PROOFS. What every passage out of the roster brings: ROSTER, the strikes, and the departures from the Probe Due list and
the Control Queue (R23, R71, R96, R116, R154, R164, R165). -/

namespace Sys2Proof.Machine

/-! ## Grants in unsent slots (R71) -/

/-- No unsent slot holds a grant for the handle. -/
def Calendar.noGrant (w : Calendar) (h : Nat) : Prop :=
  ∀ y ∈ w.ring, y.state.unsent = true → ∀ r ∈ y.reservations, r.kind = .grant → r.handle ≠ some h

theorem SlotState.unsent_withQuiet (x : SlotState) : x.withQuiet.unsent = x.unsent := by cases x <;> rfl

theorem Tree.windowFor_kind (x : Tree) (q : Claim) : (x.windowFor q).kind ≠ .grant := by
  cases q <;> exact nofun

section
variable {w : Calendar} {h : Nat}

/-- A quiet window that joins a slot is no grant (R66). -/
theorem Calendar.noGrant_granted (hw : w.noGrant h) {q : Claim} {c : Cycle} {r : Reservation} (hr : r.kind ≠ .grant) :
    (w.granted q c r).noGrant h := by
  intro y hy hunsent p hp hkind
  obtain ⟨z, hz, rfl⟩ : ∃ z ∈ w.ring, (if z.cycle = c then z.withWindow r else z) = y := List.mem_map.1 hy
  by_cases hc : z.cycle = c
  · rw [if_pos hc] at hunsent hp
    rw [Slot.withWindow, SlotState.unsent_withQuiet] at hunsent
    rcases mem_insertReservation.1 hp with rfl | hold
    · exact absurd hkind hr
    · exact hw z hz hunsent p hold hkind
  · rw [if_neg hc] at hunsent hp
    exact hw z hz hunsent p hp hkind

/-- The strikes leave no grant for the handle (R71). -/
theorem Calendar.noGrant_struck (w : Calendar) (h : Nat) : Calendar.noGrant { w with ring := w.ring.map fun y =>
    if y.state.unsent then { y with reservations := y.reservations.filter fun r => !r.struckBy h } else y } h := by
  intro y hy hunsent p hp hkind hhandle
  obtain ⟨z, hz, rfl⟩ : ∃ z ∈ w.ring, (if z.state.unsent = true then
    { z with reservations := z.reservations.filter fun r => !r.struckBy h } else z) = y := List.mem_map.1 hy
  by_cases hz' : z.state.unsent = true
  · rw [if_pos hz'] at hp
    have hkept := (List.mem_filter.1 hp).2
    rw [Reservation.struckBy, Reservation.takesOutcome_iff.2 (.inl hkind), hhandle, Bool.true_and, beq_self_eq_true]
      at hkept
    exact nomatch hkept
  · rw [if_neg hz'] at hunsent
    exact hz' hunsent

end

section
variable {s : State} {k : TreeId} {h : Nat}

theorem State.noGrant_grantClaim (hs : (s.tree k).calendar.noGrant h) (q : Claim) (c : Cycle) :
    ((s.grantClaim k q c).tree k).calendar.noGrant h := by
  rw [State.calendar_grantClaim]
  exact Calendar.noGrant_granted hs (Tree.windowFor_kind _ q)

theorem State.noGrant_arbitrate (hs : (s.tree k).calendar.noGrant h) :
    ((s.arbitrate k).tree k).calendar.noGrant h :=
  State.arbitrate_induction (P := fun u => (u.tree k).calendar.noGrant h) s k hs
    fun _ q j hu _ => State.noGrant_grantClaim hu q j.cycle

theorem State.noGrant_requestClaim (hs : (s.tree k).calendar.noGrant h) (q : Claim) :
    ((s.requestClaim k q).tree k).calendar.noGrant h := by
  cases htaken : s.claimTaken k q with
  | false => rwa [State.requestClaim_of_notTaken htaken]
  | true =>
    cases hj : (s.tree k).eligibleSlot q with
    | some j =>
      rw [State.requestClaim_of_granted htaken hj]
      exact State.noGrant_grantClaim hs q j.cycle
    | none =>
      rw [State.requestClaim_of_waiting htaken hj, State.tree_modCalendar, if_pos rfl]
      exact hs

theorem State.noGrant_requestRanging (hs : (s.tree k).calendar.noGrant h) (j : Nat) :
    ((s.requestRanging k j).tree k).calendar.noGrant h := by
  cases horigin : (s.entry j).origin with
  | some origin =>
    rw [State.requestRanging_eq horigin]
    exact State.noGrant_requestClaim hs _
  | none =>
    have hsame : s.requestRanging k j = s := by rw [State.requestRanging, horigin]
    rwa [hsame]

/-- The strikes of a handle: its grants gone, and counted (R71). -/
theorem State.strike_outcome (s : State) (k : TreeId) (h : Nat) : ((s.strike k h).tree k).calendar.noGrant h
    ∧ ((s.strike k h).tree k).counters.grantsStruck
      = (s.tree k).counters.grantsStruck + BitVec.ofNat 32 ((s.tree k).calendar.grantsFor h) := by
  let v := (s.modCalendar k fun w => { w with ring := w.ring.map fun y =>
    if y.state.unsent then { y with reservations := y.reservations.filter fun r => !r.struckBy h } else y }).countBy k
      .grantsStruck ((s.tree k).calendar.grantsFor h)
  have hv : (v.tree k).calendar.noGrant h ∧ (v.tree k).counters.grantsStruck
      = (s.tree k).counters.grantsStruck + BitVec.ofNat 32 ((s.tree k).calendar.grantsFor h) := by
    rw [State.tree_countBy, if_pos rfl, State.tree_modCalendar, if_pos rfl]
    exact ⟨Calendar.noGrant_struck _ h, rfl⟩
  have heq : s.strike k h = if (s.tree k).calendar.grantsFor h = 0 then v else v.arbitrate k := rfl
  rw [heq]
  split
  · exact hv
  · have hsame : ∀ z : Tree, z.counters = z.apartFromClaims.counters := fun _ => rfl
    refine ⟨State.noGrant_arbitrate hv.1, ?_⟩
    rw [hsame, State.apartFromClaims_arbitrate, ← hsame]
    exact hv.2

/-! ## The notices of a passage out of the roster (R23) -/

/-- What has been told and struck once the entry of h has left the roster. -/
structure RosterLeft (k : TreeId) (h termClass : Nat) (s t : State) : Prop where
  told : s.outQueue.length < 512 → ∃ more, t.outQueue = s.outQueue ++ .roster k h .removed termClass :: more
  noGrant : (t.tree k).calendar.noGrant h
  struck : (t.tree k).counters.grantsStruck
    = (s.tree k).counters.grantsStruck + BitVec.ofNat 32 ((s.tree k).calendar.grantsFor h)
  probeDue : h ∉ (t.tree k).upkeep.probeDue

variable {v t u : State} {termClass : Nat}

theorem State.rosterLeft_left (hclass : (v.entry h).termClass.getD 0 = termClass) (hout : v.outQueue = s.outQueue)
    (hcalendar : (v.tree k).calendar = (s.tree k).calendar) (hcounters : (v.tree k).counters = (s.tree k).counters) :
    RosterLeft k h termClass s (v.rosterLeft k h) := by
  let w := v.rosterNotice k h .removed
  have hw : w.tree k = v.tree k := State.tree_makeFrame v _ k
  obtain ⟨hgrant, hstruck⟩ := w.strike_outcome k h
  rw [hw, hcalendar, hcounters] at hstruck
  have hframes := ((EngineFrame.refl k w).strike h).modUpkeep fun u => { u with probeDue := u.probeDue.filter (· != h) }
  have htree : (v.rosterLeft k h).tree k = { (w.strike k h).tree k with upkeep := { ((w.strike k h).tree k).upkeep with
      probeDue := ((w.strike k h).tree k).upkeep.probeDue.filter (· != h) } } := by
    rw [State.rosterLeft, State.tree_modUpkeep, if_pos rfl]
  refine ⟨fun hroom => ?_, ?_, ?_, ?_⟩
  · obtain ⟨more, hmore⟩ := hframes.frames
    have hroster : w.outQueue = s.outQueue ++ [.roster k h .removed termClass] := by
      rw [← hclass, ← hout]
      exact State.outQueue_makeFrame (by rw [hout]; exact hroom)
    exact ⟨more, hmore.trans (by rw [hroster, List.append_assoc]; rfl)⟩
  · rw [htree]
    exact hgrant
  · rw [htree]
    exact hstruck
  · rw [htree]
    exact notMem_filter_ne _ h

/-- What leaves those parts of the tree, and only adds frames, leaves all of it told and struck. -/
theorem RosterLeft.mono (ht : RosterLeft k h termClass s t) (hout : ∃ more, u.outQueue = t.outQueue ++ more)
    (hgrant : (u.tree k).calendar.noGrant h)
    (hstruck : (u.tree k).counters.grantsStruck = (t.tree k).counters.grantsStruck)
    (hdue : (u.tree k).upkeep.probeDue = (t.tree k).upkeep.probeDue) : RosterLeft k h termClass s u := by
  refine ⟨fun hroom => ?_, hgrant, hstruck.trans ht.struck, by rw [hdue]; exact ht.probeDue⟩
  obtain ⟨more, hmore⟩ := ht.told hroom
  obtain ⟨next, hnext⟩ := hout
  exact ⟨more ++ next, by rw [hnext, hmore, List.append_assoc]; rfl⟩

theorem RosterLeft.modControl (ht : RosterLeft k h termClass s t) (f : ControlQueue → ControlQueue) :
    RosterLeft k h termClass s (t.modControl k f) := by
  have htree : (t.modControl k f).tree k = { t.tree k with control := f (t.tree k).control } := by
    rw [State.tree_modControl, if_pos rfl]
  exact ht.mono ⟨[], (List.append_nil _).symm⟩ (by rw [htree]; exact ht.noGrant) (by rw [htree]) (by rw [htree])

theorem RosterLeft.writeEvent (ht : RosterLeft k h termClass s t) (kind : EventKind) (j : Nat)
    (extra : List EventWord) : RosterLeft k h termClass s (t.writeEvent kind k j extra) := by
  have htree := State.tree_writeEvent t kind k j extra k
  exact ht.mono ⟨[], by rw [State.outQueue_writeEvent, List.append_nil]⟩ (by rw [htree]; exact ht.noGrant)
    (by rw [htree]) (by rw [htree])

theorem RosterLeft.helloOk (ht : RosterLeft k h termClass s t) : RosterLeft k h termClass s (t.count k .helloOk) := by
  have htree := t.tree_helloOk k
  exact ht.mono ⟨[], (List.append_nil _).symm⟩ (by rw [htree]; exact ht.noGrant) (by rw [htree]) (by rw [htree])

theorem RosterLeft.requestRanging (ht : RosterLeft k h termClass s t) (j : Nat) :
    RosterLeft k h termClass s (t.requestRanging k j) := by
  have hcounters : ∀ z : Tree, z.counters = z.apartFromClaims.counters := fun _ => rfl
  have hupkeep : ∀ z : Tree, z.upkeep = z.apartFromClaims.upkeep := fun _ => rfl
  refine ht.mono ((EngineFrame.refl k t).requestRanging j).frames (State.noGrant_requestRanging ht.noGrant j) ?_ ?_
  · rw [hcounters, State.apartFromClaims_requestRanging, ← hcounters]
  · rw [hupkeep, State.apartFromClaims_requestRanging, ← hupkeep]

/-- The words of a command and its outcome stand in the mailbox alone. -/
theorem RosterLeft.of_command {code : Nat} {args : Quad Word} (r : Option Running)
    (ht : RosterLeft k h termClass (s.written code args) t) :
    RosterLeft k h termClass s { t with running := r } := ⟨ht.told, ht.noGrant, ht.struck, ht.probeDue⟩

/-! ## The TRIM of an entry that left the roster (R154, R164) -/

/-- The Control Queue of the tree holds no TRIM for the handle. -/
def State.noTrim (s : State) (k : TreeId) (h : Nat) : Prop := ∀ m ∈ (s.tree k).control.queue, m.isTrimFor h = false

theorem State.noTrim.congr (ht : t.noTrim k h) (hcontrol : (u.tree k).control = (t.tree k).control) : u.noTrim k h := by
  rw [State.noTrim, hcontrol]
  exact ht

theorem State.noTrim.requestRanging (ht : t.noTrim k h) (j : Nat) : (t.requestRanging k j).noTrim k h := by
  have hsame : ∀ z : Tree, z.control = z.apartFromClaims.control := fun _ => rfl
  exact ht.congr (by rw [hsame, State.apartFromClaims_requestRanging, ← hsame])

theorem State.noTrim.of_command (r : Option Running) (ht : t.noTrim k h) :
    State.noTrim { t with running := r } k h := ht

theorem Entry.rostered_cases {e : Entry} (he : e.inRoster = true) : e.state = .registered ∨ e.state = .lost := by
  rwa [Entry.inRoster, Bool.or_eq_true, beq_iff_eq, beq_iff_eq] at he

/-- The notices of a rostered entry, and its TRIM taken from the queue. -/
theorem State.leftNotices_left {left : EntryState} (hleft : left = .registered ∨ left = .lost)
    (hclass : (v.entry h).termClass.getD 0 = termClass) (hout : v.outQueue = s.outQueue)
    (hcalendar : (v.tree k).calendar = (s.tree k).calendar) (hcounters : (v.tree k).counters = (s.tree k).counters) :
    RosterLeft k h termClass s ((v.leftNotices k h left).dropTrimAfter k h left)
      ∧ ((v.leftNotices k h left).dropTrimAfter k h left).noTrim k h := by
  have heq : (v.leftNotices k h left).dropTrimAfter k h left = (v.rosterLeft k h).dropTrim k h := by
    rcases hleft with rfl | rfl <;> rfl
  have hleft := State.rosterLeft_left hclass hout hcalendar hcounters
  rw [heq]
  refine ⟨?_, State.dropTrim_noTrim _ k h⟩
  rw [State.dropTrim_eq]
  exact hleft.modControl _

/-- A passage that records an owed message: what it is told of has the class that the passage keeps. -/
theorem State.owedPassage_left (hroster : (s.entry h).inRoster = true) {f : Entry → Entry}
    (hclass : (f (s.entry h)).termClass = (s.entry h).termClass) (hf : (f (s.entry h)).state ≠ .free)
    (kind : OwedKind) (sends : Nat) :
    let v := (s.modEntry h f).recordOwed k h kind sends
    let t := (v.leftNotices k h (s.entry h).state).dropTrimAfter k h (s.entry h).state
    RosterLeft k h ((s.entry h).termClass.getD 0) s t ∧ t.noTrim k h := by
  obtain ⟨g, hg⟩ := (s.modEntry h f).recordOwed_eq k h kind sends
  have hentry : (s.modEntry h f).entry h = f (s.entry h) := State.entry_modEntry_of_ne rfl hf
  dsimp only
  rw [hg]
  have htree : (((s.modEntry h f).modEntry h fun e => { e with owed := some { kind := kind, sends := sends } }).modControl
      k g).tree k = { s.tree k with control := g (s.tree k).control } := by
    rw [State.tree_modControl, if_pos rfl]
    rfl
  refine State.leftNotices_left (Entry.rostered_cases hroster) ?_ rfl (by rw [htree]) (by rw [htree])
  rw [State.entry_modControl, State.entry_modEntry_of_ne (e := { f (s.entry h) with
    owed := some { kind := kind, sends := sends } }) (by rw [hentry]) hf]
  dsimp only
  rw [hclass]

/-! ## The passages one by one -/

theorem State.departEntry_left (hroster : (s.entry h).inRoster = true) (reason : DepartureReason) (sends : Nat) :
    RosterLeft k h ((s.entry h).termClass.getD 0) s (s.departEntry k h reason sends)
      ∧ (s.departEntry k h reason sends).noTrim k h :=
  State.owedPassage_left hroster (f := fun e => e.toDeparting reason) rfl nofun .release sends

theorem State.hushEntry_left (hroster : (s.entry h).inRoster = true) (bySweep : Bool) :
    RosterLeft k h ((s.entry h).termClass.getD 0) s (s.hushEntry k h bySweep)
      ∧ (s.hushEntry k h bySweep).noTrim k h := by
  obtain ⟨hleft, htrim⟩ := State.owedPassage_left (k := k) hroster (f := fun e => e.toHushed bySweep) rfl nofun .hush 3
  exact ⟨hleft.writeEvent _ _ _, htrim.congr (by rw [State.hushEntry, State.tree_writeEvent])⟩

theorem State.rerange_left (origin : RangingOrigin) (reason : Nat) :
    RosterLeft k h ((s.entry h).termClass.getD 0) s (s.rerange k h origin reason)
      ∧ (s.rerange k h origin reason).noTrim k h := by
  let v := s.modEntry h fun e => e.toReranging origin
  have hentry : v.entry h = (s.entry h).toReranging origin :=
    State.entry_modEntry_of_ne (s := s) (f := fun e => e.toReranging origin) rfl nofun
  have hleft : RosterLeft k h ((s.entry h).termClass.getD 0) s (v.rosterLeft k h) :=
    State.rosterLeft_left (by rw [hentry]; rfl) rfl rfl rfl
  have hdropped : RosterLeft k h ((s.entry h).termClass.getD 0) s ((v.rosterLeft k h).dropTrim k h) := by
    rw [State.dropTrim_eq]
    exact hleft.modControl _
  have htrim : ((v.rosterLeft k h).dropTrim k h).noTrim k h := State.dropTrim_noTrim _ k h
  exact ⟨(hdropped.writeEvent .rerange h _).requestRanging h,
    (htrim.congr (by rw [State.tree_writeEvent])).requestRanging h⟩

theorem State.rejoin_left (hroster : (s.entry h).inRoster = true) (hroom : s.slotsInUse k < 8) (hello : Hello) :
    RosterLeft k h hello.termClass s (s.rejoin k h hello) ∧ (s.rejoin k h hello).noTrim k h := by
  have hentry : (s.madeCandidate h hello).entry h = (s.entry h).toCandidateHello hello.termClass hello.sample :=
    State.entry_modEntry_of_ne (s := s) (f := fun e => e.toCandidateHello hello.termClass hello.sample) rfl nofun
  obtain ⟨hleft, htrim⟩ := State.leftNotices_left (s := s) (v := s.madeCandidate h hello) (k := k)
    (Entry.rostered_cases hroster) (termClass := hello.termClass) (by rw [hentry]; rfl) rfl rfl rfl
  rw [State.rejoin_of_room (.inr hroom)]
  refine ⟨(hleft.writeEvent .rejoin h _).helloOk.requestRanging h, State.noTrim.requestRanging ?_ h⟩
  exact htrim.congr (by rw [State.tree_helloOk, State.tree_writeEvent]; rfl)

end

/-- Settles O28: each passage out of the roster goes through the same notices. -/
theorem leavingTheRosterStrikesAndTells : Obligations.LeavingTheRosterStrikesAndTells := by
  intro k h s hroster left held
  have hand : ∀ {termClass : Nat} {t : State}, RosterLeft k h termClass s t ∧ t.noTrim k h → left termClass t :=
    fun hboth => ⟨hboth.1.told, hboth.1.noGrant, hboth.1.struck, hboth.1.probeDue, hboth.2⟩
  have hstates := Entry.rostered_cases hroster
  refine ⟨fun c handle hc hfree hh hhandle ho hk => ?commands, fun reason sends => hand (State.departEntry_left hroster _ _),
    fun bySweep => hand (State.hushEntry_left hroster _), fun origin reason => hand (State.rerange_left _ _),
    fun m termClass sample hbar hm ht hroom => ?rejoin⟩
  case rejoin =>
    rw [State.judgeHello_of_known hbar hm, State.followEntry_rejoin ht (.inl hroster)]
    exact hand (State.rejoin_left hroster hroom { mark := m, termClass := termClass, sample := sample })
  case commands =>
    subst hhandle
    let a := oneArg s handle
    have hne : ∀ x : EntryState, x ≠ .registered → x ≠ .lost → (s.entry handle.toNat).state ≠ x := fun x hr hl => by
      rcases hstates with hs | hs <;> rw [hs]
      · exact hr.symm
      · exact hl.symm
    rcases hc with rfl | rfl | rfl
    · have hexec : exec (.release handle) s = .next ((s.written 20 a).goWith judgeRelease) := rfl
      have hdone := onEntry_of_taken (w := handle) (s := s.written 20 a) (takes := EntryState.releasable)
        (act := fun t h => ((s.written 20 a).departEntry t h .host 3).tellMonitor t h ((s.written 20 a).entry h))
        hh (EntryState.releasable_eq_true (hne .free nofun nofun) (hne .reserved nofun nofun)
          (hne .departing nofun nofun)) hk
      rw [State.tellMonitor_of_notOwned (e := (s.written 20 a).entry handle.toNat)
        (by rw [show ((s.written 20 a).entry handle.toNat).sweepOwned = none from ho]; exact nofun)] at hdone
      obtain ⟨hleft, htrim⟩ := State.departEntry_left (s := s.written 20 a) (k := k) hroster .host 3
      rw [hexec, State.goWith_written hfree hdone]
      exact ⟨_, rfl, hand ⟨hleft.of_command _, htrim.of_command _⟩⟩
    · have hexec : exec (.hush handle) s = .next ((s.written 21 a).goWith judgeHush) := rfl
      have hdone := onEntry_of_taken (w := handle) (s := s.written 21 a) (takes := EntryState.hushable)
        (act := fun t h => (s.written 21 a).hushEntry t h false)
        hh (EntryState.hushable_eq_true (hne .free nofun nofun) (hne .reserved nofun nofun)
          (hne .hushed nofun nofun) (hne .departing nofun nofun)) hk
      obtain ⟨hleft, htrim⟩ := State.hushEntry_left (s := s.written 21 a) (k := k) hroster false
      rw [hexec, State.goWith_written hfree hdone]
      exact ⟨_, rfl, hand ⟨hleft.of_command _, htrim.of_command _⟩⟩
    · have hexec : exec (.forceRange handle) s = .next ((s.written 23 a).goWith judgeForceRange) := rfl
      have hdone := onEntry_of_taken (w := handle) (s := s.written 23 a) (takes := EntryState.rostered)
        (act := fun t h => (s.written 23 a).rerange t h .forced rerangeForced)
        hh ((Entry.inRoster_eq _).symm.trans hroster) hk
      obtain ⟨hleft, htrim⟩ := State.rerange_left (s := s.written 23 a) (k := k) (h := handle.toNat) .forced rerangeForced
      rw [hexec, State.goWith_written hfree hdone]
      exact ⟨_, rfl, hand ⟨hleft.of_command _, htrim.of_command _⟩⟩

end Sys2Proof.Machine
end

section
/-! PROOFS. The bytes of the bundle's messages, and the placing of the echo slots of a send (R6 to R10, R17, R73). -/

namespace Sys2Proof.Machine

/-! ## Bytes (spec 01 section 1.7) -/

section
variable (v : Nat)

theorem bytesOf_three : bytesOf 3 v = BitVec.ofNat 8 (v / 2 ^ 16) :: bytesOf 2 v := by
  rw [bytesOf]
  rfl

/-- Six bytes are three pairs of bytes. -/
theorem bytesOf_six : bytesOf 6 v = bytesOf 2 (v / 2 ^ 32) ++ bytesOf 2 (v / 2 ^ 16) ++ bytesOf 2 v := by
  have h5 : v / 2 ^ 32 / 256 = v / 256 ^ 5 := Nat.div_div_eq_div_mul v _ _
  have h3 : v / 2 ^ 16 / 256 = v / 256 ^ 3 := Nat.div_div_eq_div_mul v _ _
  rw [bytesOf_two (v / 2 ^ 32), bytesOf_two (v / 2 ^ 16), h5, h3]
  rfl

end

/-- The layouts of the eight kinds of message, their check codes last (R8 to R10, R17). -/
theorem DownMessage.bytes_layouts (m : Mark) (h point start delay g : Nat) (c : Cycle) (range : BackoffRange)
    (head : MarkHead) :
    let sealed (body : List Byte) := body ++ bytesOf 2 (checkCode body).toNat
    let mark := bytesOf 2 (m.toNat / 2 ^ 32) ++ bytesOf 2 (m.toNat / 2 ^ 16) ++ bytesOf 2 m.toNat
    (DownMessage.call c point range head).bytes = sealed (bytesOf 1 0x01 ++ bytesOf 2 c.toNat ++ bytesOf 3 point
        ++ bytesOf 1 range.code ++ bytesOf 1 head.bits ++ bytesOf 2 (head.value * 2 ^ (16 - head.bits)))
      ∧ (DownMessage.measure m h c point).bytes
        = sealed (bytesOf 1 0x02 ++ mark ++ bytesOf 2 h ++ bytesOf 2 c.toNat ++ bytesOf 3 point)
      ∧ (DownMessage.settle m h delay g start).bytes
        = sealed (bytesOf 1 0x03 ++ mark ++ bytesOf 2 h ++ bytesOf 2 delay ++ bytesOf 1 g ++ bytesOf 2 start)
      ∧ (DownMessage.release h m).bytes = sealed (bytesOf 1 0x06 ++ bytesOf 2 h ++ mark) := by
  intro sealed mark
  have hmark : bytesOf 6 m.toNat = mark := bytesOf_six _
  rw [← hmark]
  exact ⟨rfl, rfl, rfl, rfl⟩

/-! ## Reservations in order (R61) -/

theorem sublist_insertReservation (r : Reservation) : ∀ rs, List.Sublist rs (insertReservation r rs)
  | [] => List.nil_sublist _
  | x :: rs => by
    rw [insertReservation]
    split
    · exact List.sublist_cons_self r _
    · exact (sublist_insertReservation r rs).cons_cons x

theorem length_insertReservation (r : Reservation) : ∀ rs, (insertReservation r rs).length = rs.length + 1
  | [] => rfl
  | x :: rs => by
    rw [insertReservation]
    split
    · rfl
    · rw [List.length_cons, length_insertReservation r rs, List.length_cons]

/-! ## The echo slots of a send (R73) -/

/-- The tree without what the placing of echo slots may change. -/
def Tree.apartFromEchoes (x : Tree) : Tree :=
  { x with calendar := Calendar.empty, upkeep := { x.upkeep with probeDue := [] } }

/-- The entry without what the placing of its echo slot may change. -/
def Entry.apartFromEchoes (e : Entry) : Entry :=
  { e with settleAttempts := none, settleEchoCycle := none, probeInFlight := none }

/-- Every entry that is FREE is the one FREE entry, as the canonical form has it. -/
def State.freeIsBlank (s : State) : Prop := ∀ h, (s.entry h).state = .free → s.entry h = Entry.free

theorem NumMap.mem_of_get? {α : Type} {k : Nat} {a : α} : ∀ {m : NumMap α}, NumMap.get? m k = some a → (k, a) ∈ m
  | (j, b) :: rest, h => by
    rw [NumMap.get?] at h
    split at h
    · next hj =>
      obtain rfl := Option.some.inj h
      exact hj ▸ List.mem_cons_self
    · exact List.mem_cons_of_mem _ (NumMap.mem_of_get? h)

theorem State.freeIsBlank_of_canonical {s : State} (hs : s.canonical) : s.freeIsBlank := by
  obtain ⟨-, -, hlisted⟩ := hs
  intro h hfree
  cases he : NumMap.get? s.entries h with
  | none => rw [State.entry, he, Option.getD_none]
  | some e =>
    rw [State.entry, he, Option.getD_some] at hfree
    exact absurd hfree (hlisted _ (NumMap.mem_of_get? he))

section
variable {s : State} {k : TreeId} {c : Cycle}

theorem State.freeIsBlank_modEntry (hs : s.freeIsBlank) (h : Nat) (f : Entry → Entry) : (s.modEntry h f).freeIsBlank := by
  intro j hfree
  by_cases hj : j = h
  · rw [State.modEntry, State.entry_setEntry, if_pos hj] at hfree ⊢
    split at hfree
    · next hf => rw [if_pos hf]
    · next hf => exact absurd hfree hf
  · rw [State.entry_modEntry_ne s h j f hj] at hfree ⊢
    exact hs j hfree

/-- A change of the parts that echo slots change, alone: where FREE entries are blank every entry keeps the rest. -/
theorem State.apartFromEchoes_modEntry (hs : s.freeIsBlank) {h : Nat} {f : Entry → Entry}
    (hstate : (f (s.entry h)).state = (s.entry h).state)
    (hf : (f (s.entry h)).apartFromEchoes = (s.entry h).apartFromEchoes) (j : Nat) :
    ((s.modEntry h f).entry j).apartFromEchoes = (s.entry j).apartFromEchoes := by
  by_cases hj : j = h
  · subst hj
    rw [State.modEntry, State.entry_setEntry, if_pos rfl]
    split
    · next hfree => rw [hs j (hstate.symm.trans hfree)]
    · exact hf
  · rw [State.entry_modEntry_ne s h j f hj]

/-- One echo slot placed: the slot of the cycle, the parts of the tree, and the entries. -/
theorem State.placeEcho_outcome {slot : Slot} (hslot : (s.tree k).calendar.slot? c = some slot) (purpose : EchoPurpose)
    (h start : Nat) :
    let p := s.placeEcho k c purpose h start
    (p.tree k).calendar.slot? c
        = some { slot with reservations := insertReservation (echoSlot purpose h start) slot.reservations }
      ∧ (p.tree k).apartFromEchoes = (s.tree k).apartFromEchoes
      ∧ (s.freeIsBlank → p.freeIsBlank ∧ ∀ j, (p.entry j).apartFromEchoes = (s.entry j).apartFromEchoes) := by
  have hjoined : ((s.tree k).calendar.modSlot c fun y =>
      { y with reservations := insertReservation (echoSlot purpose h start) y.reservations }).slot? c
      = some { slot with reservations := insertReservation (echoSlot purpose h start) slot.reservations } :=
    Calendar.slot?_modSlot_of_some (fun _ => rfl) hslot
  cases purpose with
  | settle =>
    intro p
    have htree := s.tree_placeEcho_settle k c h start
    refine ⟨by rw [htree]; exact hjoined, by rw [htree]; rfl, fun hblank => ⟨?_, fun j => ?_⟩⟩
    · exact State.freeIsBlank_modEntry (s := (s.modSlot k c fun y =>
        { y with reservations := insertReservation (echoSlot .settle h start) y.reservations }).dropSettleDue k h) hblank h _
    · exact State.apartFromEchoes_modEntry (s := (s.modSlot k c fun y =>
        { y with reservations := insertReservation (echoSlot .settle h start) y.reservations }).dropSettleDue k h)
        hblank (f := fun e => { e with settleAttempts := e.settleAttempts.map (· + 1), settleEchoCycle := some c }) rfl rfl j
  | probe =>
    intro p
    have htree := s.tree_placeEcho_probe k c h start
    refine ⟨by rw [htree]; exact hjoined, by rw [htree]; rfl, fun hblank => ⟨?_, fun j => ?_⟩⟩
    · exact State.freeIsBlank_modEntry (s := (s.modSlot k c fun y =>
        { y with reservations := insertReservation (echoSlot .probe h start) y.reservations }).modUpkeep k fun u =>
          { u with probeDue := u.probeDue.filter (· != h) }) hblank h _
    · exact State.apartFromEchoes_modEntry (s := (s.modSlot k c fun y =>
        { y with reservations := insertReservation (echoSlot .probe h start) y.reservations }).modUpkeep k fun u =>
          { u with probeDue := u.probeDue.filter (· != h) })
        hblank (f := fun e => { e with probeInFlight := some true }) rfl rfl j

/-- What the placing of echo slots leaves of the state, and the reservations it makes of the slot's. -/
structure EchoesPlaced (k : TreeId) (c : Cycle) (slot : Slot) (l : List (EchoPurpose × Nat)) (rs : List Reservation)
    (s p : State) : Prop where
  placed : (p.tree k).calendar.slot? c = some { slot with reservations := rs }
  sublist : slot.reservations.Sublist rs
  length : rs.length ≤ slot.reservations.length + l.length
  origin : ∀ r ∈ rs, r ∈ slot.reservations ∨ ∃ x ∈ l, ∃ start, r = echoSlot x.1 x.2 start
  tree : (p.tree k).apartFromEchoes = (s.tree k).apartFromEchoes
  entries : s.freeIsBlank → ∀ j, (p.entry j).apartFromEchoes = (s.entry j).apartFromEchoes

theorem EchoesPlaced.of_none {slot : Slot} (hslot : (s.tree k).calendar.slot? c = some slot) (l : List (EchoPurpose × Nat)) :
    EchoesPlaced k c slot l slot.reservations s s :=
  ⟨hslot, List.Sublist.refl _, Nat.le_add_right _ _, fun _ hr => .inl hr, rfl, fun _ _ => rfl⟩

/-- The candidates placed in turn (R73). -/
theorem State.placeEchoes_placed (l : List (EchoPurpose × Nat)) :
    ∀ {s : State} {slot : Slot}, (s.tree k).calendar.slot? c = some slot →
      ∃ rs, EchoesPlaced k c slot l rs s (s.placeEchoes k c l) := by
  induction l with
  | nil => exact fun hslot => ⟨_, .of_none hslot []⟩
  | cons x l ih =>
    intro s slot hslot
    obtain ⟨purpose, h⟩ := x
    rw [State.placeEchoes]
    split
    · exact ⟨_, .of_none hslot _⟩
    · next start hstart =>
      obtain ⟨hjoined, htree, hentries⟩ := State.placeEcho_outcome hslot purpose h start
      obtain ⟨rs, hp⟩ := ih hjoined
      refine ⟨rs, hp.placed, (sublist_insertReservation _ _).trans hp.sublist, ?_, fun r hr => ?_, hp.tree.trans htree,
        fun hblank j => ?_⟩
      · have hlength := hp.length
        rw [length_insertReservation] at hlength
        rw [List.length_cons]
        omega
      · rcases hp.origin r hr with hold | ⟨y, hy, hplaced⟩
        · rcases mem_insertReservation.1 hold with rfl | hmem
          · exact .inr ⟨(purpose, h), List.mem_cons_self, start, rfl⟩
          · exact .inl hmem
        · exact .inr ⟨y, List.mem_cons_of_mem _ hy, hplaced⟩
      · obtain ⟨hnext, hkept⟩ := hentries hblank
        exact (hp.entries hnext j).trans (hkept j)

/-- A candidate is on the list of its purpose (R73). -/
theorem Tree.mem_of_echoRequests {x : Tree} {y : EchoPurpose × Nat} (hy : y ∈ x.echoRequests) :
    (y.1 = .settle ∧ y.2 ∈ x.calendar.settleDue) ∨ (y.1 = .probe ∧ y.2 ∈ x.upkeep.probeDue) := by
  rcases List.mem_append.1 (List.mem_of_mem_take hy) with hs | hp
  · obtain ⟨h, hh, rfl⟩ := List.mem_map.1 hs
    exact .inl ⟨rfl, hh⟩
  · obtain ⟨h, hh, rfl⟩ := List.mem_map.1 hp
    exact .inr ⟨rfl, hh⟩

end

end Sys2Proof.Machine
end

section
/-! PROOFS. The send of a slot: the bundle, its messages, and the slot SENT (R6, R7, R59, R73, R74, R106, R163). -/

namespace Sys2Proof.Machine

/-! ## What the sending of messages leaves (R152, R163, R169, R179) -/

/-- The tree without what the sending of messages may change. -/
def Tree.apartFromMessages (x : Tree) : Tree :=
  { x with
    control := ControlQueue.empty, coolDown := [], rogue := RogueMonitor.clear
    counters := { x.counters with trimsSent := 0, releases := 0 } }

section
variable (s : State) (k : TreeId)

theorem State.apartFromMessages_modControl (f : ControlQueue → ControlQueue) :
    ((s.modControl k f).tree k).apartFromMessages = (s.tree k).apartFromMessages := by
  rw [State.tree_modControl, if_pos rfl]
  rfl

theorem State.apartFromMessages_owedSent (h : Nat) :
    ((s.owedSent k h).tree k).apartFromMessages = (s.tree k).apartFromMessages := by
  cases ho : (s.entry h).owed with
  | none =>
    have hsame : s.owedSent k h = s := by rw [State.owedSent, ho]
    rw [hsame]
  | some o =>
    by_cases hn : 1 < o.sends
    · rw [State.owedSent_of_more ho hn, State.joinCopy_eq, State.apartFromMessages_modControl, State.tree_modEntry]
    · by_cases hk : o.kind = .release
      · rw [State.owedSent_of_lastRelease ho (Nat.not_lt.1 hn) hk, State.endDeparture, State.tree_writeEvent,
          State.tree_count, if_pos rfl, State.tree_modTree, if_pos rfl]
        rfl
      · rw [State.owedSent_of_last ho (Nat.not_lt.1 hn) hk, State.tree_modEntry]

theorem State.apartFromMessages_messageSent (c : Cycle) (m : QueuedMessage) :
    ((s.messageSent k c m).tree k).apartFromMessages = (s.tree k).apartFromMessages := by
  cases m with
  | trim h amount generation =>
    show ((s.trimSent k c h amount generation).tree k).apartFromMessages = _
    rw [State.trimSent, State.tree_count, if_pos rfl]
    rfl
  | hush h =>
    show (((s.noteHushSent k h).owedSent k h).tree k).apartFromMessages = _
    obtain ⟨f, hf⟩ := s.noteHushSent_eq k h
    rw [State.apartFromMessages_owedSent, hf, State.tree_modRogue, if_pos rfl]
    rfl
  | release h m => exact s.apartFromMessages_owedSent k h
  | unhush h => exact s.apartFromMessages_owedSent k h

theorem State.apartFromMessages_sendMessages (c : Cycle) (rs : List Reservation) :
    ((s.sendMessages k c rs).tree k).apartFromMessages = (s.tree k).apartFromMessages := by
  have hfold : ∀ (l : List QueuedMessage) (u : State),
      ((l.foldl (fun v m => v.messageSent k c m) u).tree k).apartFromMessages = (u.tree k).apartFromMessages := by
    intro l
    induction l with
    | nil => exact fun _ => rfl
    | cons m l ih => exact fun u => (ih _).trans (u.apartFromMessages_messageSent k c m)
  have hsent : s.sendMessages k c rs = ((s.chooseMessages k rs).1.foldl (fun v m => v.messageSent k c m)
      (s.modControl k fun _ => (s.chooseMessages k rs).2)).fillBacklog k := rfl
  rw [hsent, State.fillBacklog_eq, State.apartFromMessages_modControl, hfold,
    State.apartFromMessages_modControl]

end

/-! ## The choice of a send's messages (R162) -/

section
variable {s p : State} {k : TreeId} {c : Cycle}

theorem State.length_chooseMessages (s : State) (k : TreeId) (rs : List Reservation) :
    (s.chooseMessages k rs).1.length ≤ 4 := by
  have hnamed : (s.unhushNamed rs).length ≤ 4 := by
    rw [State.unhushNamed_eq]
    exact List.length_take_le 4 _
  show ((s.unhushNamed rs).map QueuedMessage.unhush ++ List.take (4 - (s.unhushNamed rs).length) _).length ≤ 4
  rw [List.length_append, List.length_map]
  have htaken := List.length_take_le (4 - (s.unhushNamed rs).length) ((s.tree k).control.queue.filter fun m =>
    !(s.unhushNamed rs).any fun h => m == .unhush h)
  omega

/-- The choice follows from what the entries owe and from the Control Queue. -/
theorem State.chooseMessages_congr (howed : ∀ h, (p.entry h).owed = (s.entry h).owed)
    (hcontrol : (p.tree k).control = (s.tree k).control) (rs : List Reservation) :
    p.chooseMessages k rs = s.chooseMessages k rs := by
  have hnamed : p.unhushNamed rs = s.unhushNamed rs := by
    rw [State.unhushNamed, State.unhushNamed]
    simp only [howed]
  rw [State.chooseMessages, State.chooseMessages, hnamed, hcontrol]

/-! ## The window-tied messages (R8, R9, R74) -/

theorem State.windowMessage_eq_none_iff {r : Reservation} : s.windowMessage k c r = none ↔ r.kind = .grant := by
  unfold State.windowMessage
  cases r.kind with
  | grant => exact ⟨fun _ => rfl, fun _ => rfl⟩
  | quietCall | quietMeasure => exact ⟨nofun, nofun⟩
  | echo =>
    refine ⟨fun h => ?_, nofun⟩
    dsimp only at h
    split at h <;> exact nomatch h

/-- Each reservation but a grant has its one message. -/
theorem State.length_windowMessages (rs : List Reservation) :
    (s.windowMessages k c rs).length = rs.countP fun r => r.kind != .grant := by
  have hlength : ∀ l : List Reservation,
      (l.filterMap (s.windowMessage k c)).length = l.countP fun r => r.kind != .grant := by
    intro l
    rw [List.length_filterMap_eq_countP]
    refine List.countP_congr fun r _ => ?_
    rw [Option.isSome_iff_ne_none, ne_eq, State.windowMessage_eq_none_iff, bne_iff_ne]
  rw [State.windowMessages, hlength, List.countP_append]
  exact (List.countP_eq_countP_filter_add rs (fun r => r.kind != .grant) Reservation.isQuiet).symm

theorem State.mem_windowMessages {rs : List Reservation} {r : Reservation} {m : DownMessage} (hr : r ∈ rs)
    (hm : s.windowMessage k c r = some m) : m ∈ s.windowMessages k c rs := by
  refine List.mem_filterMap.2 ⟨r, List.mem_append.2 ?_, hm⟩
  cases hquiet : r.isQuiet with
  | true => exact .inl (List.mem_filter.2 ⟨hr, hquiet⟩)
  | false => exact .inr (List.mem_filter.2 ⟨hr, by rw [hquiet]; rfl⟩)

/-! ## The state the messages are sent in (R7, R59, R74, R106) -/

/-- The echo slots placed, the bundle handed over, the missing plan counted, the slot SENT and its call on the air. -/
def State.slotSent (s : State) (k : TreeId) (c : Cycle) (slot : Slot) : State :=
  let p := s.placeEchoes k c (s.tree k).echoRequests
  let u := p.modTree k fun x => { x with handover := p.bundleOf k c }
  (((if slot.state = .opened ∨ slot.state = .claimed then u.count k .plansMissing else u).modSlot k c fun y =>
    { y with state := .sent }).callSent k c)

/-- A call granted to the cycle is on the air (R106). -/
def CallRecord.sentIn (c : Cycle) (r : CallRecord) : CallRecord :=
  { r with stage := if r.stage = .granted c then .onAir c else r.stage }

variable {slot : Slot}

theorem State.reservationsOf_eq (hslot : (s.tree k).calendar.slot? c = some slot) :
    s.reservationsOf k c = slot.reservations := by rw [State.reservationsOf, hslot]

theorem State.sendSlot_eq {rs : List Reservation} (hc : (s.tree k).n + 6 = c)
    (hslot : (s.tree k).calendar.slot? c = some slot)
    (hready : ((s.slotSent k c slot).tree k).calendar.slot? c = some { slot with state := .sent, reservations := rs }) :
    s.sendSlot k = (s.slotSent k c slot).sendMessages k c rs := by
  have hsame : ∀ u : State, (u.callSent k c).reservationsOf k c = u.reservationsOf k c := fun u => by
    rw [State.reservationsOf, State.callSent, State.tree_modDiscovery, if_pos rfl, State.reservationsOf]
  have hrs : (s.slotSent k c slot).reservationsOf k c = rs := State.reservationsOf_eq hready
  rw [State.slotSent, hsame] at hrs
  subst hc
  unfold State.sendSlot
  dsimp only
  rw [show (s.tree k).calendar.slot? ((s.tree k).n + BitVec.ofNat 16 Config.sendLead) = some slot from hslot]
  exact congrArg ((s.slotSent k _ slot).sendMessages k _) hrs

theorem CallRecord.sentIn_eq (c : Cycle) (d : Option CallRecord) :
    (d.map fun r => if r.stage = .granted c then { r with stage := .onAir c } else r) = d.map (CallRecord.sentIn c) := by
  refine congrArg (Option.map · d) (funext fun r => ?_)
  rw [CallRecord.sentIn]
  split <;> rfl

theorem State.tree_slotSent : (s.slotSent k c slot).tree k
    = let p := s.placeEchoes k c (s.tree k).echoRequests
      { p.tree k with
        handover := p.bundleOf k c
        counters := { (p.tree k).counters with plansMissing := (p.tree k).counters.plansMissing
          + (if slot.state = .opened ∨ slot.state = .claimed then 1 else 0) }
        calendar := (p.tree k).calendar.modSlot c fun y => { y with state := .sent }
        discovery := { (p.tree k).discovery with call := (p.tree k).discovery.call.map (CallRecord.sentIn c) } } := by
  unfold State.slotSent
  dsimp only
  generalize s.placeEchoes k c (s.tree k).echoRequests = p
  rw [State.callSent, State.tree_modDiscovery, if_pos rfl, State.tree_modSlot, if_pos rfl, CallRecord.sentIn_eq]
  split
  · rw [State.tree_count, if_pos rfl, State.tree_modTree, if_pos rfl]
    rfl
  · rw [State.tree_modTree, if_pos rfl, add_zero]

theorem State.entry_slotSent (h : Nat) : (s.slotSent k c slot).entry h
    = (s.placeEchoes k c (s.tree k).echoRequests).entry h := by
  unfold State.slotSent
  dsimp only
  rw [State.callSent, State.entry_modDiscovery, State.entry_modSlot]
  split <;> rfl

end

/-! ## The bundle (R6, R74) -/

theorem bundleBytes_eq (k : TreeId) (c : Cycle) (rs : List Reservation) (tied : List DownMessage)
    (queued : List QueuedMessage) : bundleBytes k c rs (tied ++ queued.map QueuedMessage.toDown)
      = [BitVec.ofNat 8 k.val] ++ bytesOf 2 c.toNat
        ++ [BitVec.ofNat 8 rs.length, BitVec.ofNat 8 (tied.length + queued.length)]
        ++ rs.flatMap Reservation.bytes ++ (tied ++ queued.map QueuedMessage.toDown).flatMap DownMessage.bytes := by
  rw [bundleBytes, bytesOf_one, bytesOf_one, bytesOf_one, List.length_append, List.length_map]
  simp only [List.append_assoc, List.cons_append, List.nil_append]

/-- The messages that the reservations of a slot are tied to, the entries as they stood before its echo slots. -/
theorem EchoesPlaced.tied {s p : State} {k : TreeId} {c : Cycle} {slot : Slot} {l : List (EchoPurpose × Nat)}
    {rs : List Reservation} (hp : EchoesPlaced k c slot l rs s p) : ∀ r ∈ rs,
      (r.kind = .quietCall → DownMessage.call c (r.answerPoint.getD 0) (s.tree k).config.backoff
        (r.head.getD { bits := 0, value := 0 }) ∈ p.windowMessages k c rs)
      ∧ (∀ h, s.canonical → r.kind = .quietMeasure → r.handle = some h →
        DownMessage.measure ((s.entry h).mark.getD 0) h c (r.answerPoint.getD 0) ∈ p.windowMessages k c rs)
      ∧ (∀ h, s.canonical → r.kind = .echo → r.purpose = some .settle → r.handle = some h →
        DownMessage.settle ((s.entry h).mark.getD 0) h ((s.entry h).settleSample.getD 0) 0 r.start
          ∈ p.windowMessages k c rs)
      ∧ (∀ h, r.kind = .echo → r.purpose = some .probe → r.handle = some h →
        DownMessage.probe h r.start ∈ p.windowMessages k c rs) := by
  have hconfig : ∀ z : Tree, z.config = z.apartFromEchoes.config := fun _ => rfl
  have hmark : ∀ e : Entry, e.mark = e.apartFromEchoes.mark := fun _ => rfl
  have hsample : ∀ e : Entry, e.settleSample = e.apartFromEchoes.settleSample := fun _ => rfl
  intro r hr
  refine ⟨fun hkind => ?call, fun h hs hkind hhandle => ?measure, fun h hs hkind hpurpose hhandle => ?settle,
    fun h hkind hpurpose hhandle => ?probe⟩ <;> refine State.mem_windowMessages hr ?_ <;>
    rw [State.windowMessage, hkind]
  case call => rw [hconfig, hp.tree, ← hconfig]
  case measure =>
    rw [hhandle, Option.getD_some, hmark, hp.entries (State.freeIsBlank_of_canonical hs), ← hmark]
  case settle =>
    rw [hpurpose, hhandle, Option.getD_some, hmark, hsample, hp.entries (State.freeIsBlank_of_canonical hs), ← hmark,
      ← hsample]
  case probe => rw [hpurpose, hhandle, Option.getD_some]

/-- Settles O48: the echo slots placed, the slot sent with its bundle, then the bytes. -/
theorem sendFormsTheBundle : Obligations.SendFormsTheBundle := by
  refine ⟨fun k slot s => ?send, fun v => ⟨bytesOf_one v, bytesOf_two v, bytesOf_three v⟩,
    fun m h point start delay g c range head amount => ?layouts⟩
  case layouts =>
    intro sealed mark
    obtain ⟨hcall, hmeasure, hsettle, hrelease⟩ := DownMessage.bytes_layouts m h point start delay g c range head
    rw [bytesOf_one, bytesOf_one, bytesOf_one] at hcall
    rw [bytesOf_one] at hmeasure hrelease
    rw [bytesOf_one, bytesOf_one] at hsettle
    refine ⟨?_, hmeasure, hsettle, ?_, ?_, hrelease, ?_, ?_⟩
    · rw [hcall]
      cases range <;> simp only [List.append_assoc, List.cons_append, List.nil_append] <;> rfl
    all_goals
      rw [DownMessage.bytes]
      simp only [bytesOf_one]
      rfl
  case send =>
    intro c t hslot
    obtain ⟨rs, hp⟩ := State.placeEchoes_placed (s.tree k).echoRequests hslot
    let p := s.placeEchoes k c (s.tree k).echoRequests
    let u := s.slotSent k c slot
    have hu : u.tree k = _ := State.tree_slotSent
    have hready : (u.tree k).calendar.slot? c = some { slot with state := .sent, reservations := rs } := by
      rw [hu]
      exact Calendar.slot?_modSlot_of_some (f := fun y => { y with state := .sent }) (fun _ => rfl) hp.placed
    have ht : t = u.sendMessages k c rs := State.sendSlot_eq rfl hslot hready
    have hrs : p.reservationsOf k c = rs := State.reservationsOf_eq hp.placed
    have hkept : (t.tree k).apartFromMessages = (u.tree k).apartFromMessages := by
      rw [ht, State.apartFromMessages_sendMessages]
    have hcalendar : ∀ z : Tree, z.calendar = z.apartFromMessages.calendar := fun _ => rfl
    have hhandover : ∀ z : Tree, z.handover = z.apartFromMessages.handover := fun _ => rfl
    have hcall : ∀ z : Tree, z.discovery.call = z.apartFromMessages.discovery.call := fun _ => rfl
    have hmissing : ∀ z : Tree, z.counters.plansMissing = z.apartFromMessages.counters.plansMissing := fun _ => rfl
    have hcallBefore : ∀ z : Tree, z.discovery.call = z.apartFromEchoes.discovery.call := fun _ => rfl
    have hcounters : ∀ z : Tree, z.counters = z.apartFromEchoes.counters := fun _ => rfl
    have hcontrol : (p.tree k).control = (s.tree k).control := by
      have hsame : ∀ z : Tree, z.control = z.apartFromEchoes.control := fun _ => rfl
      rw [hsame, hp.tree, ← hsame]
    refine ⟨{ slot with state := .sent, reservations := rs }, p.windowMessages k c rs, (p.chooseMessages k rs).1,
      ?slot, rfl, rfl, hp.sublist, ?length, fun r hr => ?origin, ?handover, hrs.symm, fun r hr => ?call,
      ⟨u, ht, by rw [hu]; exact hcontrol, fun h => State.entry_slotSent h⟩, fun hs => ?queued,
      State.length_windowMessages rs, p.length_chooseMessages k rs, hp.tied, ?missing⟩
    case slot => rw [hcalendar, hkept, ← hcalendar, hready]
    case length => exact hp.length.trans (Nat.add_le_add_left (List.length_take_le 4 _) _)
    case origin =>
      rcases hp.origin r hr with hold | ⟨⟨purpose, h⟩, hx, start, rfl⟩
      · exact .inl hold
      · refine .inr ⟨rfl, rfl, h, rfl, (Tree.mem_of_echoRequests hx).imp ?_ ?_⟩
        · exact fun hs => ⟨congrArg some hs.1, hs.2⟩
        · exact fun hs => ⟨congrArg some hs.1, hs.2⟩
    case handover =>
      rw [hhandover, hkept, ← hhandover, hu, ← bundleBytes_eq]
      show p.bundleOf k c = _
      rw [State.bundleOf, hrs]
    case call =>
      rw [hcall, hkept, ← hcall, hu]
      show (p.tree k).discovery.call.map (CallRecord.sentIn c) = _
      rw [hcallBefore, hp.tree, ← hcallBefore, hr]
      rfl
    case queued =>
      have howed : ∀ h, (p.entry h).owed = (s.entry h).owed := fun h => by
        have hsame : ∀ e : Entry, e.owed = e.apartFromEchoes.owed := fun _ => rfl
        rw [hsame, hp.entries (State.freeIsBlank_of_canonical hs), ← hsame]
      rw [State.chooseMessages_congr howed hcontrol]
    case missing =>
      rw [hmissing, hkept, ← hmissing, hu]
      show (p.tree k).counters.plansMissing + _ = _
      rw [hcounters, hp.tree, ← hcounters]

end Sys2Proof.Machine
end

section
/-! PROOFS. The count of the discovery timer, the order of a boundary's reactions, and each reaction (R3, R59, R89, R101, R144,
R146, R180). -/

namespace Sys2Proof.Machine

/-! ## The count of the discovery timer (R101) -/

section
variable {c : TreeConfig} {d : Discovery} {n b : Nat}

theorem succ_mod_div_of_lt (h : n % b + 1 < b) : (n + 1) % b = n % b + 1 ∧ (n + 1) / b = n / b := by
  have hsplit : n + 1 = b * (n / b) + (n % b + 1) := by rw [← Nat.add_assoc, Nat.div_add_mod]
  have hb : 0 < b := by omega
  constructor
  · rw [hsplit, Nat.mul_add_mod, Nat.mod_eq_of_lt h]
  · rw [hsplit, Nat.mul_add_div hb, Nat.div_eq_of_lt h, Nat.add_zero]

theorem succ_mod_div_of_not_lt (hb : 0 < b) (h : ¬ n % b + 1 < b) : (n + 1) % b = 0 ∧ (n + 1) / b = n / b + 1 := by
  have hlast : n % b + 1 = b := le_antisymm (Nat.mod_lt n hb) (Nat.not_lt.1 h)
  have hsplit : n + 1 = b * (n / b + 1) := by
    rw [Nat.mul_add, Nat.mul_one, ← hlast, hlast]
    calc n + 1 = b * (n / b) + n % b + 1 := by rw [Nat.div_add_mod]
      _ = b * (n / b) + b := by rw [Nat.add_assoc, hlast]
  exact ⟨by rw [hsplit, Nat.mul_mod_right], by rw [hsplit, Nat.mul_div_cancel_left _ hb]⟩

/-- A number is a multiple of a product when both remainders, in turn, are 0. -/
theorem mul_dvd_iff_mod {a x : Nat} : a * b ∣ x ↔ x % a = 0 ∧ x / a % b = 0 := by
  rw [Nat.dvd_iff_mod_eq_zero, Nat.mod_mul, Nat.add_eq_zero_iff, Nat.mul_eq_zero]
  refine ⟨fun ⟨h, hor⟩ => ⟨h, ?_⟩, fun ⟨h, hdiv⟩ => ⟨h, .inr hdiv⟩⟩
  rcases hor with rfl | hdiv
  · rw [Nat.div_zero, Nat.zero_mod]
  · exact hdiv

theorem Prescaler.boundaries_pos (p : Prescaler) : 0 < p.boundaries := by cases p <;> decide

theorem Discovery.tick_of_still (h : c.interval = 0) : d.tick c = d := if_pos h

/-- A boundary counts in the prescaler, in the counter, or ends the interval (R101). -/
theorem Discovery.tick_of_prescaled (hi : c.interval ≠ 0) (h : d.prescaleCount + 1 < c.prescaler.boundaries) :
    d.tick c = { d with prescaleCount := d.prescaleCount + 1 } := (if_neg hi).trans (if_pos h)

theorem Discovery.tick_of_counted (hi : c.interval ≠ 0) (h : ¬ d.prescaleCount + 1 < c.prescaler.boundaries)
    (hcount : d.counter + 1 < c.interval.toNat) :
    d.tick c = { d with prescaleCount := 0, counter := d.counter + 1 } :=
  (if_neg hi).trans ((if_neg h).trans (if_pos hcount))

theorem Discovery.tick_of_expired (hi : c.interval ≠ 0) (h : ¬ d.prescaleCount + 1 < c.prescaler.boundaries)
    (hcount : ¬ d.counter + 1 < c.interval.toNat) :
    d.tick c = { d with prescaleCount := 0, counter := 0, expiryDue := true } :=
  (if_neg hi).trans ((if_neg h).trans (if_neg hcount))

theorem interval_pos (hi : c.interval ≠ 0) : 0 < c.interval.toNat :=
  Nat.pos_of_ne_zero fun h => hi (BitVec.eq_of_toNat_eq h)

/-- The counts after n boundaries (R101). -/
def Discovery.countsAt (c : TreeConfig) (n : Nat) (d : Discovery) : Prop :=
  d.prescaleCount = n % c.prescaler.boundaries ∧ d.counter = n / c.prescaler.boundaries % c.interval.toNat

/-- One boundary more: the counts move on, and the timer expires at the ends of the period (R101). -/
theorem Discovery.countsAt_tick (hi : c.interval ≠ 0) (hd : d.countsAt c n) : (d.tick c).countsAt c (n + 1)
    ∧ (Discovery.tick { d with expiryDue := false } c).expiryDue
      = decide (c.prescaler.boundaries * c.interval.toNat ∣ n + 1) := by
  obtain ⟨hprescale, hcounter⟩ := hd
  have hpos := c.prescaler.boundaries_pos
  by_cases hp : n % c.prescaler.boundaries + 1 < c.prescaler.boundaries
  · obtain ⟨hmod, hdiv⟩ := succ_mod_div_of_lt hp
    have hp' : d.prescaleCount + 1 < c.prescaler.boundaries := by rw [hprescale]; exact hp
    rw [Discovery.tick_of_prescaled hi hp', Discovery.tick_of_prescaled (d := { d with expiryDue := false }) hi hp']
    refine ⟨⟨by rw [hmod, ← hprescale], by rw [hdiv, ← hcounter]⟩, (decide_eq_false fun hdvd => ?_).symm⟩
    have hzero := (mul_dvd_iff_mod.1 hdvd).1
    rw [hmod] at hzero
    exact Nat.succ_ne_zero _ hzero
  · obtain ⟨hmod, hdiv⟩ := succ_mod_div_of_not_lt hpos hp
    have hp' : ¬ d.prescaleCount + 1 < c.prescaler.boundaries := by rw [hprescale]; exact hp
    by_cases hc : n / c.prescaler.boundaries % c.interval.toNat + 1 < c.interval.toNat
    · obtain ⟨hnext, -⟩ := succ_mod_div_of_lt hc
      have hc' : d.counter + 1 < c.interval.toNat := by rw [hcounter]; exact hc
      rw [Discovery.tick_of_counted hi hp' hc', Discovery.tick_of_counted (d := { d with expiryDue := false }) hi hp' hc']
      refine ⟨⟨hmod.symm, by rw [hdiv, hnext, ← hcounter]⟩, (decide_eq_false fun hdvd => ?_).symm⟩
      have hzero := (mul_dvd_iff_mod.1 hdvd).2
      rw [hdiv, hnext] at hzero
      exact Nat.succ_ne_zero _ hzero
    · obtain ⟨hnext, -⟩ := succ_mod_div_of_not_lt (interval_pos hi) hc
      have hc' : ¬ d.counter + 1 < c.interval.toNat := by rw [hcounter]; exact hc
      rw [Discovery.tick_of_expired hi hp' hc', Discovery.tick_of_expired (d := { d with expiryDue := false }) hi hp' hc']
      refine ⟨⟨hmod.symm, by rw [hdiv, hnext]⟩, (decide_eq_true (mul_dvd_iff_mod.2 ⟨hmod, ?_⟩)).symm⟩
      rw [hdiv, hnext]

theorem Discovery.countsAt_iterate (hi : c.interval ≠ 0) (n : Nat) :
    ((fun d : Discovery => d.tick c)^[n] Discovery.clear).countsAt c n := by
  induction n with
  | zero => exact ⟨(Nat.zero_mod _).symm, by rw [Nat.zero_div, Nat.zero_mod]; rfl⟩
  | succ n ih =>
    rw [Function.iterate_succ_apply']
    exact (Discovery.countsAt_tick hi ih).1

/-- With an interval of 0 the timer stands still (R101). -/
theorem Discovery.iterate_tick_of_still (hi : c.interval = 0) (n : Nat) (d : Discovery) :
    (fun d : Discovery => d.tick c)^[n] d = d :=
  Function.iterate_fixed (Discovery.tick_of_still hi) n

end

/-! ## The order of the reactions (R59, R180) -/

theorem BoundaryAct.exchanged_injective : Function.Injective BoundaryAct.exchanged :=
  Function.Involutive.injective fun a => by cases a <;> rfl

theorem idxOf_map_exchanged (a : BoundaryAct) (acts : List BoundaryAct) :
    (acts.map BoundaryAct.exchanged).idxOf a.exchanged = acts.idxOf a := by
  induction acts with
  | nil => rfl
  | cons x acts ih =>
    rw [List.map_cons, List.idxOf_cons, List.idxOf_cons, ih]
    by_cases hx : x = a
    · rw [hx, beq_self_eq_true, beq_self_eq_true]
    · rw [beq_eq_false_iff_ne.2 hx, beq_eq_false_iff_ne.2 fun h => hx (BoundaryAct.exchanged_injective h)]

/-- No send stands between a dwell judgement and a close that follows it (R180). -/
theorem BoundaryOrder.sequence_apart (o : BoundaryOrder) :
    ¬ (o.sequence.idxOf (.expiry .dwell) < o.sequence.idxOf .send ∧ o.sequence.idxOf .send < o.sequence.idxOf .close) := by
  unfold BoundaryOrder.sequence sendAfterClose
  split
  · next h =>
    obtain ⟨-, hbetween⟩ := h
    have hsend : ((arrange o.acts boundaryActs).map BoundaryAct.exchanged).idxOf .send
        = (arrange o.acts boundaryActs).idxOf .close := idxOf_map_exchanged .close _
    have hclose : ((arrange o.acts boundaryActs).map BoundaryAct.exchanged).idxOf .close
        = (arrange o.acts boundaryActs).idxOf .send := idxOf_map_exchanged .send _
    rw [hsend, hclose]
    exact fun hall => Nat.lt_asymm hbetween hall.2
  · next h => exact h

/-! ## Each reaction (R59, R67, R82, R83, R89, R101, R144, R146) -/

theorem State.react_expiry (u : State) (k : TreeId) (o : BoundaryOrder) (e : Expiry) :
    u.react k o (.expiry e) = u.countFor k e ∨ u.react k o (.expiry e) = (u.countFor k e).takeExpiry k o.grace e := by
  have heq : u.react k o (.expiry e)
      = if o.leaves e then u.countFor k e else (u.countFor k e).takeExpiry k o.grace e := rfl
  rw [heq]
  split
  · exact .inl rfl
  · exact .inr rfl

/-! ## The frame of a boundary (R3, R31, R32, R40, R89) -/

section
variable (s : State) (k : TreeId) (o : BoundaryOrder)

/-- The state in which the reactions begin: N advanced, the tuning in force, the bars counted (R3, R32, R40). -/
def State.advanced : State :=
  (((arrange o.leftovers allExpiries).foldl (fun s e => s.takeExpiry k o.grace e) s).advance k).countBars k

theorem State.boundaryUnder_eq : s.boundaryUnder k o = o.sequence.foldl (fun v a => v.react k o a) (s.advanced k o) := rfl

theorem EngineFrame.reactions (acts : List BoundaryAct) (u : State) :
    EngineFrame k u (acts.foldl (fun v a => v.react k o a) u) :=
  EngineFrame.foldl _ (fun v a => (EngineFrame.refl k v).react o a) acts (EngineFrame.refl k u)

theorem EngineFrame.expiries (l : List Expiry) : EngineFrame k s (l.foldl (fun v e => v.takeExpiry k o.grace e) s) :=
  EngineFrame.foldl _ (fun v e => (EngineFrame.refl k v).takeExpiry o.grace e) l (EngineFrame.refl k s)

theorem State.tree_advanced (v : TreeId) : (s.advanced k o).tree v
    = if v = k then
        { ((arrange o.leftovers allExpiries).foldl (fun s e => s.takeExpiry k o.grace e) s).tree k with
          n := (s.tree k).n + 1, tuning := (s.tree k).tuning.settle (s.tree k).pending, pending := TuneTable.absent }
      else s.tree v := by
  have hframe := EngineFrame.expiries s k o (arrange o.leftovers allExpiries)
  rw [State.advanced]
  generalize (arrange o.leftovers allExpiries).foldl (fun s e => s.takeExpiry k o.grace e) s = u at hframe
  have hadvance : ((u.advance k).countBars k).tree v = (u.advance k).tree v := rfl
  rw [hadvance, State.advance, State.tree_modTree]
  split
  · rw [Tree.settleTuning, ← hframe.tree.n, ← hframe.tree.tuning, ← hframe.tree.pending]
  · next hv => exact hframe.others v hv

/-- A boundary's frames name the new N, unless they were too many (R89). -/
theorem State.cycle_mem_boundaryUnder (hroom : (s.boundaryUnder k o).outQueue.length < 512) :
    LinkFrame.cycle k ((s.tree k).n + 1) ∈ (s.boundaryUnder k o).outQueue := by
  have hmem : BoundaryAct.cycleFrame ∈ o.sequence := o.sequence_perm.mem_iff.2 (by decide)
  obtain ⟨before, after, hsplit⟩ := List.append_of_mem hmem
  rw [State.boundaryUnder_eq, hsplit, List.foldl_append, List.foldl_cons] at hroom ⊢
  have hbefore := EngineFrame.reactions k o before (s.advanced k o)
  generalize before.foldl (fun v a => v.react k o a) (s.advanced k o) = v at hbefore hroom ⊢
  obtain ⟨more, hmore⟩ := (EngineFrame.reactions k o after (v.react k o .cycleFrame)).frames
  have hn : (v.tree k).n = (s.tree k).n + 1 := by rw [hbefore.tree.n, State.tree_advanced, if_pos rfl]
  have hframe : v.react k o .cycleFrame = v.makeFrame (.cycle k ((s.tree k).n + 1)) := by
    rw [← hn]
    rfl
  rw [hframe] at hmore hroom ⊢
  rw [hmore] at hroom ⊢
  rw [List.length_append] at hroom
  by_cases hlength : v.outQueue.length < 512
  · rw [State.outQueue_makeFrame hlength]
    exact List.mem_append_left _ (List.mem_append_right _ List.mem_cons_self)
  · have hfull : (v.makeFrame (.cycle k ((s.tree k).n + 1))).outQueue = v.outQueue := by
      rw [State.makeFrame_of_full (Nat.not_lt.1 hlength)]
    rw [hfull] at hroom
    omega

end

end Sys2Proof.Machine
end

section
/-! PROOFS. The passage of the slots at a boundary: the missing outcomes given as NO_LIGHT (R59, R82). -/

namespace Sys2Proof.Machine

/-! ## Outcomes given in index order -/

/-- Changing the chosen places of a list in index order changes the chosen elements. -/
theorem foldl_modify_zipIdx {α : Type} (p : α → Bool) (f : α → α) : ∀ rest before : List α,
    ((rest.zipIdx before.length).filter fun x => p x.1).foldl (fun l x => l.modify x.2 f) (before ++ rest)
      = before ++ rest.map fun a => if p a then f a else a
  | [], before => rfl
  | a :: rest, before => by
    have hplace : ∀ b : α, before ++ b :: rest = (before ++ [b]) ++ rest := fun b => by rw [List.append_assoc]; rfl
    have hlength : ∀ b : α, before.length + 1 = (before ++ [b]).length := fun b => by
      rw [List.length_append, List.length_singleton]
    rw [List.zipIdx_cons, List.map_cons]
    cases ha : p a with
    | true =>
      have hmodify : (before ++ a :: rest).modify before.length f = before ++ f a :: rest :=
        List.modifyTailIdx_add (List.modifyHead f) 0 before (a :: rest)
      rw [List.filter_cons_of_pos (p := fun x : α × Nat => p x.1) ha, List.foldl_cons, hmodify, hplace, hlength (f a),
        foldl_modify_zipIdx p f rest (before ++ [f a]), if_pos rfl, List.append_assoc]
      rfl
    | false =>
      rw [List.filter_cons_of_neg (by rw [ha]; exact Bool.false_ne_true), hplace, hlength a,
        foldl_modify_zipIdx p f rest (before ++ [a]), if_neg Bool.false_ne_true, List.append_assoc]
      rfl

/-- The reservation with its outcome given as NO_LIGHT (R82). -/
def Reservation.unlit (r : Reservation) : Reservation := { r with outcome := some Burst.noLight }

/-- The reservation lacks an outcome (R82). -/
def Reservation.lacksOutcome (r : Reservation) : Bool := r.takesOutcome && r.outcome.isNone

theorem Reservation.lacksOutcome_iff {r : Reservation} :
    r.lacksOutcome = true ↔ (r.kind = .grant ∨ r.kind = .echo) ∧ r.outcome = none := by
  rw [Reservation.lacksOutcome, Bool.and_eq_true, Reservation.takesOutcome_iff, Option.isNone_iff_eq_none]

theorem withNoLight_eq (r : Reservation) : withNoLight r = if r.lacksOutcome then r.unlit else r := by
  rw [withNoLight]
  exact if_congr Reservation.lacksOutcome_iff.symm rfl rfl

theorem withNoLight_ne_iff {r : Reservation} : (withNoLight r != r) = r.lacksOutcome := by
  rw [withNoLight_eq, Bool.eq_iff_iff, bne_iff_ne]
  split
  · next h =>
    refine ⟨fun _ => h, fun _ heq => ?_⟩
    have hsome : r.outcome = some Burst.noLight := (congrArg Reservation.outcome heq).symm
    rw [(Reservation.lacksOutcome_iff.1 h).2] at hsome
    exact nomatch hsome
  · next h => exact ⟨fun hne => absurd rfl hne, fun hlacks => absurd hlacks h⟩

theorem withoutOutcome_eq (rs : List Reservation) :
    withoutOutcome rs = rs.zipIdx.filter fun x => x.1.lacksOutcome := rfl

theorem withoutOutcome_eq_filter (rs : List Reservation) :
    withoutOutcome rs = rs.zipIdx.filter fun x => withNoLight x.1 != x.1 := by
  rw [withoutOutcome_eq]
  exact List.filter_congr fun x _ => withNoLight_ne_iff.symm

theorem foldl_unlit (rs : List Reservation) :
    (withoutOutcome rs).foldl (fun l x => l.modify x.2 Reservation.unlit) rs = rs.map withNoLight := by
  rw [withoutOutcome_eq, funext withNoLight_eq]
  exact foldl_modify_zipIdx Reservation.lacksOutcome Reservation.unlit rs []

/-! ## An outcome of NO_LIGHT leaves the ring alone (R82) -/

section
variable (s : State) (k : TreeId) (h : Nat) (c : Cycle)

theorem State.tree_missPresence (v : TreeId) : (s.missPresence k h).tree v = s.tree v := by
  unfold State.missPresence
  dsimp only
  split
  · rfl
  · split
    · rw [State.tree_writeEvent, State.rosterNotice, State.tree_makeFrame, State.tree_modEntry, State.tree_modEntry]
    · rfl

theorem State.ring_observe_noLight {o : Observation} (hmiss : o.outcome = Burst.noLight) :
    ((s.observe k o).tree k).calendar.ring = (s.tree k).calendar.ring := by
  by_cases hroster : (s.entry o.handle).inRoster = true
  · rw [State.observe_of_miss hroster (by rw [hmiss]; exact nofun), State.takeMiss, State.tree_missPresence,
      State.tree_modEntry, State.tallied, State.tree_modUpkeep, if_pos rfl]
  · have hsame : s.observe k o = s := if_neg hroster
    rw [hsame]

theorem State.ring_departEntry_settling (hs : (s.entry h).state = .settling) (reason : DepartureReason) (sends : Nat) :
    ((s.departEntry k h reason sends).tree k).calendar.ring = (s.tree k).calendar.ring := by
  have heq : s.departEntry k h reason sends
      = ((s.modEntry h fun e => e.toDeparting reason).recordOwed k h .release sends).dropSettleDue k h := by
    rw [State.departEntry, hs]
    rfl
  obtain ⟨f, hf⟩ := (s.modEntry h fun e => e.toDeparting reason).recordOwed_eq k h .release sends
  rw [heq, State.tree_dropSettleDue, hf, State.tree_modControl, if_pos rfl]
  rfl

theorem State.ring_settleFailed (hs : (s.entry h).state = .settling) :
    ((s.settleFailed k h).tree k).calendar.ring = (s.tree k).calendar.ring := by
  unfold State.settleFailed
  split
  · rw [State.joinSettleDue, State.tree_modCalendar, if_pos rfl]
  · obtain ⟨-, htrees, -⟩ := s.failRanging_kept k h 1
    rw [htrees, State.failureTold, State.tree_count, if_pos rfl, State.tree_writeEvent]
    exact s.ring_departEntry_settling k h hs .measureFailure 1

theorem State.ring_settleOutcome_noLight (start : Nat) :
    ((s.settleOutcome k h c start Burst.noLight).tree k).calendar.ring = (s.tree k).calendar.ring := by
  by_cases hawaited : (s.entry h).state = .settling ∧ (s.entry h).settleEchoCycle = some c
  · obtain ⟨hs, hc⟩ := hawaited
    have hentry : (s.modEntry h fun e => { e with settleEchoCycle := none }).entry h
        = { s.entry h with settleEchoCycle := none } :=
      State.entry_modEntry_of_ne rfl (by show (s.entry h).state ≠ .free; rw [hs]; exact nofun)
    rw [State.settleOutcome_of_awaited hs hc, State.judgeSettle_of_failed rfl,
      State.ring_settleFailed _ k h (by rw [hentry]; exact hs), State.tree_modEntry]
  · have hsame : s.settleOutcome k h c start Burst.noLight = s := if_neg hawaited
    rw [hsame]

theorem State.ring_handOutcome_noLight (r : Reservation) :
    ((s.handOutcome k c r Burst.noLight).tree k).calendar.ring = (s.tree k).calendar.ring := by
  unfold State.handOutcome
  dsimp only
  split
  · exact s.ring_observe_noLight k rfl
  · exact s.ring_settleOutcome_noLight k _ c r.start
  · rw [State.ring_observe_noLight _ k rfl]
    split <;> rfl
  · rfl

/-- An outcome of NO_LIGHT: of the ring, its place alone changes. -/
theorem State.ring_takeOutcome_noLight (i : Nat) (r : Reservation) :
    ((s.takeOutcome k c i r Burst.noLight).tree k).calendar.ring
      = ((s.tree k).calendar.modSlot c fun y => { y with reservations := y.reservations.modify i Reservation.unlit }).ring := by
  have heq : s.takeOutcome k c i r Burst.noLight
      = (s.modReservation k c i Reservation.unlit).handOutcome k c r Burst.noLight := rfl
  rw [heq, State.ring_handOutcome_noLight, State.modReservation, State.tree_modSlot, if_pos rfl]

end

theorem Calendar.slot?_congr {w v : Calendar} (h : w.ring = v.ring) (d : Cycle) : w.slot? d = v.slot? d := by
  rw [Calendar.slot?, h, Calendar.slot?]

section
variable {k : TreeId} {c : Cycle}

/-- The missing outcomes given in turn, as the slot of their cycle shows them (R82). -/
theorem State.slot?_foldl_noLight (l : List (Reservation × Nat)) : ∀ {s : State} {slot : Slot},
    (s.tree k).calendar.slot? c = some slot →
      ((l.foldl (fun v x => v.takeOutcome k c x.2 x.1 Burst.noLight) s).tree k).calendar.slot? c
        = some { slot with
            reservations := l.foldl (fun rs x => rs.modify x.2 Reservation.unlit) slot.reservations } := by
  induction l with
  | nil => exact fun hslot => hslot
  | cons x l ih =>
    intro s slot hslot
    refine ih (slot := { slot with reservations := slot.reservations.modify x.2 Reservation.unlit }) ?_
    rw [Calendar.slot?_congr (s.ring_takeOutcome_noLight k c x.2 x.1)]
    exact Calendar.slot?_modSlot_of_some (f := fun y =>
      { y with reservations := y.reservations.modify x.2 Reservation.unlit }) (fun _ => rfl) hslot

theorem State.slot?_foldl_noLight_ne {d : Cycle} (hd : d ≠ c) (l : List (Reservation × Nat)) : ∀ s : State,
    ((l.foldl (fun v x => v.takeOutcome k c x.2 x.1 Burst.noLight) s).tree k).calendar.slot? d
      = (s.tree k).calendar.slot? d := by
  induction l with
  | nil => exact fun _ => rfl
  | cons x l ih =>
    intro s
    rw [List.foldl_cons, ih, Calendar.slot?_congr (s.ring_takeOutcome_noLight k c x.2 x.1)]
    exact Calendar.slot?_modSlot_ne (f := fun y =>
      { y with reservations := y.reservations.modify x.2 Reservation.unlit }) (fun _ => rfl) hd

theorem ne_pred (n : Cycle) : n ≠ n - 1 := fun h => by
  have hzero : n - n = n - 1 - n := congrArg (· - n) h
  bv_omega

/-- The slots as they pass: that of N − 1 CLOSING, that of N ARRIVING (R59). -/
def State.passed (s : State) (k : TreeId) (c n : Cycle) : State :=
  s.modCalendar k fun w => { w with ring := w.ring.map fun j =>
    if j.cycle = c then { j with state := .closing } else if j.cycle = n then { j with state := .arriving } else j }

theorem State.passed_eq {s : State} {n : Cycle} (hne : n ≠ c) :
    (s.modSlot k n fun j => { j with state := .arriving }).modSlot k c (fun j => { j with state := .closing })
      = s.passed k c n := by
  rw [State.modSlot, State.modSlot, State.modCalendar_modCalendar]
  refine congrArg (s.modCalendar k) (funext fun w => ?_)
  rw [Calendar.modSlot, Calendar.modSlot, List.map_map]
  refine congrArg (fun ring => ({ w with ring := ring } : Calendar)) (List.map_congr_left fun j _ => ?_)
  rw [Function.comp_apply]
  by_cases hn : j.cycle = n
  · have hnot : ¬ j.cycle = c := fun h => hne (hn.symm.trans h)
    rw [if_pos hn, if_neg hnot]
  · rw [if_neg hn]

variable {s : State} {slot next : Slot} {n : Cycle}

theorem State.slot?_passed (hne : n ≠ c) (hslot : (s.tree k).calendar.slot? c = some slot) :
    ((s.passed k c n).tree k).calendar.slot? c = some { slot with state := .closing } := by
  rw [← State.passed_eq hne, State.tree_modSlot, if_pos rfl, State.tree_modSlot, if_pos rfl]
  refine Calendar.slot?_modSlot_of_some (f := fun j => { j with state := .closing }) (fun _ => rfl) ?_
  exact (Calendar.slot?_modSlot_ne (f := fun j => { j with state := .arriving }) (fun _ => rfl) hne.symm).trans hslot

theorem State.slot?_passed_next (hne : n ≠ c) (hnext : (s.tree k).calendar.slot? n = some next) :
    ((s.passed k c n).tree k).calendar.slot? n = some { next with state := .arriving } := by
  rw [← State.passed_eq hne, State.tree_modSlot, if_pos rfl, State.tree_modSlot, if_pos rfl]
  refine (Calendar.slot?_modSlot_ne (f := fun j => { j with state := .closing }) (fun _ => rfl) hne).trans ?_
  exact Calendar.slot?_modSlot_of_some (f := fun j => { j with state := .arriving }) (fun _ => rfl) hnext

/-- The passage of the slots: the slots of N − 1 and N, then the missing outcomes of the first (R59, R82). -/
theorem State.passSlots_eq (hslot : (s.tree k).calendar.slot? ((s.tree k).n - 1) = some slot) :
    s.passSlots k = (withoutOutcome slot.reservations).foldl
      (fun v x => v.takeOutcome k ((s.tree k).n - 1) x.2 x.1 Burst.noLight)
      (s.passed k ((s.tree k).n - 1) (s.tree k).n) := by
  have hne := ne_pred (s.tree k).n
  have hpassed := State.slot?_passed hne hslot
  have heq : s.passSlots k
      = (withoutOutcome ((s.passed k ((s.tree k).n - 1) (s.tree k).n).reservationsOf k ((s.tree k).n - 1))).foldl
        (fun v x => v.takeOutcome k ((s.tree k).n - 1) x.2 x.1 Burst.noLight)
        (s.passed k ((s.tree k).n - 1) (s.tree k).n) := by
    rw [← State.passed_eq hne]
    rfl
  rw [heq, State.reservationsOf_eq hpassed]

end

end Sys2Proof.Machine
end

section
/-! PROOFS. The close of a slot at a boundary, and the boundary as a whole (R3, R14, R31, R32, R40, R59, R83, R89, R101). -/

namespace Sys2Proof.Machine

/-! ## REPORT_ERRORS counts reports and unended windows alone (R14, R83) -/

section
variable (s : State) (k : TreeId) (h : Nat)

theorem State.reportErrors_writeEvent (kind : EventKind) (v : TreeId) (j : Nat) (extra : List EventWord) :
    (s.writeEvent kind v j extra).reportErrors = s.reportErrors := by
  unfold State.writeEvent
  split <;> rfl

theorem State.reportErrors_makeFrame (f : LinkFrame) : (s.makeFrame f).reportErrors = s.reportErrors := by
  unfold State.makeFrame
  split <;> rfl

theorem State.reportErrors_grantClaim (q : Claim) (c : Cycle) : (s.grantClaim k q c).reportErrors = s.reportErrors := by
  cases hq : q.handle? with
  | some h => rw [State.grantClaim_of_handle s k c hq]; exact State.reportErrors_makeFrame _ _
  | none => rw [State.grantClaim_of_call s k c hq]; exact State.reportErrors_makeFrame _ _

theorem State.reportErrors_arbitrate : (s.arbitrate k).reportErrors = s.reportErrors :=
  State.arbitrate_induction (P := fun u => u.reportErrors = s.reportErrors) s k rfl
    fun u q j hu _ => (u.reportErrors_grantClaim k q j.cycle).trans hu

theorem State.reportErrors_requestClaim (q : Claim) : (s.requestClaim k q).reportErrors = s.reportErrors := by
  cases htaken : s.claimTaken k q with
  | false => rw [State.requestClaim_of_notTaken htaken]
  | true =>
    cases hj : (s.tree k).eligibleSlot q with
    | some j => rw [State.requestClaim_of_granted htaken hj, State.reportErrors_grantClaim]
    | none =>
      rw [State.requestClaim_of_waiting htaken hj]
      rfl

theorem State.reportErrors_requestRanging : (s.requestRanging k h).reportErrors = s.reportErrors := by
  unfold State.requestRanging
  split
  · exact s.reportErrors_requestClaim k _
  · rfl

theorem State.reportErrors_dropClaim : (s.dropClaim k h).reportErrors = s.reportErrors := by
  cases hwindow : (s.tree k).calendar.unsentWindow .quietMeasure (some h) with
  | none =>
    rw [State.dropClaim_of_noWindow hwindow]
    rfl
  | some j =>
    rw [State.dropClaim_of_window hwindow, State.reportErrors_arbitrate]
    exact State.reportErrors_makeFrame _ _

theorem State.reportErrors_rosterLeft : (s.rosterLeft k h).reportErrors = s.reportErrors := by
  have hstrike : ∀ u : State, (u.strike k h).reportErrors = u.reportErrors := fun u => by
    unfold State.strike
    dsimp only
    split
    · rfl
    · rw [State.reportErrors_arbitrate]
      rfl
  exact (hstrike _).trans (s.reportErrors_makeFrame _)

theorem State.reportErrors_leftNotices (left : EntryState) : (s.leftNotices k h left).reportErrors = s.reportErrors := by
  cases left with
  | registered | lost => exact s.reportErrors_rosterLeft k h
  | candidate | reranging => exact s.reportErrors_dropClaim k h
  | settling | free | reserved | hushed | departing => rfl

theorem State.reportErrors_departEntry (reason : DepartureReason) (sends : Nat) :
    (s.departEntry k h reason sends).reportErrors = s.reportErrors := by
  obtain ⟨f, hf⟩ := (s.modEntry h fun e => e.toDeparting reason).recordOwed_eq k h .release sends
  obtain ⟨g, hg⟩ := (((s.modEntry h fun e => e.toDeparting reason).recordOwed k h .release sends).leftNotices k h
    (s.entry h).state).dropTrimAfter_eq k h (s.entry h).state
  rw [State.departEntry, hg, State.modControl, State.modTree_reportErrors, State.reportErrors_leftNotices, hf]
  rfl

theorem State.reportErrors_failRanging (cause : Nat) : (s.failRanging k h cause).reportErrors = s.reportErrors := by
  have htold : (s.failureTold k h cause).reportErrors = s.reportErrors :=
    (State.reportErrors_writeEvent _ _ _ _ _).trans (s.reportErrors_departEntry k h .measureFailure 1)
  rw [State.failRanging_eq]
  split
  · exact htold
  · rcases (s.failureTold k h cause).makeTimedBar_cases k h ((s.entry h).mark.getD 0) with ⟨bars, heq⟩ | heq
    · rw [heq]
      exact htold
    · rw [heq, State.reportErrors_writeEvent]
      exact htold

theorem State.reportErrors_judgeAttempts : (s.judgeAttempts k h).reportErrors = s.reportErrors := by
  unfold State.judgeAttempts
  split
  · exact s.reportErrors_failRanging k h 0
  · exact s.reportErrors_requestRanging k h

theorem State.reportErrors_pairSample (sample : Int) : (s.pairSample k h sample).reportErrors = s.reportErrors := by
  have hsettle : ∀ last, (s.settle k h sample last).reportErrors = s.reportErrors := fun _ =>
    State.reportErrors_dropClaim _ k h
  have hkeep : ((s.modEntry h fun e => { e with lastSample := some sample }).judgeAttempts k h).reportErrors
      = s.reportErrors := State.reportErrors_judgeAttempts _ k h
  unfold State.pairSample
  dsimp only
  split
  · exact hkeep
  · split
    · exact hsettle _
    · exact hkeep

theorem State.reportErrors_measureResult (c : Cycle) (point : Nat) (bursts : List Burst) :
    (s.measureResult k h c point bursts).reportErrors = s.reportErrors := by
  unfold State.measureResult
  dsimp only
  split
  · split
    · exact State.reportErrors_pairSample _ k h _
    · exact State.reportErrors_judgeAttempts _ k h
  · rfl

theorem State.reportErrors_tryCall : (s.tryCall k).reportErrors = s.reportErrors := by
  unfold State.tryCall
  dsimp only
  split
  · split
    · exact State.reportErrors_requestClaim _ k _
    · rfl
  · rfl

theorem State.reportErrors_callResult (c : Cycle) (bursts : List Burst) :
    (s.callResult k c bursts).reportErrors = s.reportErrors := by
  have hend : ∀ u : State, (u.endCall k).reportErrors = u.reportErrors := fun u => State.reportErrors_tryCall _ k
  have hsplit : ∀ head, (s.splitHead k head c).reportErrors = s.reportErrors := fun head => by
    unfold State.splitHead
    dsimp only
    split
    · rfl
    · exact State.reportErrors_writeEvent _ _ _ _ _
  unfold State.callResult
  split
  · rfl
  · split
    · split
      · exact State.reportErrors_tryCall _ k
      · rw [hend]
        split
        · exact hsplit _
        · rfl
    · rfl

theorem State.reportErrors_endWindow (c : Cycle) (i : Nat) (r : Reservation) :
    (s.endWindow k c i r).reportErrors = s.reportErrors := by
  unfold State.endWindow
  dsimp only
  split
  · exact State.reportErrors_callResult _ k c _
  · exact State.reportErrors_measureResult _ k _ c _ _
  all_goals rfl

theorem State.reportErrors_pauseCall : (s.pauseCall k).reportErrors = s.reportErrors := by
  unfold State.pauseCall
  split
  · rfl
  · split
    · rfl
    · rw [State.reportErrors_arbitrate]
      exact State.reportErrors_makeFrame _ _
    · rfl

theorem State.reportErrors_rogueClose (c : Cycle) (stray : Bool) :
    (s.rogueClose k c stray).reportErrors = s.reportErrors := by
  have hjudged : (s.strayJudged k stray).reportErrors = s.reportErrors := by cases stray <;> rfl
  have hfound : ∀ u : State, (u.sweepFound k).reportErrors = u.reportErrors := fun u => by
    unfold State.sweepFound
    split
    · exact State.reportErrors_writeEvent _ _ _ _ _
    · rfl
  have hclear : ∀ u : State, (u.clearRogue k c).reportErrors = u.reportErrors := fun u =>
    (State.reportErrors_tryCall _ k).trans ((hfound _).trans (State.reportErrors_writeEvent _ _ _ _ _))
  have hbecome : ∀ u : State, (u.becomeRogue k c).reportErrors = u.reportErrors := fun u =>
    (State.reportErrors_pauseCall _ k).trans (State.reportErrors_writeEvent _ _ _ _ _)
  have hmove : ∀ u : State, (u.moveCleanRun k c stray).reportErrors = u.reportErrors := fun u => by
    unfold State.moveCleanRun
    dsimp only
    split
    · rfl
    · split
      · exact hclear _
      · rfl
  rw [State.rogueClose_eq]
  split
  · exact (hmove _).trans hjudged
  · split
    · exact (hbecome _).trans hjudged
    · exact hjudged

theorem State.reportErrors_upkeepClose (c : Cycle) : (s.upkeepClose k c).reportErrors = s.reportErrors := by
  have hdark : ∀ u : State, (u.becomeDark k c).reportErrors = u.reportErrors := fun u =>
    (State.reportErrors_pauseCall _ k).trans (State.reportErrors_writeEvent _ _ _ _ _)
  have hclear : ∀ u : State, (u.clearDark k c).reportErrors = u.reportErrors := fun u =>
    (State.reportErrors_tryCall _ k).trans (State.reportErrors_writeEvent _ _ _ _ _)
  have hwhileLit : ∀ (u : State) judged, (u.closeWhileLit k c judged).reportErrors = u.reportErrors := fun u judged => by
    cases judged with
    | lit | neutral => rfl
    | dark =>
      unfold State.closeWhileLit
      dsimp only
      split
      · exact hdark _
      · rfl
  have hwhileDark : ∀ (u : State) judged, (u.closeWhileDark k c judged).reportErrors = u.reportErrors :=
    fun u judged => by
      cases judged with
      | dark | neutral => rfl
      | lit =>
        unfold State.closeWhileDark
        dsimp only
        split
        · exact hclear _
        · rfl
  unfold State.upkeepClose
  dsimp only
  split
  · exact hwhileDark _ _
  · exact hwhileLit _ _

end

/-! ## The close of a slot (R59, R83) -/

/-- Both monitors are told of the closed cycle, in one of the two orders, and its slot leaves the ring (R83). -/
def State.closedFrom (v : State) (k : TreeId) (c : Cycle) (stray : Bool) (t : State) : Prop := ∃ w,
  (w = (v.rogueClose k c stray).upkeepClose k c ∨ w = (v.upkeepClose k c).rogueClose k c stray)
    ∧ t = w.modCalendar k fun y => { y with ring := y.ring.filter fun j => j.cycle != c }

section
variable {v u : State} {k : TreeId} {c : Cycle} {order : Nat} {slot : Slot}

theorem State.closeNotices_cases (v : State) (k : TreeId) (c : Cycle) (stray : Bool) (order : Nat) :
    v.closeNotices k c stray order = (v.rogueClose k c stray).upkeepClose k c
      ∨ v.closeNotices k c stray order = (v.upkeepClose k c).rogueClose k c stray := by
  rw [State.closeNotices]
  split
  · exact .inl rfl
  · exact .inr rfl

theorem State.closedFrom_closeNotices (v : State) (k : TreeId) (c : Cycle) (stray : Bool) (order : Nat) :
    v.closedFrom k c stray ((v.closeNotices k c stray order).modCalendar k fun y =>
      { y with ring := y.ring.filter fun j => j.cycle != c }) :=
  ⟨_, v.closeNotices_cases k c stray order, rfl⟩

theorem State.closedFrom.reportErrors {stray : Bool} {t : State} (ht : v.closedFrom k c stray t) :
    t.reportErrors = v.reportErrors := by
  obtain ⟨w, hw, rfl⟩ := ht
  rw [State.modCalendar, State.modTree_reportErrors]
  rcases hw with rfl | rfl
  · rw [State.reportErrors_upkeepClose, State.reportErrors_rogueClose]
  · rw [State.reportErrors_rogueClose, State.reportErrors_upkeepClose]

theorem State.closedFrom.slot? {stray : Bool} {t : State} (ht : v.closedFrom k c stray t) :
    (t.tree k).calendar.slot? c = none := by
  obtain ⟨w, -, rfl⟩ := ht
  rw [State.tree_modCalendar, if_pos rfl]
  refine List.find?_eq_none.2 fun j hj hcycle => ?_
  exact absurd (beq_iff_eq.1 hcycle) (bne_iff_ne.1 (List.mem_filter.1 hj).2)

/-- With every quiet window ended the notices alone are given; the first unended one is ended first (R83). -/
theorem State.closeSlot_of_ended (hslot : (u.tree k).calendar.slot? ((u.tree k).n - 2) = some slot)
    (hended : openWindow slot.reservations = none) :
    u.closedFrom k ((u.tree k).n - 2) slot.stray (u.closeSlot k order) := by
  have heq : u.closeSlot k order = (u.closeNotices k ((u.tree k).n - 2) slot.stray order).modCalendar k fun y =>
      { y with ring := y.ring.filter fun j => j.cycle != (u.tree k).n - 2 } := by
    unfold State.closeSlot
    dsimp only
    rw [show (u.tree k).calendar.slot? ((u.tree k).n - 2#16) = some slot from hslot]
    dsimp only
    rw [hended]
    rfl
  rw [heq]
  exact State.closedFrom_closeNotices u k _ slot.stray order

theorem State.closeSlot_of_open {r : Reservation} {i : Nat}
    (hslot : (u.tree k).calendar.slot? ((u.tree k).n - 2) = some slot)
    (hopen : openWindow slot.reservations = some (r, i)) :
    (u.countReportError.endWindow k ((u.tree k).n - 2) i r).closedFrom k ((u.tree k).n - 2) slot.stray
      (u.closeSlot k order) := by
  have heq : u.closeSlot k order
      = ((u.countReportError.endWindow k ((u.tree k).n - 2) i r).closeNotices k ((u.tree k).n - 2) slot.stray
          order).modCalendar k fun y => { y with ring := y.ring.filter fun j => j.cycle != (u.tree k).n - 2 } := by
    unfold State.closeSlot
    dsimp only
    rw [show (u.tree k).calendar.slot? ((u.tree k).n - 2#16) = some slot from hslot]
    dsimp only
    rw [hopen]
    rfl
  rw [heq]
  exact State.closedFrom_closeNotices _ k _ slot.stray order

end

theorem openWindow_eq_none {rs : List Reservation} (h : ∀ r ∈ rs, r.isQuiet = true → r.ended = true) :
    openWindow rs = none := by
  refine List.find?_eq_none.2 fun x hx hopen => ?_
  rw [Bool.and_eq_true, Bool.not_eq_true'] at hopen
  have hended := h x.1 (List.fst_mem_of_mem_zipIdx hx) hopen.1
  exact Bool.false_ne_true (hopen.2.symm.trans hended)

/-- The first window that has not ended (R83). -/
theorem openWindow_eq_some {rs : List Reservation} {i : Nat} {r : Reservation} (hat : rs[i]? = some r)
    (hquiet : r.isQuiet = true) (hopen : r.ended = false)
    (hbefore : ∀ j p, j < i → rs[j]? = some p → p.isQuiet = true → p.ended = true) :
    openWindow rs = some (r, i) := by
  obtain ⟨hlt, hget⟩ := List.getElem?_eq_some_iff.1 hat
  refine List.find?_eq_some_iff_getElem.2 ⟨by rw [hquiet, hopen]; rfl, i, by rw [List.length_zipIdx]; exact hlt,
    by rw [List.getElem_zipIdx, hget, Nat.zero_add], fun j hj => ?_⟩
  rw [List.getElem_zipIdx]
  have hjlt : j < rs.length := hj.trans hlt
  cases hq : rs[j].isQuiet with
  | false => rfl
  | true => rw [hbefore j rs[j] hj (List.getElem?_eq_getElem hjlt) hq]; rfl

end Sys2Proof.Machine
end

section
/-! PROOFS. The boundary of a tree in service, as a whole (R3, R31, R32, R40, R59, R83, R89, R101). -/

namespace Sys2Proof.Machine

section
variable (s : State) (k : TreeId)

theorem exec_boundary (hservice : (s.tree k).inService = true) :
    exec (.boundary k) s = .next (s.boundaryOrder.2.boundaryUnder k s.boundaryOrder.1) := by
  show execBoundary k s = _
  rw [execBoundary, if_pos hservice]
  rfl

/-- What a boundary leaves of its tree, of the other trees and of the rest of the part (R3, R40). -/
structure BoundaryFrame (k : TreeId) (s t : State) : Prop where
  n : (t.tree k).n = (s.tree k).n + 1
  tuning : (t.tree k).tuning = (s.tree k).tuning.settle (s.tree k).pending
  pending : (t.tree k).pending = TuneTable.absent
  config : (t.tree k).config = (s.tree k).config
  state : (t.tree k).state = (s.tree k).state
  others : ∀ v, v ≠ k → t.tree v = s.tree v
  port : t.portPart = s.portPart

theorem BoundaryFrame.of_boundaryUnder (o : BoundaryOrder) : BoundaryFrame k s (s.boundaryUnder k o) := by
  have hbefore := EngineFrame.expiries s k o (arrange o.leftovers allExpiries)
  have hafter := EngineFrame.reactions k o o.sequence (s.advanced k o)
  rw [← State.boundaryUnder_eq] at hafter
  have htree := s.tree_advanced k o k
  rw [if_pos rfl] at htree
  refine ⟨by rw [hafter.tree.n, htree], by rw [hafter.tree.tuning, htree], by rw [hafter.tree.pending, htree],
    by rw [hafter.tree.config, htree, ← hbefore.tree.config], by rw [hafter.tree.state, htree, ← hbefore.tree.state],
    fun v hv => ?_, ?_⟩
  · rw [hafter.others v hv, State.tree_advanced, if_neg hv]
  · exact hafter.port.trans hbefore.port

end

/-- Settles O33: the boundary under the orders it draws, its reactions, the passage, the close and the timer. -/
theorem boundaryAdvancesItsTree : Obligations.BoundaryAdvancesItsTree := by
  refine ⟨fun k s hservice => ?boundary, fun k o u => ?reactions, fun k u slot hslot => ?pass,
    fun k u slot order hslot => ?close, fun c n => ?timer⟩
  case boundary =>
    obtain ⟨choices, freeCount, hdrawn⟩ := s.boundaryOrder_frame
    have hexec := exec_boundary s k hservice
    generalize s.boundaryOrder.1 = o at hexec
    generalize s.boundaryOrder.2 = u at hexec hdrawn
    have htrees : ∀ v, u.tree v = s.tree v := fun v => by rw [hdrawn]; rfl
    have hbars : u.bars = s.bars := by rw [hdrawn]
    have hframe := BoundaryFrame.of_boundaryUnder u k o
    have hcycle := u.cycle_mem_boundaryUnder k o
    have hcounted := State.boundaryUnder_bars (s := u) (t := k) o
    rw [htrees] at hcycle
    rw [hbars] at hcounted
    refine ⟨u.boundaryUnder k o, hexec, by rw [hframe.n, htrees], by rw [hframe.tuning, htrees], hframe.pending,
      by rw [hframe.config, htrees], by rw [hframe.state, htrees], hcycle, hcounted,
      fun v hv => (hframe.others v hv).trans (htrees v), ?lock, ?link, ?running, ?orders⟩
    case lock =>
      have hlock := congrArg PortPart.partLock hframe.port
      rw [hdrawn] at hlock ⊢
      exact hlock
    case link =>
      have hlink := congrArg PortPart.linkUp hframe.port
      rw [hdrawn] at hlink ⊢
      exact hlink
    case running =>
      have hrunning := congrArg PortPart.running hframe.port
      rw [hdrawn] at hrunning ⊢
      exact hrunning
    case orders =>
      exact ⟨o, arrange o.leftovers allExpiries, o.sequence, u, arrange_perm _ _, o.sequence_perm, o.sequence_apart,
        by rw [hdrawn], rfl⟩
  case reactions => exact ⟨rfl, rfl, rfl, rfl, rfl, rfl, fun e => by cases e <;> exact u.react_expiry k o _⟩
  case pass =>
    have hne := ne_pred (u.tree k).n
    have hpass := State.passSlots_eq hslot
    intro c t
    refine ⟨?_, fun next hnext => ?_, ?_⟩
    · show ((u.passSlots k).tree k).calendar.slot? _ = _
      rw [hpass, State.slot?_foldl_noLight _ (State.slot?_passed hne hslot), foldl_unlit]
    · show ((u.passSlots k).tree k).calendar.slot? _ = _
      rw [hpass, State.slot?_foldl_noLight_ne hne, State.slot?_passed_next hne hnext]
    · rw [← withoutOutcome_eq_filter]
      exact hpass
  case close =>
    intro c t told
    have hnone : ∀ v : State, v.closedFrom k c slot.stray t → (t.tree k).calendar.slot? c = none :=
      fun v hv => hv.slot?
    refine ⟨?_, fun hended => ?_, fun i r hat hquiet hopen hbefore => ?_⟩
    · cases hwindow : openWindow slot.reservations with
      | none => exact hnone _ (State.closeSlot_of_ended hslot hwindow)
      | some x => exact hnone _ (State.closeSlot_of_open hslot hwindow)
    · have hclosed := State.closeSlot_of_ended (order := order) hslot (openWindow_eq_none hended)
      exact ⟨hclosed, hclosed.reportErrors⟩
    · have hclosed := State.closeSlot_of_open (order := order) hslot (openWindow_eq_some hat hquiet hopen hbefore)
      exact ⟨hclosed, hclosed.reportErrors.trans (State.reportErrors_endWindow _ k c i r)⟩
  case timer =>
    intro d period
    refine ⟨fun hi => Discovery.iterate_tick_of_still hi n _, fun hi => ?_⟩
    have hcounts := Discovery.countsAt_iterate hi n
    exact ⟨hcounts.1, hcounts.2, (Discovery.countsAt_tick hi hcounts).2⟩

end Sys2Proof.Machine
end
